-- ==== Sys2Proof/Word.lean ====
section
/-! DEFINITION. The word types of the Apcel A9 model and the numbers that name its parts.
R4 (little-endian, bit 0 least significant), R5 (64-bit registers), R10 (logical core numbers). -/

namespace Sys2Proof

/-- One byte of memory, of a command or of an image (R4). -/
abbrev Byte := BitVec 8

/-- One register, or one 64-bit field of a structure (R5). -/
abbrev Word := BitVec 64

/-- A string of bytes, lowest address first (R4). -/
abbrev Bytes := List Byte

/-- Context slot, 0 to 15 (02_imposition.md). -/
abbrev Ctx := Fin 16

/-- Logical core number, 0 to 2,047 (R10). -/
abbrev CoreId := Fin 2048

/-- Cluster number die × 16 + cluster, 0 to 63 (Table 2.5). -/
abbrev ClusterId := Fin 64

/-- Compute die, 0 to 3. -/
abbrev DieId := Fin 4

/-- Huras link, 0 to 11. -/
abbrev LinkId := Fin 12

/-- Pool bank die × 64 + index, 0 to 255 (R166). -/
abbrev BankId := Fin 256

/-- Command ring, 0 to 63 (R232). -/
abbrev RingId := Fin 64

/-- Request slot, 0 to 262,143 (R228). -/
abbrev SlotId := Fin 262144

/-- Core group of a context, 0 to 63 (Table 2.4). -/
abbrev GroupId := Fin 64

end Sys2Proof
end

