-- ==== Sys2Proof/Syntax.lean ====
section
/-! DEFINITION. The commands and events of the module, one constructor of `Instr` for each row of
spec/opcode_table.json, in the table's order but for eleven rows at the end, and the plain data they carry. -/

namespace Sys2Proof

/-- How a read of host memory ended (R289): data, or a failure, by its timeout or otherwise (Unsupported Request, Completer
Abort, poison). -/
inductive HostResult where
  | ok (data : Bytes)
  | failed (timeout : Bool)
  deriving DecidableEq, Repr

/-- A watched line (R285): the tail line of a command ring, or the head line of a request's pour ring. -/
inductive WatchLine where
  | tail (ring : RingId)
  | head (slot : SlotId)
  deriving DecidableEq, Repr

/-- What a read of host memory reads (Table 12.4). -/
inductive HostRead where
  | tailLine (ring : RingId)
  | commandEntry (ring : RingId)
  | commandBlock (ring : RingId)
  | tree (slot : SlotId)
  | prompt (slot : SlotId)
  | headLine (slot : SlotId)
  | completionLine (ring : RingId)
  | goldenLine (line : Nat)
  | moveData
  | package
  deriving DecidableEq, Repr

/-- A register of configuration space, by what it is: a word of the standard header by its byte offset, the Message Control word
of MSI-X, Device Control 2, the two AER status registers, the CXL DVSEC range register that holds Mem_Active, or any other (log
entry 56). -/
inductive ConfigReg where
  | header (offset : BitVec 6)
  | msixControl
  | deviceControl2
  | aerUncorrectable
  | aerCorrectable
  | cxlRange
  | other (offset : BitVec 12)
  deriving DecidableEq, Repr

/-- A configuration request. -/
inductive ConfigRequest where
  | read (reg : ConfigReg)
  | write (reg : ConfigReg) (value : BitVec 32)
  deriving DecidableEq, Repr

/-- The fields of a 64-byte ring command beside its opcode (Table 10.4). -/
structure RingCmd where
  rsvd01 : BitVec 24
  slot : BitVec 32
  userTag : BitVec 32
  rsvd0C : BitVec 32
  addr : BitVec 64
  rsvd18 : BitVec 320
  deriving DecidableEq, Repr

/-- A Huras frame as it stands on the link (R302, Table 13.3): 16-byte header, 256-byte payload, encrypted on a sealed
link, and the GCM tag of a sealed frame. -/
structure Frame where
  header : BitVec 128
  payload : BitVec 2048
  tag : BitVec 128
  deriving DecidableEq, Repr

/-- What the link check of a CTRL frame looks at (R305): seq_lo of its header, and whether its tag or CRC is right. The
payloads of CTRL messages have no layout in the manual but for hello (log entry 25). -/
structure CtrlSeal where
  seqLo : Byte
  intact : Bool
  deriving DecidableEq, Repr

/-- Where a CTRL message arrives: its link, and how it passes check 1. -/
structure CtrlIn where
  link : LinkId
  ctl : CtrlSeal
  deriving DecidableEq, Repr

/-- What attestation gives of a partner (R322, R351): the fingerprint that its DeviceID certificate yields, and whether its
colophon attests the rack-trust enable. -/
structure PeerProof where
  fingerprint : BitVec 384
  trust : Bool
  deriving DecidableEq, Repr

/-- The two IDE streams (R298). -/
inductive IdeStream where
  | io
  | cachemem
  deriving DecidableEq, Repr

/-- The memory tier (08_memory.md). -/
inductive Tier where
  | fast
  | slow
  deriving DecidableEq, Repr

/-- What a patrol-scrub read finds in its line (R185). -/
inductive ScrubFinding where
  | clean
  | correctable
  | uncorrectable
  deriving DecidableEq, Repr

/-- The device rings in the fast tier whose index lines the device re-reads (R192, R222, R273, R362, R388). -/
inductive DeviceRing where
  | migration
  | packer
  | pageOp
  | security
  | fault
  deriving DecidableEq, Repr

/-- Where an SPDM exchange runs (R346): the DOE mailbox, MCTP, or a Huras link. -/
inductive SpdmPort where
  | doe
  | mctp
  | link (l : LinkId) (ctl : CtrlSeal)
  deriving DecidableEq, Repr

/-- What a link training measured (R307): the failing lanes at 224 Gb/s and at 112 Gb/s among lanes 0 to 8. -/
structure LaneResult where
  fail224 : List (Fin 9)
  fail112 : List (Fin 9)
  partner21 : Bool
  deriving DecidableEq, Repr

/-- The fields of a hello payload (Table 13.6). -/
structure HelloMsg where
  msg : Byte
  versions : Byte
  fabricId : BitVec 16
  link : Byte
  flags : Byte
  rsvd06 : BitVec 16
  fingerprint : BitVec 384
  rsvd38 : BitVec 1600
  deriving DecidableEq, Repr

/-- A TOPO message (R327): an identity and, for each UP link, the link number and the partner's identity; `leaves` holds
the partners on links of Huras 2.1, which send no TOPO of their own (R310, log entry 27). -/
structure TopoMsg where
  id : Fin 512
  partners : List (Fin 12 × Fin 512)
  leaves : List (Fin 12 × Fin 512)
  deriving DecidableEq, Repr

/-- What the training of one HBM4 stack found: failing lanes for each of its 8 channel groups (R186). -/
structure StackTraining where
  failing : List Nat
  deriving DecidableEq, Repr

/-- What memory training found (R186, R188, R190): per stack the failing lanes per channel group, and the
LPDDR6 packages with a channel that failed. -/
structure TrainingResult where
  hbm : List StackTraining
  packagesFailed : List (Fin 16)
  deriving DecidableEq, Repr

/-- Every command and event of the module: one constructor for each row of spec/opcode_table.json. -/
inductive Instr where
  -- host port (12_host.md)
  | registerWrite (addr : Nat) (width : Nat) (value : Word)
  | perstDeassert
  | cxlLinkUp (rate : Nat) (width : Nat) (cacheOn : Bool)
  | configRequest (request : ConfigRequest)
  | cxlLinkDown
  | functionLevelReset
  | hotReset
  | snoopInvalidation (line : WatchLine)
  | watchedLineData (line : WatchLine) (value : BitVec 32)
  | pollTick (tails : List (RingId × HostResult))
  | hostReadCompletion (what : HostRead) (result : HostResult)
  | cxlCacheReadTimeout (what : HostRead)
  | cxlIoReadTimeout (what : HostRead)
  | cxlCacheEnable
  | hdmDecoderCommit (ways : Nat) (granularity : Nat) (backInvalidate : Bool) (memEnable : Bool)
  | cxlMemRead (offset : BitVec 38)
  | cxlMemWrite (offset : BitVec 38) (data : BitVec 512) (enables : BitVec 64)
  | biSnoopResponse (line : Nat)
  | backInvalidateTimeout (line : Nat)
  | barWindowRead (offset : BitVec 34) (length : Nat)
  | barWindowWrite (offset : BitVec 34) (data : Bytes)
  | irqCoalesceExpiry (ring : RingId)
  | ideIntegrityFailure (stream : IdeStream)
  | ideKmMessage (stream : IdeStream) (setsKeys : Bool)
  -- mailbox
  | identify
  | backgroundOperationStatus
  | getEventRecords (log : Nat)
  | clearEventRecords (log : Nat) (handles : List Nat) (all : Bool)
  | getEventInterruptPolicy
  | setEventInterruptPolicy (policy : BitVec 32)
  | getFwInfo
  | transferFw (component : Fin 6) (offset : Nat) (data : Bytes) (last : Bool)
  | activateFw (component : Fin 6)
  | fwActivationInstant (component : Fin 6)
  | getTimestamp
  | setTimestamp (value : Word)
  | getSupportedLogs
  | getLog (log : Nat) (offset : Nat) (length : Nat)
  | handshake (minMajor minMinor maxMajor maxMinor : Byte)
  | release
  | move (src dst : Word) (length flags : BitVec 32)
  | moveComplete (hostData : HostResult)
  | unsupportedMailboxCommand (opcode : BitVec 16)
  -- SPDM
  | spdmGetMeasurements (port : SpdmPort) (index : Byte) (nonce : Option (BitVec 256))
  | spdmGetCertificate (port : SpdmPort) (slot : Fin 8) (offset length : Nat)
  | spdmChallenge (port : SpdmPort) (nonce : BitVec 256)
  | spdmKeyExchange (port : SpdmPort) (mutAuth : Bool)
  | spdmFinish (port : SpdmPort) (verified : Bool) (peer : PeerProof)
  | spdmKeyUpdate (port : SpdmPort)
  | spdmUnsupportedRequest (port : SpdmPort) (code : Byte)
  -- request engine (10_serving.md)
  | requestEngineEnable
  | requestTableReady
  | commandRingEnable (ring : RingId) (tail : HostResult) (head : HostResult)
  | commandRingDisable (ring : RingId)
  | submit (ring : RingId) (cmd : RingCmd) (block : HostResult)
  | cancel (ring : RingId) (cmd : RingCmd)
  | update (ring : RingId) (cmd : RingCmd) (block : HostResult)
  | setTree (ring : RingId) (cmd : RingCmd)
  | issue (ring : RingId) (cmd : RingCmd) (tiles : HostResult)
  | issueComplete (ring : RingId) (index : Nat)
  | nop (ring : RingId) (cmd : RingCmd)
  | nopComplete (ring : RingId) (index : Nat)
  | unknownRingCommand (ring : RingId) (opcode : Byte) (cmd : RingCmd)
  | periodStart (ctx : Ctx) (heads : List (SlotId × HostResult)) (trees : List (SlotId × HostResult)) (prompts : List (SlotId × HostResult))
  | onceEntry (ctx : Ctx)
  | groupEntry (ctx : Ctx)
  | sampleEntry (ctx : Ctx) (group : Nat)
  | promoteRanking (ctx : Ctx) (heads : List (SlotId × HostResult))
  | samplingJobStart (unit : Fin 2)
  | samplingJobComplete (unit : Fin 2)
  | periodEnd (ctx : Ctx)
  | periodDropComplete (ctx : Ctx)
  | endRecordWrite (slot : SlotId)
  | unloadEndRecordTimeout (ctx : Ctx)
  -- imposition loader (02_imposition.md)
  | load (ctx : Ctx)
  | replace (ctx : Ctx)
  | unload (ctx : Ctx)
  | validate (ctx : Ctx)
  | imageCopyComplete
  | pendingLoadValidationStart
  | imageValidationComplete
  | unloadDrainComplete (ctx : Ctx)
  | unloadReleaseComplete (ctx : Ctx)
  | sliceBoundary
  | contextTakenOnWork (ctx : Ctx)
  -- tile commands (03_core.md to 07_galley_pool.md, 11_attention.md)
  | taaDense (core : CoreId)
  | taaShift1 (core : CoreId)
  | taaShift2 (core : CoreId)
  | taaTable (core : CoreId)
  | taaPlane (core : CoreId)
  | cuGemm (core : CoreId)
  | cuWgrad (core : CoreId)
  | vec (core : CoreId)
  | topk (core : CoreId)
  | matchCmd (core : CoreId)
  | attn (core : CoreId)
  | combine (core : CoreId)
  | dma (core : CoreId)
  | groupFence (ctx : Ctx) (group : Byte)
  | preflight (core : CoreId)
  | reservedOpcode (core : CoreId)
  | hubDispatch (ctx : Ctx) (group : Byte)
  | fenceRelease (ctx : Ctx) (group : GroupId)
  | rowListExpansion (ctx : Ctx) (group : GroupId)
  | coreTakeCommand (core : CoreId)
  | coreSteal (core : CoreId)
  | tileCommandComplete (core : CoreId)
  | commandFault (core : CoreId)
  | reprintTrigger (core : CoreId)
  | coreQuiesce (core : CoreId) (quiesce : Bool)
  | expanderBlockDecoded (cluster : ClusterId)
  -- galleys and pool banks (07_galley_pool.md)
  | galleyDebugRead (core : CoreId) (line : Fin 4096)
  | galleyDebugWrite (core : CoreId) (line : Fin 4096)
  | poolOwnerWrite (bank : BankId) (owner : BitVec 16)
  | poolHandoverComplete (bank : BankId)
  | poolStateWrite (bank : BankId) (target : BitVec 2)
  | poolStateReached (bank : BankId)
  | marchStart (dieMask : BitVec 4) (preserve : Bool)
  | marchComplete (failedBanks : List BankId)
  -- memory, translation, migration (08_memory.md)
  | memoryBringUpComplete (training : TrainingResult)
  | patrolScrubRead (tier : Tier) (unit : Fin 16) (line : Nat) (finding : ScrubFinding)
  | errLogPop (tier : Tier)
  | xltFaultLogPop
  | xltInvalidate (ctx : Ctx) (sizeLog2 : BitVec 6)
  | xltInvalidateDone
  | pageRetire (page : BitVec 36)
  | pageRetireDone
  | ringIndexPoll (ring : DeviceRing)
  | copy
  | promote (fromEngine : Bool)
  | demote
  | poolAdd
  | poolTake
  | reservedMigrationKind
  | migrationCheckDone (id : Nat)
  | migrationCopyDone (id : Nat)
  | migrationFinalDone (id : Nat)
  -- compression (09_compression.md)
  | pack
  | unpack
  | reservedJobKind
  | packerJobComplete (id : Nat)
  | cmpInvalidate (ctx : Ctx)
  | cmpInvalidateDone
  | cmpErrLogPop
  -- page service (11_attention.md)
  | ledgerEnable (base : BitVec 24) (enable : Bool)
  | pageAllocate
  | copyOnWrite
  | share
  | free
  | reservedPageOpKind
  | heldPageWrite (ctx : Ctx)
  | compaction (slot : SlotId)
  | compactionComplete (slot : SlotId)
  | attErrLogPop
  -- Huras (13_huras.md)
  | presenceDetected (link : LinkId)
  | linkTrainingComplete (link : LinkId) (lanes : LaneResult)
  | absentTimeout (link : LinkId) (presenceSeen : Bool)
  | absentCheck (link : LinkId) (presence : Bool)
  | hello (link : CtrlIn) (msg : HelloMsg)
  | helloTimeout (link : LinkId)
  | writeFrame (link : LinkId) (frame : Frame)
  | readReq (link : LinkId) (frame : Frame)
  | readRsp (link : LinkId) (frame : Frame)
  | nack (link : LinkId) (frame : Frame)
  | writeAck (link : LinkId) (frame : Frame)
  | credit (link : LinkId) (frame : Frame)
  | creditSendTimer (link : LinkId)
  | ctrlNak (link : CtrlIn) (counter : Nat)
  | elect (link : CtrlIn) (id : Fin 512) (fingerprint : BitVec 384) (hops : Nat)
  | coord (link : CtrlIn) (id : Fin 512) (hops : Nat)
  | coordinatorDeclare
  | topo (link : CtrlIn) (msg : TopoMsg)
  | routeComputation
  | routeTable (link : CtrlIn) (dst : Fin 512) (routes : List (Fin 12 × Fin 16))
  | routeAck (link : CtrlIn) (id : Fin 512)
  | ready (link : CtrlIn) (modules : Nat)
  | mode (link : CtrlIn) (counter : Nat)
  | modeSwitch (link : LinkId)
  | heartbeat (link : CtrlIn) (id : Fin 512)
  | coordinatorLoss
  | hurasRequestTimeout (link : LinkId) (tag : BitVec 11)
  | creditStallTimeout (link : LinkId) (vc : Fin 3)
  | linkFence (link : LinkId)
  | sealKeyEpoch (link : LinkId)
  | linkRetrain (link : LinkId)
  | linkDisable (link : LinkId)
  | linkEnable (link : LinkId)
  | linkShutdownComplete (link : LinkId)
  | outboundInvalidate (slot : Fin 4096)
  | outboundInvalidateDone
  | hlErrLogPop
  -- security (14_security.md)
  | ctxRoot
  | assign
  | importPackage (header : HostResult)
  | importComplete (content : HostResult)
  | reservedSecOpKind
  | debugEnable
  | debugDisable
  | securityDomainReady (copyA : List Bool) (copyB : List Bool)
  | lmsSubtreeExhausted
  | lmsRenewalComplete
  | securityEngineRestartDone
  -- power, clocks, resets (15_power_module.md)
  | inputPowerUp (railsInRegulation : Nat)
  | powerGood
  | pwrEnLow
  | inputUndervoltage
  | inputOvervoltage
  | powerSample (watts : Nat) (steps : Nat)
  | ratioRaiseTick
  | throtNFall (ratio : Fin 33)
  | throtNRise
  | emergencyRelease
  | thermalThrottle (tmax : Nat) (ratio : Fin 33)
  | hbmHotRefresh (stack : Fin 6) (temp : Nat)
  | thermalTrip
  | domainStart (domain : Fin 18)
  | domainStop (domain : Fin 18)
  | coreNap (core : CoreId)
  | coreWake (core : CoreId)
  | clusterTargetOn (cluster : ClusterId)
  | clusterTargetGated (cluster : ClusterId)
  | clusterTargetOff (cluster : ClusterId)
  | clusterClockGated (cluster : ClusterId)
  | clusterShutdownComplete (cluster : ClusterId)
  | coreReset (core : BitVec 11)
  | clusterReset (cluster : BitVec 11)
  | dieReset (die : BitVec 11)
  | contextReset (ctx : BitVec 11)
  | linkReset (link : BitVec 11)
  | hubWarmReset
  | selfTestComplete (failedSlots : List (Fin 64 × Fin 33)) (failedBanks : List BankId)
  | pldmMonitoring (request : Nat)
  | pldmFirmwareUpdate (component : Fin 6) (image : Bytes)
  -- faults (16_faults.md)
  | slotFailure (core : CoreId) (detail : Fin 4)
  | hangDetected (core : CoreId) (clusterQueue : Bool)
  | spareSelfTestComplete (pass : Bool)
  | clusterLogicFault (cluster : ClusterId)
  | dieFabricFault (die : DieId) (d2d : Bool)
  | samplerSelfCheckFail (unit : Fin 2)
  | stateMachineSelfCheckFail (copy : Fin 2)
  | goldenLineReadDone (line : Nat) (golden : HostResult)
  | repairReadback (line : Nat) (poisoned : Bool)
  | reservedFrameType (link : LinkId) (frame : Frame)
  | pwrEnHigh (railsInRegulation : Nat)
  -- rows without operands, kept last: compiled code tags no constructor with operands past 243
  | resetComplete
  | moduleColdReset
  | hubReady
  | faultRecordWrite
  | spareTakeover
  | clusterRemoval
  | stateMachineMismatch
  | repairStart
  | cxlCacheDisable
  | basicEndRecordTimeout
  | ctrlHeartbeatSend
  deriving DecidableEq, Repr

end Sys2Proof
end

