-- ==== Sys2Proof/Config.lean ====
section
/-! DEFINITION. What one Apcel A9 fixes and what its manual leaves open.
Every `opaque` below has no body: nothing can be proved about its value, so a claim holds whatever it is.
Log entries 2 (undefined data), 3 (cryptography), 4 (bounded accuracy), 5 (identity and pins). -/

namespace Sys2Proof

/-! ## Undefined data -/

/-- The byte that undefined data reads as: `nonce` names the event that left the data undefined, `addr` the byte.
R75, R78 (cancelled or faulted output), R82, R165, R171 (bank after OFF), R222. FREE VALUE, log entry 2. -/
opaque Config.freeByte (nonce addr : Nat) : Byte

/-- An undefined or unstated value that an event needs; `nonce` is the model's counter `free`. FREE VALUE, log entry 2. -/
opaque Config.freeWord (nonce : Nat) : Word

/-- Whether a cached translation entry is still held when memory already holds another one (R202, R203).
FREE VALUE, log entry 6. -/
opaque Config.cacheKept (ctx entryAddr nonce : Nat) : Bool

/-- The half of the batch area that period 0 would use (R236 gives the parity, not its start). FREE VALUE, log entry 10. -/
opaque Config.batchPhase : Nat

/-- Mesh hops between two clusters of a die (Table 3.7 orders by them and no layout is given). FREE VALUE, log entry 18. -/
opaque Config.meshHops (a b : Nat) : Nat

/-- The code lengths that a proof pass chooses from the byte counts of a segment (R218: any valid table decodes).
Used only where they make a valid table that codes every byte counted. FREE VALUE, log entry 24. -/
opaque Config.proofLengths (counts : List Nat) : List Nat

/-! ## Cryptography that the manual names and does not give (log entry 3) -/

/-- SHA-384 of a string of bytes. -/
opaque Config.sha384 (data : Bytes) : BitVec 384

/-- Whether an ECDSA P-384 signature verifies over a digest under the key pair with this identifier (R34, R333). -/
opaque Config.ecdsaOk (key : Nat) (digest : BitVec 384) (sig : Bytes) : Bool

/-- Whether an LMS (HSS) signature verifies over a digest under the key pair with this identifier (R34, R333). -/
opaque Config.lmsOk (key : Nat) (digest : BitVec 384) (sig : Bytes) : Bool

/-- HMAC-SHA-384 of data under a key (R340). -/
opaque Config.hmac384 (key data : Bytes) : BitVec 384

/-- HKDF-SHA-384 of a secret and an info string (R340). -/
opaque Config.hkdf384 (secret info : Bytes) : BitVec 384

/-- HKDF-Expand with SHA-384 and 32 bytes of output, from a secret named by its identity (R351). -/
opaque Config.hkdfExpand (secret : Nat) (info : Bytes) : BitVec 256

/-- Public key of the ECDSA P-384 key pair that a derived secret gives. -/
opaque Config.ecdsaPublic (secret : BitVec 384) : Bytes

/-- Public key of the LMS top tree that a derived secret gives. -/
opaque Config.lmsPublic (secret : BitVec 384) : Bytes

/-- Public key of the ECDH P-384 key pair that a derived secret gives. -/
opaque Config.ecdhPublic (secret : BitVec 384) : Bytes

/-- Encapsulation key of the ML-KEM-1024 key pair that a derived secret gives. -/
opaque Config.kemPublic (secret : BitVec 384) : Bytes

/-- An ECDSA signature made with the key pair that a derived secret gives (R347). -/
opaque Config.ecdsaSign (secret : BitVec 384) (digest : BitVec 384) : Bytes

/-- An LMS signature made with a leaf of a subtree (R342, R347). -/
opaque Config.lmsSign (subtree leaf : Nat) (digest : BitVec 384) : Bytes

/-- Byte `i` of the AES-256-XTS ciphertext of a 64-byte line at `addr` under key `key` (R356). -/
opaque Config.xtsByte (key addr : Nat) (plain : Bytes) (i : Nat) : Byte

/-- Byte at `addr` when data written under key `written` is decrypted with key `key` (R358: unrelated to any plaintext). -/
opaque Config.foreignByte (key written addr : Nat) (stored : Byte) : Byte

/-- The key stream of AES-256-GCM for a payload under a key and a nonce; the counter mode of GCM adds it to the payload bit by
bit (R305). -/
opaque Config.gcmStream (key : BitVec 256) (nonce : BitVec 96) : BitVec 2048

/-- The GCM tag of a sealed frame over its header and its encrypted payload (R305). -/
opaque Config.gcmTag (key : BitVec 256) (nonce : BitVec 96) (header : BitVec 128) (payload : BitVec 2048) : BitVec 128

/-- Byte `i` of the plaintext of a content unit of a model package (R363). -/
opaque Config.contentByte (key unit : Nat) (cipher : Bytes) (i : Nat) : Byte

/-- The content key of 64 bytes that this device recovers from its package entry with the binding keys of a derived secret; none
when the unwrap fails its integrity check (R363, R364 step 3). -/
opaque Config.unwrapKey (secret : BitVec 384) (h : BitVec 384) (entry : Bytes) : Option (BitVec 512)

/-! ## Numeric operations whose accuracy, not value, the manual gives (log entry 4) -/

/-- A candidate result of a vector-unit special function; used only where it lies within the stated bound
(Tables 5.5 and 5.6). -/
opaque Config.vecCandidate (op : Nat) (operands : List (BitVec 32)) : BitVec 32

/-! ## One module's identity, pins and fuses (log entry 5) -/

/-- The 256-bit unique device secret in the fuses (R331). -/
opaque Config.uds : BitVec 256

/-- The fused SHA-384 digest of Cytia firmware key pair 0 to 3 (R331). -/
opaque Config.keyDigest (slot : Nat) : BitVec 384

/-- Which of the four fused key pairs are not revoked (R333). -/
opaque Config.fusedKeys : BitVec 4

/-- The bytes of an info string. -/
def asciiBytes (x : String) : Bytes := x.toList.map fun c => BitVec.ofNat 8 c.toNat

/-- The secret of a key that is derived from the UDS alone (Table 14.5). -/
def Config.identity (info : String) : BitVec 384 :=
  Config.hkdf384 ((List.range 32).map fun i => BitVec.ofNat 8 (Config.uds.toNat / 256 ^ i)) (asciiBytes info)

/-- The first `n` bytes of a key. -/
def Config.keyBytes (n : Nat) (b : Bytes) : Bytes := (b ++ List.replicate n 0).take n

/-- The four public keys of the device, in the order of R341. -/
def Config.publicKeys : Bytes :=
  Config.keyBytes 97 (Config.ecdsaPublic (Config.identity "DeviceID")) ++
  Config.keyBytes 56 (Config.lmsPublic (Config.identity "LMS top")) ++
  Config.keyBytes 97 (Config.ecdhPublic (Config.identity "binding")) ++
  Config.keyBytes 1568 (Config.kemPublic (Config.identity "binding"))

/-- The device fingerprint (R341). -/
def Config.fingerprint : BitVec 384 := Config.sha384 Config.publicKeys

/-- Measurement of the image of a component written at manufacture (R336). -/
opaque Config.factoryMeasurement (component : Nat) : BitVec 384

/-- Whether a commit of an LMS index to the secure NVM fails (R343). FREE VALUE, log entry 45. -/
opaque Config.commitFails (nonce : Nat) : Bool

/-- Digest of the boot ROM (Table 14.7, index 0). -/
opaque Config.romDigest : BitVec 384

/-- FID8 to FID0 as the backplane drives them (R383). -/
opaque Config.fidPins : BitVec 9

/-- FID_PAR as the backplane drives it (R383). -/
opaque Config.fidPar : Bool

/-- The certificate of the Cytia root (R341). -/
opaque Config.rootCertificate : Bytes

/-- The DeviceID certificate, signed by the root, with the other three public keys as extensions (R341). -/
opaque Config.deviceCertificate (publicKeys : Bytes) : Bytes

/-- The Alias certificate: the Alias public key, signed with the DeviceID key (R340, R341). -/
opaque Config.aliasCertificate (deviceSecret : BitVec 384) (aliasPublic : Bytes) : Bytes

/-- Bits of configuration space that PCI Express and CXL 3.1 fix and the manual does not give. -/
opaque Config.configSpace (reg : ConfigReg) : BitVec 32

/-- The name that the model gives BAR2 offset 0 in a REGISTER_WRITE: BAR2 has no device physical address (Table 12.2, log entry 56). -/
def Config.bar2 : Nat := 2 ^ 60

/-- Output payloads that CXL 3.1, SPDM 1.3 or PLDM fix and the manual does not give, by command and input. -/
opaque Config.standardReply (command : Nat) (input : Bytes) : Bytes

/-- Measured values: input voltage in mV, temperature and other sensors (R386). -/
opaque Config.sensor (kind nonce : Nat) : BitVec 16

/-! ## Sizes the manual fixes -/

/-- First byte after the fast tier, 576 GiB (Table 1.2). -/
def Config.fastEnd : Nat := 0x0090_0000_0000

/-- First byte of the slow tier (Table 1.2). -/
def Config.slowBase : Nat := 0x0100_0000_0000

/-- First byte after the slow tier, 1,024 GiB (Table 1.2). -/
def Config.slowEnd : Nat := 0x0200_0000_0000

/-- First byte of the pool banks, 256 MiB (Table 1.2). -/
def Config.poolBase : Nat := 0x0200_0000_0000

/-- First byte after the pool banks. -/
def Config.poolEnd : Nat := 0x0200_1000_0000

/-- First byte of the galleys, 512 MiB (Table 1.2). -/
def Config.galleyBase : Nat := 0x0300_0000_0000

/-- First byte after the galleys. -/
def Config.galleyEnd : Nat := 0x0300_2000_0000

/-- First byte of the block registers (R410). -/
def Config.regBase : Nat := 0x0F00_0000_0000

/-- First byte of the per-core registers (R410). -/
def Config.coreRegBase : Nat := 0x0F10_0000_0000

/-- First byte of the remote-window aperture (R313). -/
def Config.windowBase : Nat := 0x1000_0000_0000

/-- First byte after the remote-window aperture (R313). -/
def Config.windowEnd : Nat := 0x1100_0000_0000

/-- Bytes of one galley (R155). -/
def Config.galleyBytes : Nat := 0x4_0000

/-- Bytes of one pool bank (R166). -/
def Config.bankBytes : Nat := 0x10_0000

/-- Keep-warm ticks of 10 ns in one second (R405). -/
def Config.ticksPerSecond : Nat := 100_000_000

end Sys2Proof
end

