-- ==== Sys2Proof/Machine/Regs.lean ====
section
/-! DEFINITION. The register map: the address of every register of Tables 17.4 to 17.10, its fields with their places
and access types, and its reset value. R5, R6, R410, R411. -/

namespace Sys2Proof.Machine

/-- Access types of register fields (Table 0.3). -/
inductive Acc where
  | ro | rw | w1c | wo | boot | dbgRo | dbgRw | dbgWo
  deriving DecidableEq, Repr

/-- One field of a register row; `perBit` marks a field that R5 treats as independent one-bit fields. -/
structure RegField where
  hi : Nat
  lo : Nat
  acc : Acc
  perBit : Bool
  deriving DecidableEq, Repr

/-- One row of the register index: `count` registers at `off + stride * i` of a block. -/
structure RegRow where
  off : Nat
  count : Nat
  stride : Nat
  reset : Nat
  fields : List RegField
  deriving DecidableEq, Repr

/-- A field of one register: its register's address, its lowest bit and its width. -/
structure Fld where
  addr : Nat
  lo : Nat
  width : Nat
  deriving DecidableEq, Repr

/-- Bit `i` of a field that has one bit for each item. -/
def Fld.item (f : Fld) (i : Nat) : Fld := ⟨f.addr, f.lo + i, 1⟩

/-! ## Addresses -/

/-- HUB_ID, RO, 00_scope.md. -/
def Reg.hubId : Nat := 0xF0000000000

/-- HUB_BLOCKS, RO, 17_register_index.md. -/
def Reg.hubBlocks : Nat := 0xF0000000008

/-- HUB_D2D_STATUS, RO, 17_register_index.md. -/
def Reg.hubD2dStatus : Nat := 0xF0000000010

/-- HUB_D2D_CNT, RO, 17_register_index.md. -/
def Reg.hubD2dCnt (i : Nat) : Nat := 0xF0000000018 + 0x8 * i

/-- GAL_CAP, RO, 07_galley_pool.md. -/
def Reg.galCap : Nat := 0xF0000020000

/-- GAL_DBG_SEL, DBG/RW, 07_galley_pool.md. -/
def Reg.galDbgSel : Nat := 0xF0000020008

/-- GAL_DBG_DATA, DBG/RW, 07_galley_pool.md. -/
def Reg.galDbgData (i : Nat) : Nat := 0xF0000020010 + 0x8 * i

/-- GAL_WHEEL, RO, 07_galley_pool.md. -/
def Reg.galWheel (i : Nat) : Nat := 0xF0000024000 + 0x8 * i

/-- GAL_CNT, RO, 07_galley_pool.md. -/
def Reg.galCnt (i : Nat) : Nat := 0xF0000028000 + 0x8 * i

/-- POOL_CAP, RO, 07_galley_pool.md. -/
def Reg.poolCap : Nat := 0xF0000030000

/-- POOL_CTRL, RW, 07_galley_pool.md. -/
def Reg.poolCtrl : Nat := 0xF0000030008

/-- POOL_MARCH_CTRL, RW, 07_galley_pool.md. -/
def Reg.poolMarchCtrl : Nat := 0xF0000030010

/-- POOL_MARCH_STATUS, RO/W1C, 07_galley_pool.md. -/
def Reg.poolMarchStatus : Nat := 0xF0000030018

/-- POOL_MARCH_FAIL, RO, 07_galley_pool.md. -/
def Reg.poolMarchFail (i : Nat) : Nat := 0xF0000030020 + 0x8 * i

/-- POOL_OWNER, RW, 07_galley_pool.md. -/
def Reg.poolOwner (i : Nat) : Nat := 0xF0000031000 + 0x8 * i

/-- POOL_STATE, RW, 07_galley_pool.md. -/
def Reg.poolState (i : Nat) : Nat := 0xF0000031800 + 0x8 * i

/-- POOL_CNT, RO, 07_galley_pool.md. -/
def Reg.poolCnt (i : Nat) : Nat := 0xF0000032000 + 0x8 * i

/-- MEMF_CAP, RO, 08_memory.md. -/
def Reg.memfCap : Nat := 0xF0000040000

/-- MEMF_STATUS, RO, 08_memory.md. -/
def Reg.memfStatus : Nat := 0xF0000040008

/-- MEMF_SCRUB, RW, 08_memory.md. -/
def Reg.memfScrub : Nat := 0xF0000040010

/-- MEMF_ERR_CNT, RO, 08_memory.md. -/
def Reg.memfErrCnt : Nat := 0xF0000040018

/-- MEMF_ERR_LOG0, RO/W1C, 08_memory.md. -/
def Reg.memfErrLog0 : Nat := 0xF0000040020

/-- MEMF_ERR_LOG1, RO, 08_memory.md. -/
def Reg.memfErrLog1 : Nat := 0xF0000040028

/-- MEMF_LANE, RO, 08_memory.md. -/
def Reg.memfLane (i : Nat) : Nat := 0xF0000040040 + 0x8 * i

/-- MEMS_CAP, RO, 08_memory.md. -/
def Reg.memsCap : Nat := 0xF0000050000

/-- MEMS_STATUS, RO, 08_memory.md. -/
def Reg.memsStatus : Nat := 0xF0000050008

/-- MEMS_SCRUB, RW, 08_memory.md. -/
def Reg.memsScrub : Nat := 0xF0000050010

/-- MEMS_ERR_CNT, RO, 08_memory.md. -/
def Reg.memsErrCnt : Nat := 0xF0000050018

/-- MEMS_ERR_LOG0, RO/W1C, 08_memory.md. -/
def Reg.memsErrLog0 : Nat := 0xF0000050020

/-- MEMS_ERR_LOG1, RO, 08_memory.md. -/
def Reg.memsErrLog1 : Nat := 0xF0000050028

/-- MEMS_HDM, RW, 08_memory.md. -/
def Reg.memsHdm : Nat := 0xF0000050030

/-- MEMS_MIG_RING, RW, 08_memory.md. -/
def Reg.memsMigRing : Nat := 0xF0000050038

/-- MEMS_MIG_CPL, RW, 08_memory.md. -/
def Reg.memsMigCpl : Nat := 0xF0000050040

/-- MEMS_MIG_CTRL, RW, 08_memory.md. -/
def Reg.memsMigCtrl : Nat := 0xF0000050048

/-- MEMS_MIG_STATUS, RO, 08_memory.md. -/
def Reg.memsMigStatus : Nat := 0xF0000050050

/-- MEMS_MIG_CNT, RO, 08_memory.md. -/
def Reg.memsMigCnt : Nat := 0xF0000050058

/-- XLT_CAP, RO, 08_memory.md. -/
def Reg.xltCap : Nat := 0xF0000060000

/-- XLT_INV_VA, RW, 08_memory.md. -/
def Reg.xltInvVa : Nat := 0xF0000060008

/-- XLT_INV_CTRL, WO, 08_memory.md. -/
def Reg.xltInvCtrl : Nat := 0xF0000060010

/-- XLT_INV_STATUS, RO/W1C, 08_memory.md. -/
def Reg.xltInvStatus : Nat := 0xF0000060018

/-- XLT_RETIRE, WO, 08_memory.md. -/
def Reg.xltRetire : Nat := 0xF0000060020

/-- XLT_RETIRE_STATUS, RO/W1C, 08_memory.md. -/
def Reg.xltRetireStatus : Nat := 0xF0000060028

/-- XLT_FAULT_LOG0, RO/W1C, 08_memory.md. -/
def Reg.xltFaultLog0 : Nat := 0xF0000060030

/-- XLT_FAULT_LOG1, RO, 08_memory.md. -/
def Reg.xltFaultLog1 : Nat := 0xF0000060038

/-- XLT_CNT, RO, 08_memory.md. -/
def Reg.xltCnt : Nat := 0xF0000060040

/-- CMP_CAP, RO, 09_compression.md. -/
def Reg.cmpCap : Nat := 0xF0000070000

/-- CMP_CTRL, RW, 09_compression.md. -/
def Reg.cmpCtrl : Nat := 0xF0000070008

/-- CMP_STATUS, RO, 09_compression.md. -/
def Reg.cmpStatus : Nat := 0xF0000070010

/-- CMP_JOB_RING, RW, 09_compression.md. -/
def Reg.cmpJobRing : Nat := 0xF0000070018

/-- CMP_JOB_CPL, RW, 09_compression.md. -/
def Reg.cmpJobCpl : Nat := 0xF0000070020

/-- CMP_INV, WO, 09_compression.md. -/
def Reg.cmpInv : Nat := 0xF0000070028

/-- CMP_INV_STATUS, RO/W1C, 09_compression.md. -/
def Reg.cmpInvStatus : Nat := 0xF0000070030

/-- CMP_ERR_LOG0, RO/W1C, 09_compression.md. -/
def Reg.cmpErrLog0 : Nat := 0xF0000070038

/-- CMP_ERR_LOG1, RO, 09_compression.md. -/
def Reg.cmpErrLog1 : Nat := 0xF0000070040

/-- CMP_CNT_BLOCKS, RO, 09_compression.md. -/
def Reg.cmpCntBlocks : Nat := 0xF0000070048

/-- CMP_RGN, RW, 09_compression.md. -/
def Reg.cmpRgn (i : Nat) : Nat := 0xF0000070100 + 0x8 * i

/-- CMP_CNT, RO, 09_compression.md. -/
def Reg.cmpCnt (i : Nat) : Nat := 0xF0000070400 + 0x8 * i

/-- REQ_CAP, RO, 10_serving.md. -/
def Reg.reqCap : Nat := 0xF0000080000

/-- REQ_CTRL, RW, 10_serving.md. -/
def Reg.reqCtrl : Nat := 0xF0000080008

/-- REQ_TABLE, RW, 10_serving.md. -/
def Reg.reqTable : Nat := 0xF0000080010

/-- REQ_STATUS, RO, 10_serving.md. -/
def Reg.reqStatus : Nat := 0xF0000080018

/-- REQ_CTX, RW, 10_serving.md. -/
def Reg.reqCtx (i : Nat) : Nat := 0xF0000080100 + 0x8 * i

/-- REQ_PROG, RW, 10_serving.md. -/
def Reg.reqProg (i : Nat) : Nat := 0xF0000080180 + 0x8 * i

/-- REQ_BATCH, RW, 10_serving.md. -/
def Reg.reqBatch (i : Nat) : Nat := 0xF0000080200 + 0x8 * i

/-- REQ_PERIOD_NOW, RO/W1C, 10_serving.md. -/
def Reg.reqPeriodNow (i : Nat) : Nat := 0xF0000080280 + 0x8 * i

/-- REQ_CRING, RW, 10_serving.md. -/
def Reg.reqCring (i : Nat) : Nat := 0xF0000080400 + 0x10 * i

/-- REQ_CCPL, RW, 10_serving.md. -/
def Reg.reqCcpl (i : Nat) : Nat := 0xF0000080408 + 0x10 * i

/-- REQ_QSEL, RW, 10_serving.md. -/
def Reg.reqQsel : Nat := 0xF0000080800

/-- REQ_QDATA, RO, 10_serving.md. -/
def Reg.reqQdata : Nat := 0xF0000080808

/-- REQ_CNT, RO, 10_serving.md. -/
def Reg.reqCnt : Nat := 0xF0000080810

/-- REQ_CNT2, RO, 10_serving.md. -/
def Reg.reqCnt2 : Nat := 0xF0000080818

/-- SMP_CAP, RO, 10_serving.md. -/
def Reg.smpCap : Nat := 0xF0000090000

/-- SMP_CTRL, RW, 10_serving.md. -/
def Reg.smpCtrl : Nat := 0xF0000090008

/-- SMP_STATUS, RO, 10_serving.md. -/
def Reg.smpStatus : Nat := 0xF0000090010

/-- SMP_CNT, RO, 10_serving.md. -/
def Reg.smpCnt (i : Nat) : Nat := 0xF0000090018 + 0x8 * i

/-- ATT_CAP, RO, 11_attention.md. -/
def Reg.attCap : Nat := 0xF00000A0000

/-- ATT_LEDGER, RW, 11_attention.md. -/
def Reg.attLedger : Nat := 0xF00000A0008

/-- ATT_STATUS, RO/W1C, 11_attention.md. -/
def Reg.attStatus : Nat := 0xF00000A0010

/-- ATT_OP_RING, RW, 11_attention.md. -/
def Reg.attOpRing : Nat := 0xF00000A0018

/-- ATT_OP_CPL, RW, 11_attention.md. -/
def Reg.attOpCpl : Nat := 0xF00000A0020

/-- ATT_ERR_LOG0, RO/W1C, 11_attention.md. -/
def Reg.attErrLog0 : Nat := 0xF00000A0028

/-- ATT_ERR_LOG1, RO, 11_attention.md. -/
def Reg.attErrLog1 : Nat := 0xF00000A0030

/-- ATT_CNT, RO, 11_attention.md. -/
def Reg.attCnt : Nat := 0xF00000A0038

/-- ATT_CNT2, RO, 11_attention.md. -/
def Reg.attCnt2 : Nat := 0xF00000A0040

/-- ATT_CNT3, RO, 11_attention.md. -/
def Reg.attCnt3 : Nat := 0xF00000A0048

/-- ATT_GEOM, RW, 11_attention.md. -/
def Reg.attGeom (i : Nat) : Nat := 0xF00000A0100 + 0x8 * i

/-- ATT_FREE, RW, 11_attention.md. -/
def Reg.attFree (i : Nat) : Nat := 0xF00000A0200 + 0x10 * i

/-- ATT_REL, RW, 11_attention.md. -/
def Reg.attRel (i : Nat) : Nat := 0xF00000A0208 + 0x10 * i

/-- CXL_CAP, RO, 12_host.md. -/
def Reg.cxlCap : Nat := 0xF00000B0000

/-- CXL_LINK, RO, 12_host.md. -/
def Reg.cxlLink : Nat := 0xF00000B0008

/-- CXL_STATUS, RO, 12_host.md. -/
def Reg.cxlStatus : Nat := 0xF00000B0010

/-- CXL_WIN, RW, 12_host.md. -/
def Reg.cxlWin : Nat := 0xF00000B0018

/-- CXL_RING_ERR, W1C, 12_host.md. -/
def Reg.cxlRingErr : Nat := 0xF00000B0020

/-- CXL_IRQ_COAL, RW, 12_host.md. -/
def Reg.cxlIrqCoal : Nat := 0xF00000B0028

/-- CXL_CNT, RO, 12_host.md. -/
def Reg.cxlCnt : Nat := 0xF00000B0030

/-- CXL_ERR_CNT, RO, 12_host.md. -/
def Reg.cxlErrCnt : Nat := 0xF00000B0038

/-- CXL_WATCH, RO, 12_host.md. -/
def Reg.cxlWatch : Nat := 0xF00000B0040

/-- CXL_PEV, RW/W1C, 12_host.md. -/
def Reg.cxlPev (i : Nat) : Nat := 0xF00000B0100 + 0x8 * i

/-- HL_CAP, RO, 13_huras.md. -/
def Reg.hlCap : Nat := 0xF00000C0000

/-- HL_FABRIC, RO, 13_huras.md. -/
def Reg.hlFabric : Nat := 0xF00000C0008

/-- HL_CTRL, RW, 13_huras.md. -/
def Reg.hlCtrl : Nat := 0xF00000C0010

/-- HL_TIMEOUT, RW, 13_huras.md. -/
def Reg.hlTimeout : Nat := 0xF00000C0018

/-- HL_FENCE, RW, 13_huras.md. -/
def Reg.hlFence : Nat := 0xF00000C0020

/-- HL_OUTTAB, RW, 13_huras.md. -/
def Reg.hlOuttab : Nat := 0xF00000C0028

/-- HL_OUTINV, RW, 13_huras.md. -/
def Reg.hlOutinv : Nat := 0xF00000C0030

/-- HL_ERR_LOG0, RO/W1C, 13_huras.md. -/
def Reg.hlErrLog0 : Nat := 0xF00000C0038

/-- HL_ERR_LOG1, RO, 13_huras.md. -/
def Reg.hlErrLog1 : Nat := 0xF00000C0040

/-- HL_RSEL, RW, 13_huras.md. -/
def Reg.hlRsel : Nat := 0xF00000C0048

/-- HL_RDATA, RO, 13_huras.md. -/
def Reg.hlRdata : Nat := 0xF00000C0050

/-- HL_LSTAT, RO, 13_huras.md. -/
def Reg.hlLstat (i : Nat) : Nat := 0xF00000C0100 + 0x40 * i

/-- HL_LCTRL, RW, 13_huras.md. -/
def Reg.hlLctrl (i : Nat) : Nat := 0xF00000C0108 + 0x40 * i

/-- HL_LERR, RO, 13_huras.md. -/
def Reg.hlLerr (i : Nat) : Nat := 0xF00000C0110 + 0x40 * i

/-- HL_LTRAF, RO, 13_huras.md. -/
def Reg.hlLtraf (i : Nat) : Nat := 0xF00000C0118 + 0x40 * i

/-- SEC_CAP, RO, 14_security.md. -/
def Reg.secCap : Nat := 0xF00000D0000

/-- SEC_STATUS, RO, 14_security.md. -/
def Reg.secStatus : Nat := 0xF00000D0008

/-- SEC_RESETGEN, RO, 14_security.md. -/
def Reg.secResetgen : Nat := 0xF00000D0010

/-- SEC_PROT, BOOT, 14_security.md. -/
def Reg.secProt : Nat := 0xF00000D0018

/-- SEC_CTXTAB, BOOT, 14_security.md. -/
def Reg.secCtxtab : Nat := 0xF00000D0020

/-- SEC_TAGTAB, BOOT, 14_security.md. -/
def Reg.secTagtab : Nat := 0xF00000D0028

/-- SEC_ARB, BOOT, 14_security.md. -/
def Reg.secArb : Nat := 0xF00000D0030

/-- SEC_DBG, RW, 14_security.md. -/
def Reg.secDbg : Nat := 0xF00000D0038

/-- SEC_SLICE, RW, 14_security.md. -/
def Reg.secSlice : Nat := 0xF00000D0040

/-- SEC_OP_RING, RW, 14_security.md. -/
def Reg.secOpRing : Nat := 0xF00000D0048

/-- SEC_OP_CPL, RW, 14_security.md. -/
def Reg.secOpCpl : Nat := 0xF00000D0050

/-- SEC_LMS, RO, 14_security.md. -/
def Reg.secLms : Nat := 0xF00000D0058

/-- SEC_FPRINT, RO, 14_security.md. -/
def Reg.secFprint (i : Nat) : Nat := 0xF00000D0060 + 0x8 * i

/-- SEC_IMPKEY, RO, 14_security.md. -/
def Reg.secImpkey (i : Nat) : Nat := 0xF00000D0090 + 0x8 * i

/-- SEC_FW_BASE, BOOT, 14_security.md. -/
def Reg.secFwBase (i : Nat) : Nat := 0xF00000D0100 + 0x10 * i

/-- SEC_FW_LIMIT, BOOT, 14_security.md. -/
def Reg.secFwLimit (i : Nat) : Nat := 0xF00000D0108 + 0x10 * i

/-- PWR_CAP, RO, 15_power_module.md. -/
def Reg.pwrCap : Nat := 0xF00000E0000

/-- PWR_STATUS, RO, 15_power_module.md. -/
def Reg.pwrStatus : Nat := 0xF00000E0008

/-- PWR_LIMIT, RW, 15_power_module.md. -/
def Reg.pwrLimit : Nat := 0xF00000E0010

/-- PWR_THERM, RW, 15_power_module.md. -/
def Reg.pwrTherm : Nat := 0xF00000E0018

/-- PWR_RESET, WO, 15_power_module.md. -/
def Reg.pwrReset : Nat := 0xF00000E0020

/-- PWR_RESET_STATUS, RO/W1C, 15_power_module.md. -/
def Reg.pwrResetStatus : Nat := 0xF00000E0028

/-- PWR_STRAP, RO, 15_power_module.md. -/
def Reg.pwrStrap : Nat := 0xF00000E0030

/-- PWR_CNT, RO, 15_power_module.md. -/
def Reg.pwrCnt : Nat := 0xF00000E0038

/-- PWR_CORE_POL, RW, 15_power_module.md. -/
def Reg.pwrCorePol : Nat := 0xF00000E0040

/-- PWR_PENDING, RO, 15_power_module.md. -/
def Reg.pwrPending : Nat := 0xF00000E0048

/-- PWR_CLUSTER, RW, 15_power_module.md. -/
def Reg.pwrCluster (i : Nat) : Nat := 0xF00000E0100 + 0x8 * i

/-- CLK_CAP, RO, 15_power_module.md. -/
def Reg.clkCap : Nat := 0xF00000F0000

/-- CLK_CTRL, RW, 15_power_module.md. -/
def Reg.clkCtrl : Nat := 0xF00000F0008

/-- CLK_DOM, RO, 15_power_module.md. -/
def Reg.clkDom (i : Nat) : Nat := 0xF00000F0100 + 0x8 * i

/-- FLT_CAP, RO, 16_faults.md. -/
def Reg.fltCap : Nat := 0xF0000100000

/-- FLT_RING, RW, 16_faults.md. -/
def Reg.fltRing : Nat := 0xF0000100008

/-- FLT_STATUS, RO, 16_faults.md. -/
def Reg.fltStatus : Nat := 0xF0000100010

/-- FLT_POLICY, RW, 16_faults.md. -/
def Reg.fltPolicy : Nat := 0xF0000100018

/-- FLT_CNT, RO, 16_faults.md. -/
def Reg.fltCnt : Nat := 0xF0000100020

/-- FLT_GOLD, RW, 16_faults.md. -/
def Reg.fltGold : Nat := 0xF0000100028

/-- FLT_SPARE, RO, 16_faults.md. -/
def Reg.fltSpare : Nat := 0xF0000100030

/-- FLT_OUT, RO, 16_faults.md. -/
def Reg.fltOut : Nat := 0xF0000100038

/-- FLT_CTX_STOP, RO, 16_faults.md. -/
def Reg.fltCtxStop : Nat := 0xF0000100040

/-- FLT_SRAM_CE, RO, 16_faults.md. -/
def Reg.fltSramCe (i : Nat) : Nat := 0xF0000100048 + 0x8 * i

/-- IMP_CAP, RO, 02_imposition.md. -/
def Reg.impCap : Nat := 0xF0000110000

/-- IMP_SRC, RW, 02_imposition.md. -/
def Reg.impSrc : Nat := 0xF0000110008

/-- IMP_LEN, RW, 02_imposition.md. -/
def Reg.impLen : Nat := 0xF0000110010

/-- IMP_CTRL, WO, 02_imposition.md. -/
def Reg.impCtrl : Nat := 0xF0000110018

/-- IMP_STATUS, RO/W1C, 02_imposition.md. -/
def Reg.impStatus : Nat := 0xF0000110020

/-- IMP_CTX_STATE, RO, 02_imposition.md. -/
def Reg.impCtxState : Nat := 0xF0000110028

/-- IMP_DIGEST_SEL, RW, 02_imposition.md. -/
def Reg.impDigestSel : Nat := 0xF0000110030

/-- IMP_DIGEST, RO, 02_imposition.md. -/
def Reg.impDigest (i : Nat) : Nat := 0xF0000110038 + 0x8 * i

/-- IMP_POLICY, BOOT, 02_imposition.md. -/
def Reg.impPolicy : Nat := 0xF0000110068

/-- IMP_COUNT, RO, 02_imposition.md. -/
def Reg.impCount : Nat := 0xF0000110070

/-- CORE_CAP, RO, 03_core.md. -/
def Reg.coreCap (n : Nat) : Nat := 0xF1000000000 + 0x1000 * n

/-- CORE_GALLEY_SIZE, RO, 03_core.md. -/
def Reg.coreGalleySize (n : Nat) : Nat := 0xF1000000008 + 0x1000 * n

/-- CORE_ID, RO, 03_core.md. -/
def Reg.coreId (n : Nat) : Nat := 0xF1000000010 + 0x1000 * n

/-- CORE_STATE, RO, 03_core.md. -/
def Reg.coreState (n : Nat) : Nat := 0xF1000000018 + 0x1000 * n

/-- CORE_CTRL, RW, 03_core.md. -/
def Reg.coreCtrl (n : Nat) : Nat := 0xF1000000020 + 0x1000 * n

/-- CORE_FAULT, RO/W1C, 03_core.md. -/
def Reg.coreFault (n : Nat) : Nat := 0xF1000000028 + 0x1000 * n

/-- CORE_CNT_TILES, RO, 03_core.md. -/
def Reg.coreCntTiles (n : Nat) : Nat := 0xF1000000030 + 0x1000 * n

/-- CORE_CNT_STEAL, RO, 03_core.md. -/
def Reg.coreCntSteal (n : Nat) : Nat := 0xF1000000038 + 0x1000 * n

/-- CORE_CNT_STALL, RO, 03_core.md. -/
def Reg.coreCntStall (n : Nat) : Nat := 0xF1000000040 + 0x1000 * n

/-- CORE_CNT_RETRY, RO, 03_core.md. -/
def Reg.coreCntRetry (n : Nat) : Nat := 0xF1000000048 + 0x1000 * n

/-- CORE_CNT_PLANE, RO, 03_core.md. -/
def Reg.coreCntPlane (n : Nat) : Nat := 0xF1000000050 + 0x1000 * n

/-- CORE_SPARSE_LOG, RO/W1C, 06_sparsity.md. -/
def Reg.coreSparseLog (n : Nat) : Nat := 0xF1000000058 + 0x1000 * n

/-- CORE_CNT_SPARSE, RO, 06_sparsity.md. -/
def Reg.coreCntSparse (n : Nat) : Nat := 0xF1000000060 + 0x1000 * n

/-- CORE_CNT_PREFLIGHT, RO, 06_sparsity.md. -/
def Reg.coreCntPreflight (n : Nat) : Nat := 0xF1000000068 + 0x1000 * n

/-- CORE_CNT_ACTWAIT, RO, 06_sparsity.md. -/
def Reg.coreCntActwait (n : Nat) : Nat := 0xF1000000070 + 0x1000 * n

/-- CORE_ACC_SEL, DBG/RW, 05_accumulation.md. -/
def Reg.coreAccSel (n : Nat) : Nat := 0xF1000000800 + 0x1000 * n

/-- CORE_ACC_VIEW, DBG/RO, 05_accumulation.md. -/
def Reg.coreAccView (n : Nat) : Nat := 0xF1000000808 + 0x1000 * n

/-- CORE_ACC_VIEW_FP, DBG/RO, 05_accumulation.md. -/
def Reg.coreAccViewFp (n : Nat) : Nat := 0xF1000000810 + 0x1000 * n

/-- CORE_SR_MAP, RO, 05_accumulation.md. -/
def Reg.coreSrMap (n : Nat) : Nat := 0xF1000000840 + 0x1000 * n

/-- CORE_SR_SEED, DBG/RO, 05_accumulation.md. -/
def Reg.coreSrSeed (n i : Nat) : Nat := 0xF1000000848 + 0x1000 * n + 8 * i

/-- CORE_SR_CTR, DBG/RO, 05_accumulation.md. -/
def Reg.coreSrCtr (n i : Nat) : Nat := 0xF1000000868 + 0x1000 * n + 8 * i

/-- CORE_CNT_NUM, RO, 05_accumulation.md. -/
def Reg.coreCntNum (n : Nat) : Nat := 0xF1000000888 + 0x1000 * n

/-! ## Fields -/

/-- HUB_ID.vendor. -/
def Fld.hubIdVendor : Fld := ⟨Reg.hubId, 48, 16⟩

/-- HUB_ID.part. -/
def Fld.hubIdPart : Fld := ⟨Reg.hubId, 32, 16⟩

/-- HUB_ID.stepping. -/
def Fld.hubIdStepping : Fld := ⟨Reg.hubId, 24, 8⟩

/-- HUB_ID.benok_major. -/
def Fld.hubIdBenokMajor : Fld := ⟨Reg.hubId, 16, 8⟩

/-- HUB_ID.benok_minor. -/
def Fld.hubIdBenokMinor : Fld := ⟨Reg.hubId, 8, 8⟩

/-- HUB_BLOCKS.present. -/
def Fld.hubBlocksPresent : Fld := ⟨Reg.hubBlocks, 0, 64⟩

/-- HUB_D2D_STATUS.up. -/
def Fld.hubD2dStatusUp : Fld := ⟨Reg.hubD2dStatus, 0, 4⟩

/-- HUB_D2D_CNT.crc_retries. -/
def Fld.hubD2dCntCrcRetries (i : Nat) : Fld := ⟨(Reg.hubD2dCnt i), 32, 32⟩

/-- HUB_D2D_CNT.link_faults. -/
def Fld.hubD2dCntLinkFaults (i : Nat) : Fld := ⟨(Reg.hubD2dCnt i), 0, 16⟩

/-- GAL_CAP.engines. -/
def Fld.galCapEngines : Fld := ⟨Reg.galCap, 32, 8⟩

/-- GAL_CAP.slots. -/
def Fld.galCapSlots : Fld := ⟨Reg.galCap, 24, 8⟩

/-- GAL_CAP.line_bytes. -/
def Fld.galCapLineBytes : Fld := ⟨Reg.galCap, 16, 8⟩

/-- GAL_CAP.bank_kib. -/
def Fld.galCapBankKib : Fld := ⟨Reg.galCap, 8, 8⟩

/-- GAL_CAP.banks. -/
def Fld.galCapBanks : Fld := ⟨Reg.galCap, 0, 8⟩

/-- GAL_DBG_SEL.core. -/
def Fld.galDbgSelCore : Fld := ⟨Reg.galDbgSel, 33, 11⟩

/-- GAL_DBG_SEL.line. -/
def Fld.galDbgSelLine : Fld := ⟨Reg.galDbgSel, 20, 12⟩

/-- GAL_DBG_SEL.status. -/
def Fld.galDbgSelStatus : Fld := ⟨Reg.galDbgSel, 2, 2⟩

/-- GAL_DBG_SEL.op. -/
def Fld.galDbgSelOp : Fld := ⟨Reg.galDbgSel, 0, 2⟩

/-- GAL_DBG_DATA.data. -/
def Fld.galDbgDataData (i : Nat) : Fld := ⟨(Reg.galDbgData i), 0, 64⟩

/-- GAL_WHEEL.slot_owner. -/
def Fld.galWheelSlotOwner (i : Nat) : Fld := ⟨(Reg.galWheel i), 0, 64⟩

/-- GAL_CNT.narrow. -/
def Fld.galCntNarrow (i : Nat) : Fld := ⟨(Reg.galCnt i), 32, 32⟩

/-- GAL_CNT.refused. -/
def Fld.galCntRefused (i : Nat) : Fld := ⟨(Reg.galCnt i), 0, 32⟩

/-- POOL_CAP.bank_kib. -/
def Fld.poolCapBankKib : Fld := ⟨Reg.poolCap, 32, 16⟩

/-- POOL_CAP.per_die. -/
def Fld.poolCapPerDie : Fld := ⟨Reg.poolCap, 16, 16⟩

/-- POOL_CAP.banks. -/
def Fld.poolCapBanks : Fld := ⟨Reg.poolCap, 0, 16⟩

/-- POOL_CTRL.clear_on_wake. -/
def Fld.poolCtrlClearOnWake : Fld := ⟨Reg.poolCtrl, 0, 1⟩

/-- POOL_MARCH_CTRL.die_mask. -/
def Fld.poolMarchCtrlDieMask : Fld := ⟨Reg.poolMarchCtrl, 4, 4⟩

/-- POOL_MARCH_CTRL.preserve. -/
def Fld.poolMarchCtrlPreserve : Fld := ⟨Reg.poolMarchCtrl, 1, 1⟩

/-- POOL_MARCH_CTRL.start. -/
def Fld.poolMarchCtrlStart : Fld := ⟨Reg.poolMarchCtrl, 0, 1⟩

/-- POOL_MARCH_STATUS.progress. -/
def Fld.poolMarchStatusProgress : Fld := ⟨Reg.poolMarchStatus, 32, 8⟩

/-- POOL_MARCH_STATUS.refused. -/
def Fld.poolMarchStatusRefused : Fld := ⟨Reg.poolMarchStatus, 3, 1⟩

/-- POOL_MARCH_STATUS.failed. -/
def Fld.poolMarchStatusFailed : Fld := ⟨Reg.poolMarchStatus, 2, 1⟩

/-- POOL_MARCH_STATUS.done. -/
def Fld.poolMarchStatusDone : Fld := ⟨Reg.poolMarchStatus, 1, 1⟩

/-- POOL_MARCH_STATUS.busy. -/
def Fld.poolMarchStatusBusy : Fld := ⟨Reg.poolMarchStatus, 0, 1⟩

/-- POOL_MARCH_FAIL.banks. -/
def Fld.poolMarchFailBanks (i : Nat) : Fld := ⟨(Reg.poolMarchFail i), 0, 64⟩

/-- POOL_OWNER.reject. -/
def Fld.poolOwnerReject (i : Nat) : Fld := ⟨(Reg.poolOwner i), 33, 1⟩

/-- POOL_OWNER.busy. -/
def Fld.poolOwnerBusy (i : Nat) : Fld := ⟨(Reg.poolOwner i), 32, 1⟩

/-- POOL_OWNER.valid. -/
def Fld.poolOwnerValid (i : Nat) : Fld := ⟨(Reg.poolOwner i), 20, 1⟩

/-- POOL_OWNER.context. -/
def Fld.poolOwnerContext (i : Nat) : Fld := ⟨(Reg.poolOwner i), 16, 4⟩

/-- POOL_OWNER.owner. -/
def Fld.poolOwnerOwner (i : Nat) : Fld := ⟨(Reg.poolOwner i), 0, 16⟩

/-- POOL_STATE.failed. -/
def Fld.poolStateFailed (i : Nat) : Fld := ⟨(Reg.poolState i), 8, 1⟩

/-- POOL_STATE.status. -/
def Fld.poolStateStatus (i : Nat) : Fld := ⟨(Reg.poolState i), 6, 2⟩

/-- POOL_STATE.current. -/
def Fld.poolStateCurrent (i : Nat) : Fld := ⟨(Reg.poolState i), 2, 2⟩

/-- POOL_STATE.target. -/
def Fld.poolStateTarget (i : Nat) : Fld := ⟨(Reg.poolState i), 0, 2⟩

/-- POOL_CNT.busy. -/
def Fld.poolCntBusy (i : Nat) : Fld := ⟨(Reg.poolCnt i), 32, 32⟩

/-- POOL_CNT.refused. -/
def Fld.poolCntRefused (i : Nat) : Fld := ⟨(Reg.poolCnt i), 0, 32⟩

/-- MEMF_CAP.gib_per_stack. -/
def Fld.memfCapGibPerStack : Fld := ⟨Reg.memfCap, 32, 16⟩

/-- MEMF_CAP.channels. -/
def Fld.memfCapChannels : Fld := ⟨Reg.memfCap, 24, 8⟩

/-- MEMF_CAP.groups. -/
def Fld.memfCapGroups : Fld := ⟨Reg.memfCap, 16, 8⟩

/-- MEMF_CAP.stacks. -/
def Fld.memfCapStacks : Fld := ⟨Reg.memfCap, 8, 8⟩

/-- MEMF_CAP.rate. -/
def Fld.memfCapRate : Fld := ⟨Reg.memfCap, 0, 8⟩

/-- MEMF_STATUS.repaired. -/
def Fld.memfStatusRepaired : Fld := ⟨Reg.memfStatus, 16, 6⟩

/-- MEMF_STATUS.failed. -/
def Fld.memfStatusFailed : Fld := ⟨Reg.memfStatus, 8, 6⟩

/-- MEMF_STATUS.ready. -/
def Fld.memfStatusReady : Fld := ⟨Reg.memfStatus, 0, 6⟩

/-- MEMF_SCRUB.ce_log_thr. -/
def Fld.memfScrubCeLogThr : Fld := ⟨Reg.memfScrub, 24, 8⟩

/-- MEMF_SCRUB.enable. -/
def Fld.memfScrubEnable : Fld := ⟨Reg.memfScrub, 16, 1⟩

/-- MEMF_SCRUB.hours. -/
def Fld.memfScrubHours : Fld := ⟨Reg.memfScrub, 0, 8⟩

/-- MEMF_ERR_CNT.ce. -/
def Fld.memfErrCntCe : Fld := ⟨Reg.memfErrCnt, 32, 32⟩

/-- MEMF_ERR_CNT.ue. -/
def Fld.memfErrCntUe : Fld := ⟨Reg.memfErrCnt, 16, 16⟩

/-- MEMF_ERR_CNT.log_lost. -/
def Fld.memfErrCntLogLost : Fld := ⟨Reg.memfErrCnt, 0, 16⟩

/-- MEMF_ERR_LOG0.line. -/
def Fld.memfErrLog0Line : Fld := ⟨Reg.memfErrLog0, 6, 42⟩

/-- MEMF_ERR_LOG0.valid. -/
def Fld.memfErrLog0Valid : Fld := ⟨Reg.memfErrLog0, 0, 1⟩

/-- MEMF_ERR_LOG1.context. -/
def Fld.memfErrLog1Context : Fld := ⟨Reg.memfErrLog1, 52, 4⟩

/-- MEMF_ERR_LOG1.agent. -/
def Fld.memfErrLog1Agent : Fld := ⟨Reg.memfErrLog1, 40, 8⟩

/-- MEMF_ERR_LOG1.kind. -/
def Fld.memfErrLog1Kind : Fld := ⟨Reg.memfErrLog1, 36, 4⟩

/-- MEMF_ERR_LOG1.unit. -/
def Fld.memfErrLog1Unit : Fld := ⟨Reg.memfErrLog1, 24, 8⟩

/-- MEMF_ERR_LOG1.channel. -/
def Fld.memfErrLog1Channel : Fld := ⟨Reg.memfErrLog1, 16, 8⟩

/-- MEMF_ERR_LOG1.ce_count. -/
def Fld.memfErrLog1CeCount : Fld := ⟨Reg.memfErrLog1, 0, 16⟩

/-- MEMF_LANE.failed. -/
def Fld.memfLaneFailed (i : Nat) : Fld := ⟨(Reg.memfLane i), 8, 8⟩

/-- MEMF_LANE.repaired. -/
def Fld.memfLaneRepaired (i : Nat) : Fld := ⟨(Reg.memfLane i), 0, 8⟩

/-- MEMS_CAP.gib_per_package. -/
def Fld.memsCapGibPerPackage : Fld := ⟨Reg.memsCap, 32, 16⟩

/-- MEMS_CAP.channels. -/
def Fld.memsCapChannels : Fld := ⟨Reg.memsCap, 24, 8⟩

/-- MEMS_CAP.width. -/
def Fld.memsCapWidth : Fld := ⟨Reg.memsCap, 16, 8⟩

/-- MEMS_CAP.packages. -/
def Fld.memsCapPackages : Fld := ⟨Reg.memsCap, 8, 8⟩

/-- MEMS_CAP.rate. -/
def Fld.memsCapRate : Fld := ⟨Reg.memsCap, 0, 8⟩

/-- MEMS_STATUS.ready. -/
def Fld.memsStatusReady : Fld := ⟨Reg.memsStatus, 32, 16⟩

/-- MEMS_STATUS.failed. -/
def Fld.memsStatusFailed : Fld := ⟨Reg.memsStatus, 16, 16⟩

/-- MEMS_STATUS.present. -/
def Fld.memsStatusPresent : Fld := ⟨Reg.memsStatus, 0, 1⟩

/-- MEMS_SCRUB.ce_log_thr. -/
def Fld.memsScrubCeLogThr : Fld := ⟨Reg.memsScrub, 24, 8⟩

/-- MEMS_SCRUB.enable. -/
def Fld.memsScrubEnable : Fld := ⟨Reg.memsScrub, 16, 1⟩

/-- MEMS_SCRUB.hours. -/
def Fld.memsScrubHours : Fld := ⟨Reg.memsScrub, 0, 8⟩

/-- MEMS_ERR_CNT.ce. -/
def Fld.memsErrCntCe : Fld := ⟨Reg.memsErrCnt, 32, 32⟩

/-- MEMS_ERR_CNT.ue. -/
def Fld.memsErrCntUe : Fld := ⟨Reg.memsErrCnt, 16, 16⟩

/-- MEMS_ERR_CNT.log_lost. -/
def Fld.memsErrCntLogLost : Fld := ⟨Reg.memsErrCnt, 0, 16⟩

/-- MEMS_ERR_LOG0.line. -/
def Fld.memsErrLog0Line : Fld := ⟨Reg.memsErrLog0, 6, 42⟩

/-- MEMS_ERR_LOG0.valid. -/
def Fld.memsErrLog0Valid : Fld := ⟨Reg.memsErrLog0, 0, 1⟩

/-- MEMS_ERR_LOG1.context. -/
def Fld.memsErrLog1Context : Fld := ⟨Reg.memsErrLog1, 52, 4⟩

/-- MEMS_ERR_LOG1.agent. -/
def Fld.memsErrLog1Agent : Fld := ⟨Reg.memsErrLog1, 40, 8⟩

/-- MEMS_ERR_LOG1.kind. -/
def Fld.memsErrLog1Kind : Fld := ⟨Reg.memsErrLog1, 36, 4⟩

/-- MEMS_ERR_LOG1.unit. -/
def Fld.memsErrLog1Unit : Fld := ⟨Reg.memsErrLog1, 24, 8⟩

/-- MEMS_ERR_LOG1.channel. -/
def Fld.memsErrLog1Channel : Fld := ⟨Reg.memsErrLog1, 16, 8⟩

/-- MEMS_ERR_LOG1.ce_count. -/
def Fld.memsErrLog1CeCount : Fld := ⟨Reg.memsErrLog1, 0, 16⟩

/-- MEMS_HDM.size_gib. -/
def Fld.memsHdmSizeGib : Fld := ⟨Reg.memsHdm, 0, 9⟩

/-- MEMS_MIG_RING.size_code. -/
def Fld.memsMigRingSizeCode : Fld := ⟨Reg.memsMigRing, 60, 4⟩

/-- MEMS_MIG_RING.base. -/
def Fld.memsMigRingBase : Fld := ⟨Reg.memsMigRing, 6, 34⟩

/-- MEMS_MIG_RING.enable. -/
def Fld.memsMigRingEnable : Fld := ⟨Reg.memsMigRing, 0, 1⟩

/-- MEMS_MIG_CPL.size_code. -/
def Fld.memsMigCplSizeCode : Fld := ⟨Reg.memsMigCpl, 60, 4⟩

/-- MEMS_MIG_CPL.base. -/
def Fld.memsMigCplBase : Fld := ⟨Reg.memsMigCpl, 6, 34⟩

/-- MEMS_MIG_CPL.enable. -/
def Fld.memsMigCplEnable : Fld := ⟨Reg.memsMigCpl, 0, 1⟩

/-- MEMS_MIG_CTRL.bw_share. -/
def Fld.memsMigCtrlBwShare : Fld := ⟨Reg.memsMigCtrl, 0, 8⟩

/-- MEMS_MIG_STATUS.pool_fast. -/
def Fld.memsMigStatusPoolFast : Fld := ⟨Reg.memsMigStatus, 48, 16⟩

/-- MEMS_MIG_STATUS.pool_slow. -/
def Fld.memsMigStatusPoolSlow : Fld := ⟨Reg.memsMigStatus, 32, 16⟩

/-- MEMS_MIG_STATUS.inflight. -/
def Fld.memsMigStatusInflight : Fld := ⟨Reg.memsMigStatus, 24, 8⟩

/-- MEMS_MIG_CNT.ok. -/
def Fld.memsMigCntOk : Fld := ⟨Reg.memsMigCnt, 32, 32⟩

/-- MEMS_MIG_CNT.not_ok. -/
def Fld.memsMigCntNotOk : Fld := ⟨Reg.memsMigCnt, 0, 32⟩

/-- XLT_CAP.retire_entries. -/
def Fld.xltCapRetireEntries : Fld := ⟨Reg.xltCap, 32, 16⟩

/-- XLT_CAP.cluster_tlb. -/
def Fld.xltCapClusterTlb : Fld := ⟨Reg.xltCap, 20, 12⟩

/-- XLT_CAP.utlb. -/
def Fld.xltCapUtlb : Fld := ⟨Reg.xltCap, 12, 8⟩

/-- XLT_CAP.page_sizes. -/
def Fld.xltCapPageSizes : Fld := ⟨Reg.xltCap, 9, 3⟩

/-- XLT_CAP.levels. -/
def Fld.xltCapLevels : Fld := ⟨Reg.xltCap, 6, 3⟩

/-- XLT_CAP.va_bits. -/
def Fld.xltCapVaBits : Fld := ⟨Reg.xltCap, 0, 6⟩

/-- XLT_INV_VA.va. -/
def Fld.xltInvVaVa : Fld := ⟨Reg.xltInvVa, 0, 57⟩

/-- XLT_INV_CTRL.context. -/
def Fld.xltInvCtrlContext : Fld := ⟨Reg.xltInvCtrl, 8, 4⟩

/-- XLT_INV_CTRL.size_log2. -/
def Fld.xltInvCtrlSizeLog2 : Fld := ⟨Reg.xltInvCtrl, 0, 6⟩

/-- XLT_INV_STATUS.refused. -/
def Fld.xltInvStatusRefused : Fld := ⟨Reg.xltInvStatus, 2, 1⟩

/-- XLT_INV_STATUS.done. -/
def Fld.xltInvStatusDone : Fld := ⟨Reg.xltInvStatus, 1, 1⟩

/-- XLT_INV_STATUS.busy. -/
def Fld.xltInvStatusBusy : Fld := ⟨Reg.xltInvStatus, 0, 1⟩

/-- XLT_RETIRE.page. -/
def Fld.xltRetirePage : Fld := ⟨Reg.xltRetire, 16, 36⟩

/-- XLT_RETIRE_STATUS.count. -/
def Fld.xltRetireStatusCount : Fld := ⟨Reg.xltRetireStatus, 32, 16⟩

/-- XLT_RETIRE_STATUS.held. -/
def Fld.xltRetireStatusHeld : Fld := ⟨Reg.xltRetireStatus, 4, 1⟩

/-- XLT_RETIRE_STATUS.refused. -/
def Fld.xltRetireStatusRefused : Fld := ⟨Reg.xltRetireStatus, 3, 1⟩

/-- XLT_RETIRE_STATUS.dup. -/
def Fld.xltRetireStatusDup : Fld := ⟨Reg.xltRetireStatus, 2, 1⟩

/-- XLT_RETIRE_STATUS.done. -/
def Fld.xltRetireStatusDone : Fld := ⟨Reg.xltRetireStatus, 1, 1⟩

/-- XLT_RETIRE_STATUS.busy. -/
def Fld.xltRetireStatusBusy : Fld := ⟨Reg.xltRetireStatus, 0, 1⟩

/-- XLT_FAULT_LOG0.valid. -/
def Fld.xltFaultLog0Valid : Fld := ⟨Reg.xltFaultLog0, 63, 1⟩

/-- XLT_FAULT_LOG0.va. -/
def Fld.xltFaultLog0Va : Fld := ⟨Reg.xltFaultLog0, 0, 57⟩

/-- XLT_FAULT_LOG1.context. -/
def Fld.xltFaultLog1Context : Fld := ⟨Reg.xltFaultLog1, 60, 4⟩

/-- XLT_FAULT_LOG1.agent. -/
def Fld.xltFaultLog1Agent : Fld := ⟨Reg.xltFaultLog1, 56, 4⟩

/-- XLT_FAULT_LOG1.core. -/
def Fld.xltFaultLog1Core : Fld := ⟨Reg.xltFaultLog1, 45, 11⟩

/-- XLT_FAULT_LOG1.level. -/
def Fld.xltFaultLog1Level : Fld := ⟨Reg.xltFaultLog1, 36, 4⟩

/-- XLT_FAULT_LOG1.reason. -/
def Fld.xltFaultLog1Reason : Fld := ⟨Reg.xltFaultLog1, 32, 4⟩

/-- XLT_FAULT_LOG1.tile_tag. -/
def Fld.xltFaultLog1TileTag : Fld := ⟨Reg.xltFaultLog1, 0, 16⟩

/-- XLT_CNT.walks. -/
def Fld.xltCntWalks : Fld := ⟨Reg.xltCnt, 32, 32⟩

/-- XLT_CNT.faults. -/
def Fld.xltCntFaults : Fld := ⟨Reg.xltCnt, 0, 32⟩

/-- CMP_CAP.queue_kib. -/
def Fld.cmpCapQueueKib : Fld := ⟨Reg.cmpCap, 40, 8⟩

/-- CMP_CAP.house_tables. -/
def Fld.cmpCapHouseTables : Fld := ⟨Reg.cmpCap, 32, 8⟩

/-- CMP_CAP.max_segment_log2. -/
def Fld.cmpCapMaxSegmentLog2 : Fld := ⟨Reg.cmpCap, 24, 8⟩

/-- CMP_CAP.link_expanders. -/
def Fld.cmpCapLinkExpanders : Fld := ⟨Reg.cmpCap, 16, 8⟩

/-- CMP_CAP.expanders. -/
def Fld.cmpCapExpanders : Fld := ⟨Reg.cmpCap, 8, 8⟩

/-- CMP_CAP.packers. -/
def Fld.cmpCapPackers : Fld := ⟨Reg.cmpCap, 0, 8⟩

/-- CMP_CTRL.house_only. -/
def Fld.cmpCtrlHouseOnly : Fld := ⟨Reg.cmpCtrl, 0, 1⟩

/-- CMP_STATUS.packers_busy. -/
def Fld.cmpStatusPackersBusy : Fld := ⟨Reg.cmpStatus, 16, 8⟩

/-- CMP_STATUS.house_test. -/
def Fld.cmpStatusHouseTest : Fld := ⟨Reg.cmpStatus, 3, 1⟩

/-- CMP_STATUS.house_recovery. -/
def Fld.cmpStatusHouseRecovery : Fld := ⟨Reg.cmpStatus, 2, 1⟩

/-- CMP_STATUS.house_startup. -/
def Fld.cmpStatusHouseStartup : Fld := ⟨Reg.cmpStatus, 1, 1⟩

/-- CMP_JOB_RING.size_code. -/
def Fld.cmpJobRingSizeCode : Fld := ⟨Reg.cmpJobRing, 60, 4⟩

/-- CMP_JOB_RING.base. -/
def Fld.cmpJobRingBase : Fld := ⟨Reg.cmpJobRing, 6, 34⟩

/-- CMP_JOB_RING.enable. -/
def Fld.cmpJobRingEnable : Fld := ⟨Reg.cmpJobRing, 0, 1⟩

/-- CMP_JOB_CPL.size_code. -/
def Fld.cmpJobCplSizeCode : Fld := ⟨Reg.cmpJobCpl, 60, 4⟩

/-- CMP_JOB_CPL.base. -/
def Fld.cmpJobCplBase : Fld := ⟨Reg.cmpJobCpl, 6, 34⟩

/-- CMP_JOB_CPL.enable. -/
def Fld.cmpJobCplEnable : Fld := ⟨Reg.cmpJobCpl, 0, 1⟩

/-- CMP_INV.go. -/
def Fld.cmpInvGo : Fld := ⟨Reg.cmpInv, 4, 1⟩

/-- CMP_INV.context. -/
def Fld.cmpInvContext : Fld := ⟨Reg.cmpInv, 0, 4⟩

/-- CMP_INV_STATUS.refused. -/
def Fld.cmpInvStatusRefused : Fld := ⟨Reg.cmpInvStatus, 2, 1⟩

/-- CMP_INV_STATUS.done. -/
def Fld.cmpInvStatusDone : Fld := ⟨Reg.cmpInvStatus, 1, 1⟩

/-- CMP_INV_STATUS.busy. -/
def Fld.cmpInvStatusBusy : Fld := ⟨Reg.cmpInvStatus, 0, 1⟩

/-- CMP_ERR_LOG0.valid. -/
def Fld.cmpErrLog0Valid : Fld := ⟨Reg.cmpErrLog0, 63, 1⟩

/-- CMP_ERR_LOG0.va. -/
def Fld.cmpErrLog0Va : Fld := ⟨Reg.cmpErrLog0, 0, 57⟩

/-- CMP_ERR_LOG1.context. -/
def Fld.cmpErrLog1Context : Fld := ⟨Reg.cmpErrLog1, 60, 4⟩

/-- CMP_ERR_LOG1.source. -/
def Fld.cmpErrLog1Source : Fld := ⟨Reg.cmpErrLog1, 56, 4⟩

/-- CMP_ERR_LOG1.unit. -/
def Fld.cmpErrLog1Unit : Fld := ⟨Reg.cmpErrLog1, 48, 8⟩

/-- CMP_ERR_LOG1.detail. -/
def Fld.cmpErrLog1Detail : Fld := ⟨Reg.cmpErrLog1, 40, 8⟩

/-- CMP_ERR_LOG1.tile_tag. -/
def Fld.cmpErrLog1TileTag : Fld := ⟨Reg.cmpErrLog1, 0, 16⟩

/-- CMP_CNT_BLOCKS.coded. -/
def Fld.cmpCntBlocksCoded : Fld := ⟨Reg.cmpCntBlocks, 32, 32⟩

/-- CMP_CNT_BLOCKS.raw. -/
def Fld.cmpCntBlocksRaw : Fld := ⟨Reg.cmpCntBlocks, 0, 32⟩

/-- CMP_RGN.count. -/
def Fld.cmpRgnCount (i : Nat) : Fld := ⟨(Reg.cmpRgn i), 48, 9⟩

/-- CMP_RGN.base. -/
def Fld.cmpRgnBase (i : Nat) : Fld := ⟨(Reg.cmpRgn i), 6, 34⟩

/-- CMP_CNT.wait. -/
def Fld.cmpCntWait (i : Nat) : Fld := ⟨(Reg.cmpCnt i), 32, 32⟩

/-- CMP_CNT.redecodes. -/
def Fld.cmpCntRedecodes (i : Nat) : Fld := ⟨(Reg.cmpCnt i), 0, 32⟩

/-- REQ_CAP.max_sequences. -/
def Fld.reqCapMaxSequences : Fld := ⟨Reg.reqCap, 32, 16⟩

/-- REQ_CAP.rings. -/
def Fld.reqCapRings : Fld := ⟨Reg.reqCap, 24, 8⟩

/-- REQ_CAP.slots. -/
def Fld.reqCapSlots : Fld := ⟨Reg.reqCap, 0, 19⟩

/-- REQ_CTRL.enable. -/
def Fld.reqCtrlEnable : Fld := ⟨Reg.reqCtrl, 0, 1⟩

/-- REQ_TABLE.base. -/
def Fld.reqTableBase : Fld := ⟨Reg.reqTable, 26, 14⟩

/-- REQ_STATUS.in_use. -/
def Fld.reqStatusInUse : Fld := ⟨Reg.reqStatus, 32, 32⟩

/-- REQ_STATUS.sm_degraded. -/
def Fld.reqStatusSmDegraded : Fld := ⟨Reg.reqStatus, 1, 1⟩

/-- REQ_STATUS.ready. -/
def Fld.reqStatusReady : Fld := ⟨Reg.reqStatus, 0, 1⟩

/-- REQ_CTX.budget. -/
def Fld.reqCtxBudget (i : Nat) : Fld := ⟨(Reg.reqCtx i), 40, 21⟩

/-- REQ_CTX.prog_entries. -/
def Fld.reqCtxProgEntries (i : Nat) : Fld := ⟨(Reg.reqCtx i), 28, 12⟩

/-- REQ_CTX.vocab. -/
def Fld.reqCtxVocab (i : Nat) : Fld := ⟨(Reg.reqCtx i), 0, 21⟩

/-- REQ_PROG.va. -/
def Fld.reqProgVa (i : Nat) : Fld := ⟨(Reg.reqProg i), 7, 50⟩

/-- REQ_BATCH.va. -/
def Fld.reqBatchVa (i : Nat) : Fld := ⟨(Reg.reqBatch i), 6, 51⟩

/-- REQ_PERIOD_NOW.count. -/
def Fld.reqPeriodNowCount (i : Nat) : Fld := ⟨(Reg.reqPeriodNow i), 32, 32⟩

/-- REQ_PERIOD_NOW.prog_error. -/
def Fld.reqPeriodNowProgError (i : Nat) : Fld := ⟨(Reg.reqPeriodNow i), 16, 1⟩

/-- REQ_PERIOD_NOW.tag. -/
def Fld.reqPeriodNowTag (i : Nat) : Fld := ⟨(Reg.reqPeriodNow i), 0, 16⟩

/-- REQ_CRING.size_code. -/
def Fld.reqCringSizeCode (i : Nat) : Fld := ⟨(Reg.reqCring i), 60, 4⟩

/-- REQ_CRING.context. -/
def Fld.reqCringContext (i : Nat) : Fld := ⟨(Reg.reqCring i), 56, 4⟩

/-- REQ_CRING.base. -/
def Fld.reqCringBase (i : Nat) : Fld := ⟨(Reg.reqCring i), 6, 46⟩

/-- REQ_CRING.enable. -/
def Fld.reqCringEnable (i : Nat) : Fld := ⟨(Reg.reqCring i), 0, 1⟩

/-- REQ_CCPL.size_code. -/
def Fld.reqCcplSizeCode (i : Nat) : Fld := ⟨(Reg.reqCcpl i), 60, 4⟩

/-- REQ_CCPL.base. -/
def Fld.reqCcplBase (i : Nat) : Fld := ⟨(Reg.reqCcpl i), 6, 46⟩

/-- REQ_CCPL.enable. -/
def Fld.reqCcplEnable (i : Nat) : Fld := ⟨(Reg.reqCcpl i), 0, 1⟩

/-- REQ_QSEL.slot. -/
def Fld.reqQselSlot : Fld := ⟨Reg.reqQsel, 0, 18⟩

/-- REQ_QDATA.state. -/
def Fld.reqQdataState : Fld := ⟨Reg.reqQdata, 60, 4⟩

/-- REQ_QDATA.context. -/
def Fld.reqQdataContext : Fld := ⟨Reg.reqQdata, 56, 4⟩

/-- REQ_QDATA.end_status. -/
def Fld.reqQdataEndStatus : Fld := ⟨Reg.reqQdata, 48, 8⟩

/-- REQ_QDATA.position. -/
def Fld.reqQdataPosition : Fld := ⟨Reg.reqQdata, 0, 32⟩

/-- REQ_CNT.committed. -/
def Fld.reqCntCommitted : Fld := ⟨Reg.reqCnt, 32, 32⟩

/-- REQ_CNT.dropped. -/
def Fld.reqCntDropped : Fld := ⟨Reg.reqCnt, 0, 32⟩

/-- REQ_CNT2.bad_tree. -/
def Fld.reqCnt2BadTree : Fld := ⟨Reg.reqCnt2, 48, 16⟩

/-- REQ_CNT2.end_unwritten. -/
def Fld.reqCnt2EndUnwritten : Fld := ⟨Reg.reqCnt2, 32, 16⟩

/-- REQ_CNT2.ended. -/
def Fld.reqCnt2Ended : Fld := ⟨Reg.reqCnt2, 0, 32⟩

/-- SMP_CAP.units. -/
def Fld.smpCapUnits : Fld := ⟨Reg.smpCap, 32, 8⟩

/-- SMP_CAP.candidates. -/
def Fld.smpCapCandidates : Fld := ⟨Reg.smpCap, 16, 16⟩

/-- SMP_CAP.tree_nodes. -/
def Fld.smpCapTreeNodes : Fld := ⟨Reg.smpCap, 8, 8⟩

/-- SMP_CAP.vocab_log2. -/
def Fld.smpCapVocabLog2 : Fld := ⟨Reg.smpCap, 0, 8⟩

/-- SMP_CTRL.enable. -/
def Fld.smpCtrlEnable : Fld := ⟨Reg.smpCtrl, 0, 2⟩

/-- SMP_STATUS.failed. -/
def Fld.smpStatusFailed : Fld := ⟨Reg.smpStatus, 8, 2⟩

/-- SMP_STATUS.busy. -/
def Fld.smpStatusBusy : Fld := ⟨Reg.smpStatus, 0, 2⟩

/-- SMP_CNT.full_path. -/
def Fld.smpCntFullPath (i : Nat) : Fld := ⟨(Reg.smpCnt i), 32, 32⟩

/-- SMP_CNT.jobs. -/
def Fld.smpCntJobs (i : Nat) : Fld := ⟨(Reg.smpCnt i), 0, 32⟩

/-- ATT_CAP.tree_nodes. -/
def Fld.attCapTreeNodes : Fld := ⟨Reg.attCap, 40, 8⟩

/-- ATT_CAP.split_log2_max. -/
def Fld.attCapSplitLog2Max : Fld := ⟨Reg.attCap, 32, 8⟩

/-- ATT_CAP.head_dims. -/
def Fld.attCapHeadDims : Fld := ⟨Reg.attCap, 24, 8⟩

/-- ATT_CAP.page_codes. -/
def Fld.attCapPageCodes : Fld := ⟨Reg.attCap, 16, 8⟩

/-- ATT_LEDGER.base. -/
def Fld.attLedgerBase : Fld := ⟨Reg.attLedger, 16, 24⟩

/-- ATT_LEDGER.enable. -/
def Fld.attLedgerEnable : Fld := ⟨Reg.attLedger, 0, 1⟩

/-- ATT_STATUS.free_empty. -/
def Fld.attStatusFreeEmpty : Fld := ⟨Reg.attStatus, 32, 16⟩

/-- ATT_STATUS.held. -/
def Fld.attStatusHeld : Fld := ⟨Reg.attStatus, 16, 16⟩

/-- ATT_STATUS.ready. -/
def Fld.attStatusReady : Fld := ⟨Reg.attStatus, 0, 1⟩

/-- ATT_OP_RING.size_code. -/
def Fld.attOpRingSizeCode : Fld := ⟨Reg.attOpRing, 60, 4⟩

/-- ATT_OP_RING.base. -/
def Fld.attOpRingBase : Fld := ⟨Reg.attOpRing, 6, 34⟩

/-- ATT_OP_RING.enable. -/
def Fld.attOpRingEnable : Fld := ⟨Reg.attOpRing, 0, 1⟩

/-- ATT_OP_CPL.size_code. -/
def Fld.attOpCplSizeCode : Fld := ⟨Reg.attOpCpl, 60, 4⟩

/-- ATT_OP_CPL.base. -/
def Fld.attOpCplBase : Fld := ⟨Reg.attOpCpl, 6, 34⟩

/-- ATT_OP_CPL.enable. -/
def Fld.attOpCplEnable : Fld := ⟨Reg.attOpCpl, 0, 1⟩

/-- ATT_ERR_LOG0.valid. -/
def Fld.attErrLog0Valid : Fld := ⟨Reg.attErrLog0, 63, 1⟩

/-- ATT_ERR_LOG0.va. -/
def Fld.attErrLog0Va : Fld := ⟨Reg.attErrLog0, 0, 57⟩

/-- ATT_ERR_LOG1.context. -/
def Fld.attErrLog1Context : Fld := ⟨Reg.attErrLog1, 60, 4⟩

/-- ATT_ERR_LOG1.slot. -/
def Fld.attErrLog1Slot : Fld := ⟨Reg.attErrLog1, 42, 18⟩

/-- ATT_ERR_LOG1.detail. -/
def Fld.attErrLog1Detail : Fld := ⟨Reg.attErrLog1, 32, 8⟩

/-- ATT_ERR_LOG1.tile_tag. -/
def Fld.attErrLog1TileTag : Fld := ⟨Reg.attErrLog1, 0, 16⟩

/-- ATT_CNT.allocs. -/
def Fld.attCntAllocs : Fld := ⟨Reg.attCnt, 32, 32⟩

/-- ATT_CNT.cow_copies. -/
def Fld.attCntCowCopies : Fld := ⟨Reg.attCnt, 0, 32⟩

/-- ATT_CNT2.released. -/
def Fld.attCnt2Released : Fld := ⟨Reg.attCnt2, 32, 32⟩

/-- ATT_CNT2.compactions. -/
def Fld.attCnt2Compactions : Fld := ⟨Reg.attCnt2, 0, 32⟩

/-- ATT_CNT3.ownership. -/
def Fld.attCnt3Ownership : Fld := ⟨Reg.attCnt3, 32, 32⟩

/-- ATT_CNT3.nopage_waits. -/
def Fld.attCnt3NopageWaits : Fld := ⟨Reg.attCnt3, 0, 32⟩

/-- ATT_GEOM.layers. -/
def Fld.attGeomLayers (i : Nat) : Fld := ⟨(Reg.attGeom i), 16, 11⟩

/-- ATT_GEOM.stride_log2. -/
def Fld.attGeomStrideLog2 (i : Nat) : Fld := ⟨(Reg.attGeom i), 8, 8⟩

/-- ATT_GEOM.row_log2. -/
def Fld.attGeomRowLog2 (i : Nat) : Fld := ⟨(Reg.attGeom i), 0, 5⟩

/-- ATT_FREE.size_code. -/
def Fld.attFreeSizeCode (i : Nat) : Fld := ⟨(Reg.attFree i), 60, 4⟩

/-- ATT_FREE.base. -/
def Fld.attFreeBase (i : Nat) : Fld := ⟨(Reg.attFree i), 6, 34⟩

/-- ATT_FREE.enable. -/
def Fld.attFreeEnable (i : Nat) : Fld := ⟨(Reg.attFree i), 0, 1⟩

/-- ATT_REL.size_code. -/
def Fld.attRelSizeCode (i : Nat) : Fld := ⟨(Reg.attRel i), 60, 4⟩

/-- ATT_REL.base. -/
def Fld.attRelBase (i : Nat) : Fld := ⟨(Reg.attRel i), 6, 34⟩

/-- ATT_REL.enable. -/
def Fld.attRelEnable (i : Nat) : Fld := ⟨(Reg.attRel i), 0, 1⟩

/-- CXL_CAP.vectors. -/
def Fld.cxlCapVectors : Fld := ⟨Reg.cxlCap, 40, 8⟩

/-- CXL_CAP.watch_log2. -/
def Fld.cxlCapWatchLog2 : Fld := ⟨Reg.cxlCap, 32, 8⟩

/-- CXL_CAP.hs_max_major. -/
def Fld.cxlCapHsMaxMajor : Fld := ⟨Reg.cxlCap, 24, 8⟩

/-- CXL_CAP.hs_min_major. -/
def Fld.cxlCapHsMinMajor : Fld := ⟨Reg.cxlCap, 16, 8⟩

/-- CXL_CAP.lanes. -/
def Fld.cxlCapLanes : Fld := ⟨Reg.cxlCap, 8, 8⟩

/-- CXL_CAP.max_rate. -/
def Fld.cxlCapMaxRate : Fld := ⟨Reg.cxlCap, 0, 8⟩

/-- CXL_LINK.rate. -/
def Fld.cxlLinkRate : Fld := ⟨Reg.cxlLink, 16, 8⟩

/-- CXL_LINK.width. -/
def Fld.cxlLinkWidth : Fld := ⟨Reg.cxlLink, 8, 8⟩

/-- CXL_LINK.state. -/
def Fld.cxlLinkState : Fld := ⟨Reg.cxlLink, 0, 2⟩

/-- CXL_STATUS.hs_major. -/
def Fld.cxlStatusHsMajor : Fld := ⟨Reg.cxlStatus, 24, 8⟩

/-- CXL_STATUS.hs_minor. -/
def Fld.cxlStatusHsMinor : Fld := ⟨Reg.cxlStatus, 16, 8⟩

/-- CXL_STATUS.bi_enabled. -/
def Fld.cxlStatusBiEnabled : Fld := ⟨Reg.cxlStatus, 6, 1⟩

/-- CXL_STATUS.ide_cm. -/
def Fld.cxlStatusIdeCm : Fld := ⟨Reg.cxlStatus, 5, 1⟩

/-- CXL_STATUS.ide_io. -/
def Fld.cxlStatusIdeIo : Fld := ⟨Reg.cxlStatus, 4, 1⟩

/-- CXL_STATUS.poll_mode. -/
def Fld.cxlStatusPollMode : Fld := ⟨Reg.cxlStatus, 3, 1⟩

/-- CXL_STATUS.mem_enabled. -/
def Fld.cxlStatusMemEnabled : Fld := ⟨Reg.cxlStatus, 2, 1⟩

/-- CXL_STATUS.cache_enabled. -/
def Fld.cxlStatusCacheEnabled : Fld := ⟨Reg.cxlStatus, 1, 1⟩

/-- CXL_STATUS.bound. -/
def Fld.cxlStatusBound : Fld := ⟨Reg.cxlStatus, 0, 1⟩

/-- CXL_WIN.base. -/
def Fld.cxlWinBase : Fld := ⟨Reg.cxlWin, 34, 7⟩

/-- CXL_RING_ERR.ring. -/
def Fld.cxlRingErrRing : Fld := ⟨Reg.cxlRingErr, 0, 64⟩

/-- CXL_IRQ_COAL.usec. -/
def Fld.cxlIrqCoalUsec : Fld := ⟨Reg.cxlIrqCoal, 0, 16⟩

/-- CXL_CNT.snoops. -/
def Fld.cxlCntSnoops : Fld := ⟨Reg.cxlCnt, 32, 32⟩

/-- CXL_CNT.polls. -/
def Fld.cxlCntPolls : Fld := ⟨Reg.cxlCnt, 0, 32⟩

/-- CXL_ERR_CNT.link_down. -/
def Fld.cxlErrCntLinkDown : Fld := ⟨Reg.cxlErrCnt, 48, 16⟩

/-- CXL_ERR_CNT.timeouts. -/
def Fld.cxlErrCntTimeouts : Fld := ⟨Reg.cxlErrCnt, 32, 16⟩

/-- CXL_ERR_CNT.late. -/
def Fld.cxlErrCntLate : Fld := ⟨Reg.cxlErrCnt, 16, 16⟩

/-- CXL_ERR_CNT.firewall. -/
def Fld.cxlErrCntFirewall : Fld := ⟨Reg.cxlErrCnt, 0, 16⟩

/-- CXL_WATCH.watched. -/
def Fld.cxlWatchWatched : Fld := ⟨Reg.cxlWatch, 32, 17⟩

/-- CXL_WATCH.polled. -/
def Fld.cxlWatchPolled : Fld := ⟨Reg.cxlWatch, 0, 18⟩

/-- CXL_PEV.enable. -/
def Fld.cxlPevEnable (i : Nat) : Fld := ⟨(Reg.cxlPev i), 16, 4⟩

/-- CXL_PEV.held. -/
def Fld.cxlPevHeld (i : Nat) : Fld := ⟨(Reg.cxlPev i), 3, 1⟩

/-- CXL_PEV.free_empty. -/
def Fld.cxlPevFreeEmpty (i : Nat) : Fld := ⟨(Reg.cxlPev i), 2, 1⟩

/-- CXL_PEV.prog_error. -/
def Fld.cxlPevProgError (i : Nat) : Fld := ⟨(Reg.cxlPev i), 1, 1⟩

/-- CXL_PEV.period_end. -/
def Fld.cxlPevPeriodEnd (i : Nat) : Fld := ⟨(Reg.cxlPev i), 0, 1⟩

/-- HL_CAP.max_hops. -/
def Fld.hlCapMaxHops : Fld := ⟨Reg.hlCap, 40, 8⟩

/-- HL_CAP.fabric_log2. -/
def Fld.hlCapFabricLog2 : Fld := ⟨Reg.hlCap, 32, 8⟩

/-- HL_CAP.lane_rate. -/
def Fld.hlCapLaneRate : Fld := ⟨Reg.hlCap, 24, 8⟩

/-- HL_CAP.lanes. -/
def Fld.hlCapLanes : Fld := ⟨Reg.hlCap, 16, 8⟩

/-- HL_CAP.vcs. -/
def Fld.hlCapVcs : Fld := ⟨Reg.hlCap, 8, 8⟩

/-- HL_CAP.links. -/
def Fld.hlCapLinks : Fld := ⟨Reg.hlCap, 0, 8⟩

/-- HL_FABRIC.stage. -/
def Fld.hlFabricStage : Fld := ⟨Reg.hlFabric, 52, 4⟩

/-- HL_FABRIC.dup. -/
def Fld.hlFabricDup : Fld := ⟨Reg.hlFabric, 49, 1⟩

/-- HL_FABRIC.coordinator. -/
def Fld.hlFabricCoordinator : Fld := ⟨Reg.hlFabric, 48, 1⟩

/-- HL_FABRIC.modules. -/
def Fld.hlFabricModules : Fld := ⟨Reg.hlFabric, 32, 16⟩

/-- HL_FABRIC.coord_id. -/
def Fld.hlFabricCoordId : Fld := ⟨Reg.hlFabric, 16, 9⟩

/-- HL_FABRIC.fabric_id. -/
def Fld.hlFabricFabricId : Fld := ⟨Reg.hlFabric, 0, 9⟩

/-- HL_CTRL.a7_allow. -/
def Fld.hlCtrlA7Allow : Fld := ⟨Reg.hlCtrl, 1, 1⟩

/-- HL_CTRL.form. -/
def Fld.hlCtrlForm : Fld := ⟨Reg.hlCtrl, 0, 1⟩

/-- HL_TIMEOUT.credit_ms. -/
def Fld.hlTimeoutCreditMs : Fld := ⟨Reg.hlTimeout, 16, 16⟩

/-- HL_TIMEOUT.req_us. -/
def Fld.hlTimeoutReqUs : Fld := ⟨Reg.hlTimeout, 0, 16⟩

/-- HL_FENCE.auth_thr. -/
def Fld.hlFenceAuthThr : Fld := ⟨Reg.hlFence, 16, 16⟩

/-- HL_FENCE.check_thr. -/
def Fld.hlFenceCheckThr : Fld := ⟨Reg.hlFence, 0, 16⟩

/-- HL_OUTTAB.base. -/
def Fld.hlOuttabBase : Fld := ⟨Reg.hlOuttab, 16, 24⟩

/-- HL_OUTTAB.enable. -/
def Fld.hlOuttabEnable : Fld := ⟨Reg.hlOuttab, 0, 1⟩

/-- HL_OUTINV.slot. -/
def Fld.hlOutinvSlot : Fld := ⟨Reg.hlOutinv, 32, 12⟩

/-- HL_OUTINV.done. -/
def Fld.hlOutinvDone : Fld := ⟨Reg.hlOutinv, 1, 1⟩

/-- HL_OUTINV.go. -/
def Fld.hlOutinvGo : Fld := ⟨Reg.hlOutinv, 0, 1⟩

/-- HL_ERR_LOG0.valid. -/
def Fld.hlErrLog0Valid : Fld := ⟨Reg.hlErrLog0, 63, 1⟩

/-- HL_ERR_LOG0.reason. -/
def Fld.hlErrLog0Reason : Fld := ⟨Reg.hlErrLog0, 48, 8⟩

/-- HL_ERR_LOG0.link. -/
def Fld.hlErrLog0Link : Fld := ⟨Reg.hlErrLog0, 44, 4⟩

/-- HL_ERR_LOG0.src. -/
def Fld.hlErrLog0Src : Fld := ⟨Reg.hlErrLog0, 32, 9⟩

/-- HL_ERR_LOG0.window_id. -/
def Fld.hlErrLog0WindowId : Fld := ⟨Reg.hlErrLog0, 16, 16⟩

/-- HL_ERR_LOG0.ctx. -/
def Fld.hlErrLog0Ctx : Fld := ⟨Reg.hlErrLog0, 12, 4⟩

/-- HL_ERR_LOG1.offset. -/
def Fld.hlErrLog1Offset : Fld := ⟨Reg.hlErrLog1, 16, 22⟩

/-- HL_ERR_LOG1.tile_tag. -/
def Fld.hlErrLog1TileTag : Fld := ⟨Reg.hlErrLog1, 0, 16⟩

/-- HL_RSEL.dst. -/
def Fld.hlRselDst : Fld := ⟨Reg.hlRsel, 0, 9⟩

/-- HL_RDATA.reachable. -/
def Fld.hlRdataReachable : Fld := ⟨Reg.hlRdata, 15, 1⟩

/-- HL_RDATA.hops. -/
def Fld.hlRdataHops : Fld := ⟨Reg.hlRdata, 8, 4⟩

/-- HL_RDATA.link. -/
def Fld.hlRdataLink : Fld := ⟨Reg.hlRdata, 0, 4⟩

/-- HL_LSTAT.peer_id. -/
def Fld.hlLstatPeerId (i : Nat) : Fld := ⟨(Reg.hlLstat i), 48, 9⟩

/-- HL_LSTAT.lane_spared. -/
def Fld.hlLstatLaneSpared (i : Nat) : Fld := ⟨(Reg.hlLstat i), 44, 4⟩

/-- HL_LSTAT.proto. -/
def Fld.hlLstatProto (i : Nat) : Fld := ⟨(Reg.hlLstat i), 40, 4⟩

/-- HL_LSTAT.mode. -/
def Fld.hlLstatMode (i : Nat) : Fld := ⟨(Reg.hlLstat i), 36, 4⟩

/-- HL_LSTAT.rate. -/
def Fld.hlLstatRate (i : Nat) : Fld := ⟨(Reg.hlLstat i), 32, 4⟩

/-- HL_LSTAT.fence_reason. -/
def Fld.hlLstatFenceReason (i : Nat) : Fld := ⟨(Reg.hlLstat i), 8, 8⟩

/-- HL_LSTAT.state. -/
def Fld.hlLstatState (i : Nat) : Fld := ⟨(Reg.hlLstat i), 0, 4⟩

/-- HL_LCTRL.retrain. -/
def Fld.hlLctrlRetrain (i : Nat) : Fld := ⟨(Reg.hlLctrl i), 1, 1⟩

/-- HL_LCTRL.disable. -/
def Fld.hlLctrlDisable (i : Nat) : Fld := ⟨(Reg.hlLctrl i), 0, 1⟩

/-- HL_LERR.auth_fail. -/
def Fld.hlLerrAuthFail (i : Nat) : Fld := ⟨(Reg.hlLerr i), 48, 16⟩

/-- HL_LERR.replays. -/
def Fld.hlLerrReplays (i : Nat) : Fld := ⟨(Reg.hlLerr i), 32, 16⟩

/-- HL_LERR.check_fail. -/
def Fld.hlLerrCheckFail (i : Nat) : Fld := ⟨(Reg.hlLerr i), 16, 16⟩

/-- HL_LERR.late. -/
def Fld.hlLerrLate (i : Nat) : Fld := ⟨(Reg.hlLerr i), 0, 16⟩

/-- HL_LTRAF.frames_out. -/
def Fld.hlLtrafFramesOut (i : Nat) : Fld := ⟨(Reg.hlLtraf i), 32, 32⟩

/-- HL_LTRAF.frames_in. -/
def Fld.hlLtrafFramesIn (i : Nat) : Fld := ⟨(Reg.hlLtraf i), 0, 32⟩

/-- SEC_CAP.key_tags. -/
def Fld.secCapKeyTags : Fld := ⟨Reg.secCap, 40, 8⟩

/-- SEC_CAP.components. -/
def Fld.secCapComponents : Fld := ⟨Reg.secCap, 32, 8⟩

/-- SEC_CAP.firewalls. -/
def Fld.secCapFirewalls : Fld := ⟨Reg.secCap, 24, 8⟩

/-- SEC_CAP.contexts. -/
def Fld.secCapContexts : Fld := ⟨Reg.secCap, 16, 8⟩

/-- SEC_CAP.spdm. -/
def Fld.secCapSpdm : Fld := ⟨Reg.secCap, 8, 8⟩

/-- SEC_CAP.pkg_log2. -/
def Fld.secCapPkgLog2 : Fld := ⟨Reg.secCap, 0, 8⟩

/-- SEC_STATUS.boot_count. -/
def Fld.secStatusBootCount : Fld := ⟨Reg.secStatus, 32, 32⟩

/-- SEC_STATUS.last_reset. -/
def Fld.secStatusLastReset : Fld := ⟨Reg.secStatus, 20, 4⟩

/-- SEC_STATUS.lms_exhausted. -/
def Fld.secStatusLmsExhausted : Fld := ⟨Reg.secStatus, 7, 1⟩

/-- SEC_STATUS.lms_renewing. -/
def Fld.secStatusLmsRenewing : Fld := ⟨Reg.secStatus, 6, 1⟩

/-- SEC_STATUS.staged. -/
def Fld.secStatusStaged : Fld := ⟨Reg.secStatus, 5, 1⟩

/-- SEC_STATUS.debug_used. -/
def Fld.secStatusDebugUsed : Fld := ⟨Reg.secStatus, 3, 1⟩

/-- SEC_STATUS.debug. -/
def Fld.secStatusDebug : Fld := ⟨Reg.secStatus, 2, 1⟩

/-- SEC_STATUS.confidential. -/
def Fld.secStatusConfidential : Fld := ⟨Reg.secStatus, 1, 1⟩

/-- SEC_STATUS.locked. -/
def Fld.secStatusLocked : Fld := ⟨Reg.secStatus, 0, 1⟩

/-- SEC_RESETGEN.count. -/
def Fld.secResetgenCount : Fld := ⟨Reg.secResetgen, 0, 32⟩

/-- SEC_PROT.lock. -/
def Fld.secProtLock : Fld := ⟨Reg.secProt, 7, 1⟩

/-- SEC_PROT.rack_trust. -/
def Fld.secProtRackTrust : Fld := ⟨Reg.secProt, 4, 1⟩

/-- SEC_PROT.conf_policy. -/
def Fld.secProtConfPolicy : Fld := ⟨Reg.secProt, 2, 2⟩

/-- SEC_PROT.debug_lock. -/
def Fld.secProtDebugLock : Fld := ⟨Reg.secProt, 0, 1⟩

/-- SEC_CTXTAB.base. -/
def Fld.secCtxtabBase : Fld := ⟨Reg.secCtxtab, 12, 28⟩

/-- SEC_TAGTAB.base. -/
def Fld.secTagtabBase : Fld := ⟨Reg.secTagtab, 16, 24⟩

/-- SEC_ARB.owner. -/
def Fld.secArbOwner : Fld := ⟨Reg.secArb, 32, 8⟩

/-- SEC_ARB.request_engine. -/
def Fld.secArbRequestEngine : Fld := ⟨Reg.secArb, 24, 8⟩

/-- SEC_ARB.management. -/
def Fld.secArbManagement : Fld := ⟨Reg.secArb, 16, 8⟩

/-- SEC_ARB.security_engine. -/
def Fld.secArbSecurityEngine : Fld := ⟨Reg.secArb, 8, 8⟩

/-- SEC_ARB.boot_code. -/
def Fld.secArbBootCode : Fld := ⟨Reg.secArb, 0, 8⟩

/-- SEC_DBG.refused. -/
def Fld.secDbgRefused : Fld := ⟨Reg.secDbg, 1, 1⟩

/-- SEC_DBG.enable. -/
def Fld.secDbgEnable : Fld := ⟨Reg.secDbg, 0, 1⟩

/-- SEC_SLICE.period_align. -/
def Fld.secSlicePeriodAlign : Fld := ⟨Reg.secSlice, 32, 1⟩

/-- SEC_SLICE.us. -/
def Fld.secSliceUs : Fld := ⟨Reg.secSlice, 0, 32⟩

/-- SEC_OP_RING.size_code. -/
def Fld.secOpRingSizeCode : Fld := ⟨Reg.secOpRing, 60, 4⟩

/-- SEC_OP_RING.base. -/
def Fld.secOpRingBase : Fld := ⟨Reg.secOpRing, 6, 34⟩

/-- SEC_OP_RING.enable. -/
def Fld.secOpRingEnable : Fld := ⟨Reg.secOpRing, 0, 1⟩

/-- SEC_OP_CPL.size_code. -/
def Fld.secOpCplSizeCode : Fld := ⟨Reg.secOpCpl, 60, 4⟩

/-- SEC_OP_CPL.base. -/
def Fld.secOpCplBase : Fld := ⟨Reg.secOpCpl, 6, 34⟩

/-- SEC_OP_CPL.enable. -/
def Fld.secOpCplEnable : Fld := ⟨Reg.secOpCpl, 0, 1⟩

/-- SEC_LMS.subtree. -/
def Fld.secLmsSubtree : Fld := ⟨Reg.secLms, 32, 20⟩

/-- SEC_LMS.leaf. -/
def Fld.secLmsLeaf : Fld := ⟨Reg.secLms, 0, 20⟩

/-- SEC_FPRINT.digest. -/
def Fld.secFprintDigest (i : Nat) : Fld := ⟨(Reg.secFprint i), 0, 64⟩

/-- SEC_IMPKEY.enrolled. -/
def Fld.secImpkeyEnrolled (i : Nat) : Fld := ⟨(Reg.secImpkey i), 63, 1⟩

/-- SEC_IMPKEY.id. -/
def Fld.secImpkeyId (i : Nat) : Fld := ⟨(Reg.secImpkey i), 0, 48⟩

/-- SEC_FW_BASE.base. -/
def Fld.secFwBaseBase (i : Nat) : Fld := ⟨(Reg.secFwBase i), 20, 21⟩

/-- SEC_FW_BASE.deny. -/
def Fld.secFwBaseDeny (i : Nat) : Fld := ⟨(Reg.secFwBase i), 0, 3⟩

/-- SEC_FW_LIMIT.limit. -/
def Fld.secFwLimitLimit (i : Nat) : Fld := ⟨(Reg.secFwLimit i), 20, 21⟩

/-- SEC_FW_LIMIT.valid. -/
def Fld.secFwLimitValid (i : Nat) : Fld := ⟨(Reg.secFwLimit i), 0, 1⟩

/-- PWR_CAP.peak_w. -/
def Fld.pwrCapPeakW : Fld := ⟨Reg.pwrCap, 32, 16⟩

/-- PWR_CAP.tdp_w. -/
def Fld.pwrCapTdpW : Fld := ⟨Reg.pwrCap, 16, 16⟩

/-- PWR_CAP.peak_ms. -/
def Fld.pwrCapPeakMs : Fld := ⟨Reg.pwrCap, 8, 8⟩

/-- PWR_CAP.steps. -/
def Fld.pwrCapSteps : Fld := ⟨Reg.pwrCap, 0, 8⟩

/-- PWR_STATUS.vin_mv. -/
def Fld.pwrStatusVinMv : Fld := ⟨Reg.pwrStatus, 48, 16⟩

/-- PWR_STATUS.pin_w. -/
def Fld.pwrStatusPinW : Fld := ⟨Reg.pwrStatus, 32, 16⟩

/-- PWR_STATUS.tmax_c. -/
def Fld.pwrStatusTmaxC : Fld := ⟨Reg.pwrStatus, 24, 8⟩

/-- PWR_STATUS.ratio. -/
def Fld.pwrStatusRatio : Fld := ⟨Reg.pwrStatus, 8, 6⟩

/-- PWR_STATUS.excursion. -/
def Fld.pwrStatusExcursion : Fld := ⟨Reg.pwrStatus, 4, 1⟩

/-- PWR_STATUS.emergency. -/
def Fld.pwrStatusEmergency : Fld := ⟨Reg.pwrStatus, 3, 1⟩

/-- PWR_STATUS.thermal. -/
def Fld.pwrStatusThermal : Fld := ⟨Reg.pwrStatus, 2, 1⟩

/-- PWR_STATUS.power. -/
def Fld.pwrStatusPower : Fld := ⟨Reg.pwrStatus, 1, 1⟩

/-- PWR_STATUS.pg. -/
def Fld.pwrStatusPg : Fld := ⟨Reg.pwrStatus, 0, 1⟩

/-- PWR_LIMIT.emerg_w. -/
def Fld.pwrLimitEmergW : Fld := ⟨Reg.pwrLimit, 32, 16⟩

/-- PWR_LIMIT.tdp_w. -/
def Fld.pwrLimitTdpW : Fld := ⟨Reg.pwrLimit, 0, 16⟩

/-- PWR_THERM.throttle_c. -/
def Fld.pwrThermThrottleC : Fld := ⟨Reg.pwrTherm, 8, 8⟩

/-- PWR_THERM.hysteresis_c. -/
def Fld.pwrThermHysteresisC : Fld := ⟨Reg.pwrTherm, 0, 8⟩

/-- PWR_RESET.target. -/
def Fld.pwrResetTarget : Fld := ⟨Reg.pwrReset, 8, 11⟩

/-- PWR_RESET.kind. -/
def Fld.pwrResetKind : Fld := ⟨Reg.pwrReset, 0, 4⟩

/-- PWR_RESET_STATUS.target. -/
def Fld.pwrResetStatusTarget : Fld := ⟨Reg.pwrResetStatus, 8, 11⟩

/-- PWR_RESET_STATUS.kind. -/
def Fld.pwrResetStatusKind : Fld := ⟨Reg.pwrResetStatus, 4, 4⟩

/-- PWR_RESET_STATUS.absorbed. -/
def Fld.pwrResetStatusAbsorbed : Fld := ⟨Reg.pwrResetStatus, 3, 1⟩

/-- PWR_RESET_STATUS.refused. -/
def Fld.pwrResetStatusRefused : Fld := ⟨Reg.pwrResetStatus, 2, 1⟩

/-- PWR_RESET_STATUS.done. -/
def Fld.pwrResetStatusDone : Fld := ⟨Reg.pwrResetStatus, 1, 1⟩

/-- PWR_RESET_STATUS.busy. -/
def Fld.pwrResetStatusBusy : Fld := ⟨Reg.pwrResetStatus, 0, 1⟩

/-- PWR_STRAP.fid_err. -/
def Fld.pwrStrapFidErr : Fld := ⟨Reg.pwrStrap, 15, 1⟩

/-- PWR_STRAP.par. -/
def Fld.pwrStrapPar : Fld := ⟨Reg.pwrStrap, 9, 1⟩

/-- PWR_STRAP.fid. -/
def Fld.pwrStrapFid : Fld := ⟨Reg.pwrStrap, 0, 9⟩

/-- PWR_CNT.power. -/
def Fld.pwrCntPower : Fld := ⟨Reg.pwrCnt, 32, 32⟩

/-- PWR_CNT.thermal. -/
def Fld.pwrCntThermal : Fld := ⟨Reg.pwrCnt, 16, 16⟩

/-- PWR_CNT.emergency. -/
def Fld.pwrCntEmergency : Fld := ⟨Reg.pwrCnt, 0, 16⟩

/-- PWR_CORE_POL.nap_us. -/
def Fld.pwrCorePolNapUs : Fld := ⟨Reg.pwrCorePol, 0, 16⟩

/-- PWR_PENDING.link. -/
def Fld.pwrPendingLink : Fld := ⟨Reg.pwrPending, 0, 12⟩

/-- PWR_CLUSTER.status. -/
def Fld.pwrClusterStatus (i : Nat) : Fld := ⟨(Reg.pwrCluster i), 6, 2⟩

/-- PWR_CLUSTER.current. -/
def Fld.pwrClusterCurrent (i : Nat) : Fld := ⟨(Reg.pwrCluster i), 2, 2⟩

/-- PWR_CLUSTER.target. -/
def Fld.pwrClusterTarget (i : Nat) : Fld := ⟨(Reg.pwrCluster i), 0, 2⟩

/-- CLK_CAP.ref_mhz. -/
def Fld.clkCapRefMhz : Fld := ⟨Reg.clkCap, 8, 8⟩

/-- CLK_CAP.domains. -/
def Fld.clkCapDomains : Fld := ⟨Reg.clkCap, 0, 8⟩

/-- CLK_CTRL.sris. -/
def Fld.clkCtrlSris : Fld := ⟨Reg.clkCtrl, 0, 1⟩

/-- CLK_DOM.starts. -/
def Fld.clkDomStarts (i : Nat) : Fld := ⟨(Reg.clkDom i), 32, 32⟩

/-- CLK_DOM.freq. -/
def Fld.clkDomFreq (i : Nat) : Fld := ⟨(Reg.clkDom i), 16, 16⟩

/-- CLK_DOM.state. -/
def Fld.clkDomState (i : Nat) : Fld := ⟨(Reg.clkDom i), 0, 2⟩

/-- FLT_CAP.gold_entries. -/
def Fld.fltCapGoldEntries : Fld := ⟨Reg.fltCap, 40, 8⟩

/-- FLT_CAP.repairs. -/
def Fld.fltCapRepairs : Fld := ⟨Reg.fltCap, 32, 8⟩

/-- FLT_CAP.queue. -/
def Fld.fltCapQueue : Fld := ⟨Reg.fltCap, 16, 16⟩

/-- FLT_CAP.record_bytes. -/
def Fld.fltCapRecordBytes : Fld := ⟨Reg.fltCap, 8, 8⟩

/-- FLT_CAP.classes. -/
def Fld.fltCapClasses : Fld := ⟨Reg.fltCap, 0, 8⟩

/-- FLT_RING.size_code. -/
def Fld.fltRingSizeCode : Fld := ⟨Reg.fltRing, 60, 4⟩

/-- FLT_RING.base. -/
def Fld.fltRingBase : Fld := ⟨Reg.fltRing, 6, 34⟩

/-- FLT_RING.enable. -/
def Fld.fltRingEnable : Fld := ⟨Reg.fltRing, 0, 1⟩

/-- FLT_STATUS.in_service. -/
def Fld.fltStatusInService : Fld := ⟨Reg.fltStatus, 32, 16⟩

/-- FLT_STATUS.repairs. -/
def Fld.fltStatusRepairs : Fld := ⟨Reg.fltStatus, 16, 8⟩

/-- FLT_STATUS.queued. -/
def Fld.fltStatusQueued : Fld := ⟨Reg.fltStatus, 8, 8⟩

/-- FLT_STATUS.basic_cause. -/
def Fld.fltStatusBasicCause : Fld := ⟨Reg.fltStatus, 4, 4⟩

/-- FLT_STATUS.basic. -/
def Fld.fltStatusBasic : Fld := ⟨Reg.fltStatus, 0, 1⟩

/-- FLT_POLICY.hang_ms. -/
def Fld.fltPolicyHangMs : Fld := ⟨Reg.fltPolicy, 8, 8⟩

/-- FLT_POLICY.retry. -/
def Fld.fltPolicyRetry : Fld := ⟨Reg.fltPolicy, 0, 3⟩

/-- FLT_CNT.records. -/
def Fld.fltCntRecords : Fld := ⟨Reg.fltCnt, 32, 32⟩

/-- FLT_CNT.lost. -/
def Fld.fltCntLost : Fld := ⟨Reg.fltCnt, 16, 16⟩

/-- FLT_CNT.steps_dropped. -/
def Fld.fltCntStepsDropped : Fld := ⟨Reg.fltCnt, 0, 16⟩

/-- FLT_GOLD.count. -/
def Fld.fltGoldCount : Fld := ⟨Reg.fltGold, 40, 8⟩

/-- FLT_GOLD.base. -/
def Fld.fltGoldBase : Fld := ⟨Reg.fltGold, 6, 34⟩

/-- FLT_GOLD.enable. -/
def Fld.fltGoldEnable : Fld := ⟨Reg.fltGold, 0, 1⟩

/-- FLT_SPARE.clusters. -/
def Fld.fltSpareClusters : Fld := ⟨Reg.fltSpare, 0, 64⟩

/-- FLT_OUT.clusters. -/
def Fld.fltOutClusters : Fld := ⟨Reg.fltOut, 0, 64⟩

/-- FLT_CTX_STOP.contexts. -/
def Fld.fltCtxStopContexts : Fld := ⟨Reg.fltCtxStop, 0, 16⟩

/-- FLT_SRAM_CE.galley. -/
def Fld.fltSramCeGalley (i : Nat) : Fld := ⟨(Reg.fltSramCe i), 32, 32⟩

/-- FLT_SRAM_CE.pool. -/
def Fld.fltSramCePool (i : Nat) : Fld := ⟨(Reg.fltSramCe i), 0, 32⟩

/-- IMP_CAP.fmt_major. -/
def Fld.impCapFmtMajor : Fld := ⟨Reg.impCap, 48, 8⟩

/-- IMP_CAP.fmt_minor_max. -/
def Fld.impCapFmtMinorMax : Fld := ⟨Reg.impCap, 40, 8⟩

/-- IMP_CAP.contexts. -/
def Fld.impCapContexts : Fld := ⟨Reg.impCap, 32, 8⟩

/-- IMP_CAP.max_image_kib. -/
def Fld.impCapMaxImageKib : Fld := ⟨Reg.impCap, 16, 16⟩

/-- IMP_CAP.known_types. -/
def Fld.impCapKnownTypes : Fld := ⟨Reg.impCap, 0, 16⟩

/-- IMP_SRC.addr. -/
def Fld.impSrcAddr : Fld := ⟨Reg.impSrc, 0, 40⟩

/-- IMP_LEN.length. -/
def Fld.impLenLength : Fld := ⟨Reg.impLen, 0, 32⟩

/-- IMP_CTRL.context. -/
def Fld.impCtrlContext : Fld := ⟨Reg.impCtrl, 8, 4⟩

/-- IMP_CTRL.op. -/
def Fld.impCtrlOp : Fld := ⟨Reg.impCtrl, 0, 4⟩

/-- IMP_STATUS.fail_offset. -/
def Fld.impStatusFailOffset : Fld := ⟨Reg.impStatus, 32, 32⟩

/-- IMP_STATUS.cause. -/
def Fld.impStatusCause : Fld := ⟨Reg.impStatus, 24, 8⟩

/-- IMP_STATUS.context. -/
def Fld.impStatusContext : Fld := ⟨Reg.impStatus, 20, 4⟩

/-- IMP_STATUS.op. -/
def Fld.impStatusOp : Fld := ⟨Reg.impStatus, 16, 4⟩

/-- IMP_STATUS.overrun. -/
def Fld.impStatusOverrun : Fld := ⟨Reg.impStatus, 3, 1⟩

/-- IMP_STATUS.done. -/
def Fld.impStatusDone : Fld := ⟨Reg.impStatus, 2, 1⟩

/-- IMP_STATUS.pending. -/
def Fld.impStatusPending : Fld := ⟨Reg.impStatus, 1, 1⟩

/-- IMP_STATUS.busy. -/
def Fld.impStatusBusy : Fld := ⟨Reg.impStatus, 0, 1⟩

/-- IMP_CTX_STATE.state_c of slot c (Table 2.18). -/
def Fld.impCtxStateOf (c : Nat) : Fld := ⟨Reg.impCtxState, 4 * c, 4⟩

/-- IMP_DIGEST_SEL.context. -/
def Fld.impDigestSelContext : Fld := ⟨Reg.impDigestSel, 0, 4⟩

/-- IMP_DIGEST.digest. -/
def Fld.impDigestDigest (i : Nat) : Fld := ⟨(Reg.impDigest i), 0, 64⟩

/-- IMP_POLICY.require_signed. -/
def Fld.impPolicyRequireSigned : Fld := ⟨Reg.impPolicy, 0, 1⟩

/-- IMP_COUNT.rejects. -/
def Fld.impCountRejects : Fld := ⟨Reg.impCount, 32, 32⟩

/-- IMP_COUNT.loads. -/
def Fld.impCountLoads : Fld := ⟨Reg.impCount, 0, 32⟩

/-- CORE_CAP.modes. -/
def Fld.coreCapModes (n : Nat) : Fld := ⟨(Reg.coreCap n), 40, 8⟩

/-- CORE_CAP.sr_lanes. -/
def Fld.coreCapSrLanes (n : Nat) : Fld := ⟨(Reg.coreCap n), 32, 8⟩

/-- CORE_CAP.acc_tiles. -/
def Fld.coreCapAccTiles (n : Nat) : Fld := ⟨(Reg.coreCap n), 24, 8⟩

/-- CORE_CAP.queue_depth. -/
def Fld.coreCapQueueDepth (n : Nat) : Fld := ⟨(Reg.coreCap n), 16, 8⟩

/-- CORE_CAP.taa_cols. -/
def Fld.coreCapTaaCols (n : Nat) : Fld := ⟨(Reg.coreCap n), 8, 8⟩

/-- CORE_CAP.taa_rows. -/
def Fld.coreCapTaaRows (n : Nat) : Fld := ⟨(Reg.coreCap n), 0, 8⟩

/-- CORE_GALLEY_SIZE.bytes. -/
def Fld.coreGalleySizeBytes (n : Nat) : Fld := ⟨(Reg.coreGalleySize n), 0, 32⟩

/-- CORE_ID.spare_active. -/
def Fld.coreIdSpareActive (n : Nat) : Fld := ⟨(Reg.coreId n), 31, 1⟩

/-- CORE_ID.phys_slot. -/
def Fld.coreIdPhysSlot (n : Nat) : Fld := ⟨(Reg.coreId n), 24, 6⟩

/-- CORE_ID.die. -/
def Fld.coreIdDie (n : Nat) : Fld := ⟨(Reg.coreId n), 16, 2⟩

/-- CORE_ID.cluster. -/
def Fld.coreIdCluster (n : Nat) : Fld := ⟨(Reg.coreId n), 12, 4⟩

/-- CORE_ID.logical. -/
def Fld.coreIdLogical (n : Nat) : Fld := ⟨(Reg.coreId n), 0, 11⟩

/-- CORE_STATE.context. -/
def Fld.coreStateContext (n : Nat) : Fld := ⟨(Reg.coreState n), 32, 4⟩

/-- CORE_STATE.queue_used. -/
def Fld.coreStateQueueUsed (n : Nat) : Fld := ⟨(Reg.coreState n), 8, 4⟩

/-- CORE_STATE.quiesced. -/
def Fld.coreStateQuiesced (n : Nat) : Fld := ⟨(Reg.coreState n), 3, 1⟩

/-- CORE_STATE.busy. -/
def Fld.coreStateBusy (n : Nat) : Fld := ⟨(Reg.coreState n), 2, 1⟩

/-- CORE_STATE.power. -/
def Fld.coreStatePower (n : Nat) : Fld := ⟨(Reg.coreState n), 0, 2⟩

/-- CORE_CTRL.quiesce. -/
def Fld.coreCtrlQuiesce (n : Nat) : Fld := ⟨(Reg.coreCtrl n), 0, 1⟩

/-- CORE_FAULT.tile_tag. -/
def Fld.coreFaultTileTag (n : Nat) : Fld := ⟨(Reg.coreFault n), 48, 16⟩

/-- CORE_FAULT.period_tag. -/
def Fld.coreFaultPeriodTag (n : Nat) : Fld := ⟨(Reg.coreFault n), 32, 16⟩

/-- CORE_FAULT.opcode. -/
def Fld.coreFaultOpcode (n : Nat) : Fld := ⟨(Reg.coreFault n), 24, 8⟩

/-- CORE_FAULT.cause. -/
def Fld.coreFaultCause (n : Nat) : Fld := ⟨(Reg.coreFault n), 8, 8⟩

/-- CORE_FAULT.overflow. -/
def Fld.coreFaultOverflow (n : Nat) : Fld := ⟨(Reg.coreFault n), 1, 1⟩

/-- CORE_FAULT.valid. -/
def Fld.coreFaultValid (n : Nat) : Fld := ⟨(Reg.coreFault n), 0, 1⟩

/-- CORE_CNT_TILES.faulted. -/
def Fld.coreCntTilesFaulted (n : Nat) : Fld := ⟨(Reg.coreCntTiles n), 32, 32⟩

/-- CORE_CNT_TILES.completed. -/
def Fld.coreCntTilesCompleted (n : Nat) : Fld := ⟨(Reg.coreCntTiles n), 0, 32⟩

/-- CORE_CNT_STEAL.other_die. -/
def Fld.coreCntStealOtherDie (n : Nat) : Fld := ⟨(Reg.coreCntSteal n), 32, 32⟩

/-- CORE_CNT_STEAL.same_die. -/
def Fld.coreCntStealSameDie (n : Nat) : Fld := ⟨(Reg.coreCntSteal n), 0, 32⟩

/-- CORE_CNT_STALL.weight_stall. -/
def Fld.coreCntStallWeightStall (n : Nat) : Fld := ⟨(Reg.coreCntStall n), 0, 64⟩

/-- CORE_CNT_RETRY.reprints. -/
def Fld.coreCntRetryReprints (n : Nat) : Fld := ⟨(Reg.coreCntRetry n), 32, 32⟩

/-- CORE_CNT_RETRY.cancelled. -/
def Fld.coreCntRetryCancelled (n : Nat) : Fld := ⟨(Reg.coreCntRetry n), 0, 32⟩

/-- CORE_CNT_PLANE.planes_skipped. -/
def Fld.coreCntPlanePlanesSkipped (n : Nat) : Fld := ⟨(Reg.coreCntPlane n), 32, 32⟩

/-- CORE_CNT_PLANE.table_builds. -/
def Fld.coreCntPlaneTableBuilds (n : Nat) : Fld := ⟨(Reg.coreCntPlane n), 0, 32⟩

/-- CORE_SPARSE_LOG.tile_tag. -/
def Fld.coreSparseLogTileTag (n : Nat) : Fld := ⟨(Reg.coreSparseLog n), 48, 16⟩

/-- CORE_SPARSE_LOG.detail. -/
def Fld.coreSparseLogDetail (n : Nat) : Fld := ⟨(Reg.coreSparseLog n), 40, 8⟩

/-- CORE_SPARSE_LOG.offset. -/
def Fld.coreSparseLogOffset (n : Nat) : Fld := ⟨(Reg.coreSparseLog n), 8, 32⟩

/-- CORE_SPARSE_LOG.overflow. -/
def Fld.coreSparseLogOverflow (n : Nat) : Fld := ⟨(Reg.coreSparseLog n), 1, 1⟩

/-- CORE_SPARSE_LOG.valid. -/
def Fld.coreSparseLogValid (n : Nat) : Fld := ⟨(Reg.coreSparseLog n), 0, 1⟩

/-- CORE_CNT_SPARSE.skipped. -/
def Fld.coreCntSparseSkipped (n : Nat) : Fld := ⟨(Reg.coreCntSparse n), 32, 32⟩

/-- CORE_CNT_SPARSE.above_thr. -/
def Fld.coreCntSparseAboveThr (n : Nat) : Fld := ⟨(Reg.coreCntSparse n), 16, 16⟩

/-- CORE_CNT_SPARSE.gather. -/
def Fld.coreCntSparseGather (n : Nat) : Fld := ⟨(Reg.coreCntSparse n), 0, 16⟩

/-- CORE_CNT_PREFLIGHT.misses. -/
def Fld.coreCntPreflightMisses (n : Nat) : Fld := ⟨(Reg.coreCntPreflight n), 32, 32⟩

/-- CORE_CNT_PREFLIGHT.idle. -/
def Fld.coreCntPreflightIdle (n : Nat) : Fld := ⟨(Reg.coreCntPreflight n), 0, 32⟩

/-- CORE_CNT_ACTWAIT.cycles. -/
def Fld.coreCntActwaitCycles (n : Nat) : Fld := ⟨(Reg.coreCntActwait n), 0, 64⟩

/-- CORE_ACC_SEL.tile. -/
def Fld.coreAccSelTile (n : Nat) : Fld := ⟨(Reg.coreAccSel n), 16, 1⟩

/-- CORE_ACC_SEL.row. -/
def Fld.coreAccSelRow (n : Nat) : Fld := ⟨(Reg.coreAccSel n), 8, 8⟩

/-- CORE_ACC_SEL.column. -/
def Fld.coreAccSelColumn (n : Nat) : Fld := ⟨(Reg.coreAccSel n), 0, 6⟩

/-- CORE_ACC_VIEW.block_sum. -/
def Fld.coreAccViewBlockSum (n : Nat) : Fld := ⟨(Reg.coreAccView n), 32, 32⟩

/-- CORE_ACC_VIEW.clip. -/
def Fld.coreAccViewClip (n : Nat) : Fld := ⟨(Reg.coreAccView n), 24, 8⟩

/-- CORE_ACC_VIEW.block. -/
def Fld.coreAccViewBlock (n : Nat) : Fld := ⟨(Reg.coreAccView n), 0, 24⟩

/-- CORE_ACC_VIEW_FP.sum. -/
def Fld.coreAccViewFpSum (n : Nat) : Fld := ⟨(Reg.coreAccViewFp n), 32, 32⟩

/-- CORE_ACC_VIEW_FP.comp. -/
def Fld.coreAccViewFpComp (n : Nat) : Fld := ⟨(Reg.coreAccViewFp n), 0, 32⟩

/-- CORE_SR_MAP.lanes. -/
def Fld.coreSrMapLanes (n : Nat) : Fld := ⟨(Reg.coreSrMap n), 0, 64⟩

/-- CORE_SR_SEED.seed. -/
def Fld.coreSrSeedSeed (n i : Nat) : Fld := ⟨(Reg.coreSrSeed n i), 32, 32⟩

/-- CORE_SR_SEED.valid. -/
def Fld.coreSrSeedValid (n i : Nat) : Fld := ⟨(Reg.coreSrSeed n i), 7, 1⟩

/-- CORE_SR_SEED.lane. -/
def Fld.coreSrSeedLane (n i : Nat) : Fld := ⟨(Reg.coreSrSeed n i), 0, 6⟩

/-- CORE_SR_CTR.ctr. -/
def Fld.coreSrCtrCtr (n i : Nat) : Fld := ⟨(Reg.coreSrCtr n i), 0, 64⟩

/-- CORE_CNT_NUM.clip. -/
def Fld.coreCntNumClip (n : Nat) : Fld := ⟨(Reg.coreCntNum n), 48, 16⟩

/-- CORE_CNT_NUM.overflow. -/
def Fld.coreCntNumOverflow (n : Nat) : Fld := ⟨(Reg.coreCntNum n), 32, 16⟩

/-- CORE_CNT_NUM.nonfinite. -/
def Fld.coreCntNumNonfinite (n : Nat) : Fld := ⟨(Reg.coreCntNum n), 16, 16⟩

/-- CORE_CNT_NUM.numeric_faults. -/
def Fld.coreCntNumNumericFaults (n : Nat) : Fld := ⟨(Reg.coreCntNum n), 0, 16⟩

/-! ## Rows of the index -/

/-- The rows of the HUB_ block (offset, count, stride, reset, fields). -/
def regRowsHub : List RegRow :=
  [⟨0x0, 1, 0x8, 0xC71A0A0901030000, [⟨63, 48, .ro, false⟩, ⟨47, 32, .ro, false⟩, ⟨31, 24, .ro, false⟩, ⟨23, 16, .ro, false⟩, ⟨15, 8, .ro, false⟩]⟩,
   ⟨0x8, 1, 0x8, 0x000000000003FFFD, [⟨63, 0, .ro, false⟩]⟩,
   ⟨0x10, 1, 0x8, 0x0, [⟨3, 0, .ro, false⟩]⟩,
   ⟨0x18, 4, 0x8, 0x0, [⟨63, 32, .ro, false⟩, ⟨15, 0, .ro, false⟩]⟩]

/-- The rows of the GAL_ block (offset, count, stride, reset, fields). -/
def regRowsGal : List RegRow :=
  [⟨0x0, 1, 0x8, 0x0000000910400820, [⟨39, 32, .ro, false⟩, ⟨31, 24, .ro, false⟩, ⟨23, 16, .ro, false⟩, ⟨15, 8, .ro, false⟩, ⟨7, 0, .ro, false⟩]⟩,
   ⟨0x8, 1, 0x8, 0x0, [⟨43, 33, .dbgRw, false⟩, ⟨31, 20, .dbgRw, false⟩, ⟨3, 2, .dbgRo, false⟩, ⟨1, 0, .dbgWo, false⟩]⟩,
   ⟨0x10, 8, 0x8, 0x0, [⟨63, 0, .dbgRw, false⟩]⟩,
   ⟨0x4000, 2048, 0x8, 0x7654321076543210, [⟨63, 0, .ro, false⟩]⟩,
   ⟨0x8000, 2048, 0x8, 0x0, [⟨63, 32, .ro, false⟩, ⟨31, 0, .ro, false⟩]⟩]

/-- The rows of the POOL_ block (offset, count, stride, reset, fields). -/
def regRowsPool : List RegRow :=
  [⟨0x0, 1, 0x8, 0x0000040000400100, [⟨47, 32, .ro, false⟩, ⟨31, 16, .ro, false⟩, ⟨15, 0, .ro, false⟩]⟩,
   ⟨0x8, 1, 0x8, 0x0, [⟨0, 0, .rw, false⟩]⟩,
   ⟨0x10, 1, 0x8, 0x0, [⟨7, 4, .rw, false⟩, ⟨1, 1, .rw, false⟩, ⟨0, 0, .wo, false⟩]⟩,
   ⟨0x18, 1, 0x8, 0x0, [⟨39, 32, .ro, false⟩, ⟨3, 3, .w1c, false⟩, ⟨2, 2, .w1c, false⟩, ⟨1, 1, .w1c, false⟩, ⟨0, 0, .ro, false⟩]⟩,
   ⟨0x20, 4, 0x8, 0x0, [⟨63, 0, .ro, false⟩]⟩,
   ⟨0x1000, 256, 0x8, 0x000000000000FFFE, [⟨33, 33, .w1c, false⟩, ⟨32, 32, .ro, false⟩, ⟨20, 20, .ro, false⟩, ⟨19, 16, .ro, false⟩, ⟨15, 0, .rw, false⟩]⟩,
   ⟨0x1800, 256, 0x8, 0x000000000000000A, [⟨8, 8, .ro, false⟩, ⟨7, 6, .ro, false⟩, ⟨3, 2, .ro, false⟩, ⟨1, 0, .rw, false⟩]⟩,
   ⟨0x2000, 256, 0x8, 0x0, [⟨63, 32, .ro, false⟩, ⟨31, 0, .ro, false⟩]⟩]

/-- The rows of the MEMF_ block (offset, count, stride, reset, fields). -/
def regRowsMemf : List RegRow :=
  [⟨0x0, 1, 0x8, 0x0000006020080660, [⟨47, 32, .ro, false⟩, ⟨31, 24, .ro, false⟩, ⟨23, 16, .ro, false⟩, ⟨15, 8, .ro, false⟩, ⟨7, 0, .ro, false⟩]⟩,
   ⟨0x8, 1, 0x8, 0x0, [⟨21, 16, .ro, false⟩, ⟨13, 8, .ro, false⟩, ⟨5, 0, .ro, false⟩]⟩,
   ⟨0x10, 1, 0x8, 0x0000000010010018, [⟨31, 24, .rw, false⟩, ⟨16, 16, .rw, false⟩, ⟨7, 0, .rw, false⟩]⟩,
   ⟨0x18, 1, 0x8, 0x0, [⟨63, 32, .ro, false⟩, ⟨31, 16, .ro, false⟩, ⟨15, 0, .ro, false⟩]⟩,
   ⟨0x20, 1, 0x8, 0x0, [⟨47, 6, .ro, false⟩, ⟨0, 0, .w1c, false⟩]⟩,
   ⟨0x28, 1, 0x8, 0x0, [⟨55, 52, .ro, false⟩, ⟨47, 40, .ro, false⟩, ⟨39, 36, .ro, false⟩, ⟨31, 24, .ro, false⟩, ⟨23, 16, .ro, false⟩, ⟨15, 0, .ro, false⟩]⟩,
   ⟨0x40, 6, 0x8, 0x0, [⟨15, 8, .ro, false⟩, ⟨7, 0, .ro, false⟩]⟩]

/-- The rows of the MEMS_ block (offset, count, stride, reset, fields). -/
def regRowsMems : List RegRow :=
  [⟨0x0, 1, 0x8, 0x000000400418107D, [⟨47, 32, .ro, false⟩, ⟨31, 24, .ro, false⟩, ⟨23, 16, .ro, false⟩, ⟨15, 8, .ro, false⟩, ⟨7, 0, .ro, false⟩]⟩,
   ⟨0x8, 1, 0x8, 0x0, [⟨47, 32, .ro, false⟩, ⟨31, 16, .ro, false⟩, ⟨0, 0, .ro, false⟩]⟩,
   ⟨0x10, 1, 0x8, 0x0000000010010018, [⟨31, 24, .rw, false⟩, ⟨16, 16, .rw, false⟩, ⟨7, 0, .rw, false⟩]⟩,
   ⟨0x18, 1, 0x8, 0x0, [⟨63, 32, .ro, false⟩, ⟨31, 16, .ro, false⟩, ⟨15, 0, .ro, false⟩]⟩,
   ⟨0x20, 1, 0x8, 0x0, [⟨47, 6, .ro, false⟩, ⟨0, 0, .w1c, false⟩]⟩,
   ⟨0x28, 1, 0x8, 0x0, [⟨55, 52, .ro, false⟩, ⟨47, 40, .ro, false⟩, ⟨39, 36, .ro, false⟩, ⟨31, 24, .ro, false⟩, ⟨23, 16, .ro, false⟩, ⟨15, 0, .ro, false⟩]⟩,
   ⟨0x30, 1, 0x8, 0x0, [⟨8, 0, .rw, false⟩]⟩,
   ⟨0x38, 1, 0x8, 0x0, [⟨63, 60, .rw, false⟩, ⟨39, 6, .rw, false⟩, ⟨0, 0, .rw, false⟩]⟩,
   ⟨0x40, 1, 0x8, 0x0, [⟨63, 60, .rw, false⟩, ⟨39, 6, .rw, false⟩, ⟨0, 0, .rw, false⟩]⟩,
   ⟨0x48, 1, 0x8, 0x0000000000000032, [⟨7, 0, .rw, false⟩]⟩,
   ⟨0x50, 1, 0x8, 0x0, [⟨63, 48, .ro, false⟩, ⟨47, 32, .ro, false⟩, ⟨31, 24, .ro, false⟩]⟩,
   ⟨0x58, 1, 0x8, 0x0, [⟨63, 32, .ro, false⟩, ⟨31, 0, .ro, false⟩]⟩]

/-- The rows of the XLT_ block (offset, count, stride, reset, fields). -/
def regRowsXlt : List RegRow :=
  [⟨0x0, 1, 0x8, 0x0000200080020F79, [⟨47, 32, .ro, false⟩, ⟨31, 20, .ro, false⟩, ⟨19, 12, .ro, false⟩, ⟨11, 9, .ro, false⟩, ⟨8, 6, .ro, false⟩, ⟨5, 0, .ro, false⟩]⟩,
   ⟨0x8, 1, 0x8, 0x0, [⟨56, 0, .rw, false⟩]⟩,
   ⟨0x10, 1, 0x8, 0x0, [⟨11, 8, .wo, false⟩, ⟨5, 0, .wo, false⟩]⟩,
   ⟨0x18, 1, 0x8, 0x0, [⟨2, 2, .w1c, false⟩, ⟨1, 1, .w1c, false⟩, ⟨0, 0, .ro, false⟩]⟩,
   ⟨0x20, 1, 0x8, 0x0, [⟨51, 16, .wo, false⟩]⟩,
   ⟨0x28, 1, 0x8, 0x0, [⟨47, 32, .ro, false⟩, ⟨4, 4, .ro, false⟩, ⟨3, 3, .w1c, false⟩, ⟨2, 2, .w1c, false⟩, ⟨1, 1, .w1c, false⟩, ⟨0, 0, .ro, false⟩]⟩,
   ⟨0x30, 1, 0x8, 0x0, [⟨63, 63, .w1c, false⟩, ⟨56, 0, .ro, false⟩]⟩,
   ⟨0x38, 1, 0x8, 0x0, [⟨63, 60, .ro, false⟩, ⟨59, 56, .ro, false⟩, ⟨55, 45, .ro, false⟩, ⟨39, 36, .ro, false⟩, ⟨35, 32, .ro, false⟩, ⟨15, 0, .ro, false⟩]⟩,
   ⟨0x40, 1, 0x8, 0x0, [⟨63, 32, .ro, false⟩, ⟨31, 0, .ro, false⟩]⟩]

/-- The rows of the CMP_ block (offset, count, stride, reset, fields). -/
def regRowsCmp : List RegRow :=
  [⟨0x0, 1, 0x8, 0x00004004140C4010, [⟨47, 40, .ro, false⟩, ⟨39, 32, .ro, false⟩, ⟨31, 24, .ro, false⟩, ⟨23, 16, .ro, false⟩, ⟨15, 8, .ro, false⟩, ⟨7, 0, .ro, false⟩]⟩,
   ⟨0x8, 1, 0x8, 0x0, [⟨0, 0, .rw, false⟩]⟩,
   ⟨0x10, 1, 0x8, 0x0000000000000002, [⟨23, 16, .ro, false⟩, ⟨3, 3, .ro, false⟩, ⟨2, 2, .ro, false⟩, ⟨1, 1, .ro, false⟩]⟩,
   ⟨0x18, 1, 0x8, 0x0, [⟨63, 60, .rw, false⟩, ⟨39, 6, .rw, false⟩, ⟨0, 0, .rw, false⟩]⟩,
   ⟨0x20, 1, 0x8, 0x0, [⟨63, 60, .rw, false⟩, ⟨39, 6, .rw, false⟩, ⟨0, 0, .rw, false⟩]⟩,
   ⟨0x28, 1, 0x8, 0x0, [⟨4, 4, .wo, false⟩, ⟨3, 0, .wo, false⟩]⟩,
   ⟨0x30, 1, 0x8, 0x0, [⟨2, 2, .w1c, false⟩, ⟨1, 1, .w1c, false⟩, ⟨0, 0, .ro, false⟩]⟩,
   ⟨0x38, 1, 0x8, 0x0, [⟨63, 63, .w1c, false⟩, ⟨56, 0, .ro, false⟩]⟩,
   ⟨0x40, 1, 0x8, 0x0, [⟨63, 60, .ro, false⟩, ⟨59, 56, .ro, false⟩, ⟨55, 48, .ro, false⟩, ⟨47, 40, .ro, false⟩, ⟨15, 0, .ro, false⟩]⟩,
   ⟨0x48, 1, 0x8, 0x0, [⟨63, 32, .ro, false⟩, ⟨31, 0, .ro, false⟩]⟩,
   ⟨0x100, 16, 0x8, 0x0, [⟨56, 48, .rw, false⟩, ⟨39, 6, .rw, false⟩]⟩,
   ⟨0x400, 64, 0x8, 0x0, [⟨63, 32, .ro, false⟩, ⟨31, 0, .ro, false⟩]⟩]

/-- The rows of the REQ_ block (offset, count, stride, reset, fields). -/
def regRowsReq : List RegRow :=
  [⟨0x0, 1, 0x8, 0x0000400040040000, [⟨47, 32, .ro, false⟩, ⟨31, 24, .ro, false⟩, ⟨18, 0, .ro, false⟩]⟩,
   ⟨0x8, 1, 0x8, 0x0, [⟨0, 0, .rw, false⟩]⟩,
   ⟨0x10, 1, 0x8, 0x0, [⟨39, 26, .rw, false⟩]⟩,
   ⟨0x18, 1, 0x8, 0x0, [⟨63, 32, .ro, false⟩, ⟨1, 1, .ro, false⟩, ⟨0, 0, .ro, false⟩]⟩,
   ⟨0x100, 16, 0x8, 0x0, [⟨60, 40, .rw, false⟩, ⟨39, 28, .rw, false⟩, ⟨20, 0, .rw, false⟩]⟩,
   ⟨0x180, 16, 0x8, 0x0, [⟨56, 7, .rw, false⟩]⟩,
   ⟨0x200, 16, 0x8, 0x0, [⟨56, 6, .rw, false⟩]⟩,
   ⟨0x280, 16, 0x8, 0x0, [⟨63, 32, .ro, false⟩, ⟨16, 16, .w1c, false⟩, ⟨15, 0, .ro, false⟩]⟩,
   ⟨0x400, 64, 0x10, 0x0, [⟨63, 60, .rw, false⟩, ⟨59, 56, .rw, false⟩, ⟨51, 6, .rw, false⟩, ⟨0, 0, .rw, false⟩]⟩,
   ⟨0x408, 64, 0x10, 0x0, [⟨63, 60, .rw, false⟩, ⟨51, 6, .rw, false⟩, ⟨0, 0, .rw, false⟩]⟩,
   ⟨0x800, 1, 0x8, 0x0, [⟨17, 0, .rw, false⟩]⟩,
   ⟨0x808, 1, 0x8, 0x0, [⟨63, 60, .ro, false⟩, ⟨59, 56, .ro, false⟩, ⟨55, 48, .ro, false⟩, ⟨31, 0, .ro, false⟩]⟩] ++
  [⟨0x810, 1, 0x8, 0x0, [⟨63, 32, .ro, false⟩, ⟨31, 0, .ro, false⟩]⟩,
   ⟨0x818, 1, 0x8, 0x0, [⟨63, 48, .ro, false⟩, ⟨47, 32, .ro, false⟩, ⟨31, 0, .ro, false⟩]⟩]

/-- The rows of the SMP_ block (offset, count, stride, reset, fields). -/
def regRowsSmp : List RegRow :=
  [⟨0x0, 1, 0x8, 0x0000000204008014, [⟨39, 32, .ro, false⟩, ⟨31, 16, .ro, false⟩, ⟨15, 8, .ro, false⟩, ⟨7, 0, .ro, false⟩]⟩,
   ⟨0x8, 1, 0x8, 0x0000000000000003, [⟨1, 0, .rw, false⟩]⟩,
   ⟨0x10, 1, 0x8, 0x0, [⟨9, 8, .ro, false⟩, ⟨1, 0, .ro, false⟩]⟩,
   ⟨0x18, 2, 0x8, 0x0, [⟨63, 32, .ro, false⟩, ⟨31, 0, .ro, false⟩]⟩]

/-- The rows of the ATT_ block (offset, count, stride, reset, fields). -/
def regRowsAtt : List RegRow :=
  [⟨0x0, 1, 0x8, 0x0000800407070000, [⟨47, 40, .ro, false⟩, ⟨39, 32, .ro, false⟩, ⟨31, 24, .ro, false⟩, ⟨23, 16, .ro, false⟩]⟩,
   ⟨0x8, 1, 0x8, 0x0, [⟨39, 16, .rw, false⟩, ⟨0, 0, .rw, false⟩]⟩,
   ⟨0x10, 1, 0x8, 0x0, [⟨47, 32, .w1c, false⟩, ⟨31, 16, .ro, false⟩, ⟨0, 0, .ro, false⟩]⟩,
   ⟨0x18, 1, 0x8, 0x0, [⟨63, 60, .rw, false⟩, ⟨39, 6, .rw, false⟩, ⟨0, 0, .rw, false⟩]⟩,
   ⟨0x20, 1, 0x8, 0x0, [⟨63, 60, .rw, false⟩, ⟨39, 6, .rw, false⟩, ⟨0, 0, .rw, false⟩]⟩,
   ⟨0x28, 1, 0x8, 0x0, [⟨63, 63, .w1c, false⟩, ⟨56, 0, .ro, false⟩]⟩,
   ⟨0x30, 1, 0x8, 0x0, [⟨63, 60, .ro, false⟩, ⟨59, 42, .ro, false⟩, ⟨39, 32, .ro, false⟩, ⟨15, 0, .ro, false⟩]⟩,
   ⟨0x38, 1, 0x8, 0x0, [⟨63, 32, .ro, false⟩, ⟨31, 0, .ro, false⟩]⟩,
   ⟨0x40, 1, 0x8, 0x0, [⟨63, 32, .ro, false⟩, ⟨31, 0, .ro, false⟩]⟩,
   ⟨0x48, 1, 0x8, 0x0, [⟨63, 32, .ro, false⟩, ⟨31, 0, .ro, false⟩]⟩,
   ⟨0x100, 16, 0x8, 0x0, [⟨26, 16, .rw, false⟩, ⟨15, 8, .rw, false⟩, ⟨4, 0, .rw, false⟩]⟩,
   ⟨0x200, 16, 0x10, 0x0, [⟨63, 60, .rw, false⟩, ⟨39, 6, .rw, false⟩, ⟨0, 0, .rw, false⟩]⟩] ++
  [⟨0x208, 16, 0x10, 0x0, [⟨63, 60, .rw, false⟩, ⟨39, 6, .rw, false⟩, ⟨0, 0, .rw, false⟩]⟩]

/-- The rows of the CXL_ block (offset, count, stride, reset, fields). -/
def regRowsCxl : List RegRow :=
  [⟨0x0, 1, 0x8, 0x0000601003021040, [⟨47, 40, .ro, false⟩, ⟨39, 32, .ro, false⟩, ⟨31, 24, .ro, false⟩, ⟨23, 16, .ro, false⟩, ⟨15, 8, .ro, false⟩, ⟨7, 0, .ro, false⟩]⟩,
   ⟨0x8, 1, 0x8, 0x0, [⟨23, 16, .ro, false⟩, ⟨15, 8, .ro, false⟩, ⟨1, 0, .ro, false⟩]⟩,
   ⟨0x10, 1, 0x8, 0x0, [⟨31, 24, .ro, false⟩, ⟨23, 16, .ro, false⟩, ⟨6, 6, .ro, false⟩, ⟨5, 5, .ro, false⟩, ⟨4, 4, .ro, false⟩, ⟨3, 3, .ro, false⟩, ⟨2, 2, .ro, false⟩, ⟨1, 1, .ro, false⟩, ⟨0, 0, .ro, false⟩]⟩,
   ⟨0x18, 1, 0x8, 0x0, [⟨40, 34, .rw, false⟩]⟩,
   ⟨0x20, 1, 0x8, 0x0, [⟨63, 0, .w1c, true⟩]⟩,
   ⟨0x28, 1, 0x8, 0x0, [⟨15, 0, .rw, false⟩]⟩,
   ⟨0x30, 1, 0x8, 0x0, [⟨63, 32, .ro, false⟩, ⟨31, 0, .ro, false⟩]⟩,
   ⟨0x38, 1, 0x8, 0x0, [⟨63, 48, .ro, false⟩, ⟨47, 32, .ro, false⟩, ⟨31, 16, .ro, false⟩, ⟨15, 0, .ro, false⟩]⟩,
   ⟨0x40, 1, 0x8, 0x0, [⟨48, 32, .ro, false⟩, ⟨17, 0, .ro, false⟩]⟩,
   ⟨0x100, 16, 0x8, 0x00000000000E0000, [⟨19, 16, .rw, false⟩, ⟨3, 3, .w1c, false⟩, ⟨2, 2, .w1c, false⟩, ⟨1, 1, .w1c, false⟩, ⟨0, 0, .w1c, false⟩]⟩]

/-- The rows of the HL_ block (offset, count, stride, reset, fields). -/
def regRowsHl : List RegRow :=
  [⟨0x0, 1, 0x8, 0x00000F09E009030C, [⟨47, 40, .ro, false⟩, ⟨39, 32, .ro, false⟩, ⟨31, 24, .ro, false⟩, ⟨23, 16, .ro, false⟩, ⟨15, 8, .ro, false⟩, ⟨7, 0, .ro, false⟩]⟩,
   ⟨0x8, 1, 0x8, 0x0, [⟨55, 52, .ro, false⟩, ⟨49, 49, .ro, false⟩, ⟨48, 48, .ro, false⟩, ⟨47, 32, .ro, false⟩, ⟨24, 16, .ro, false⟩, ⟨8, 0, .ro, false⟩]⟩,
   ⟨0x10, 1, 0x8, 0x0000000000000001, [⟨1, 1, .rw, false⟩, ⟨0, 0, .rw, false⟩]⟩,
   ⟨0x18, 1, 0x8, 0x00000000000A03E8, [⟨31, 16, .rw, false⟩, ⟨15, 0, .rw, false⟩]⟩,
   ⟨0x20, 1, 0x8, 0x0000000000100100, [⟨31, 16, .rw, false⟩, ⟨15, 0, .rw, false⟩]⟩,
   ⟨0x28, 1, 0x8, 0x0, [⟨39, 16, .rw, false⟩, ⟨0, 0, .rw, false⟩]⟩,
   ⟨0x30, 1, 0x8, 0x0, [⟨43, 32, .rw, false⟩, ⟨1, 1, .w1c, false⟩, ⟨0, 0, .wo, false⟩]⟩,
   ⟨0x38, 1, 0x8, 0x0, [⟨63, 63, .w1c, false⟩, ⟨55, 48, .ro, false⟩, ⟨47, 44, .ro, false⟩, ⟨40, 32, .ro, false⟩, ⟨31, 16, .ro, false⟩, ⟨15, 12, .ro, false⟩]⟩,
   ⟨0x40, 1, 0x8, 0x0, [⟨37, 16, .ro, false⟩, ⟨15, 0, .ro, false⟩]⟩,
   ⟨0x48, 1, 0x8, 0x0, [⟨8, 0, .rw, false⟩]⟩,
   ⟨0x50, 1, 0x8, 0x0, [⟨15, 15, .ro, false⟩, ⟨11, 8, .ro, false⟩, ⟨3, 0, .ro, false⟩]⟩,
   ⟨0x100, 12, 0x40, 0x0000F00000000000, [⟨56, 48, .ro, false⟩, ⟨47, 44, .ro, false⟩, ⟨43, 40, .ro, false⟩, ⟨39, 36, .ro, false⟩, ⟨35, 32, .ro, false⟩, ⟨15, 8, .ro, false⟩, ⟨3, 0, .ro, false⟩]⟩] ++
  [⟨0x108, 12, 0x40, 0x0, [⟨1, 1, .wo, false⟩, ⟨0, 0, .rw, false⟩]⟩,
   ⟨0x110, 12, 0x40, 0x0, [⟨63, 48, .ro, false⟩, ⟨47, 32, .ro, false⟩, ⟨31, 16, .ro, false⟩, ⟨15, 0, .ro, false⟩]⟩,
   ⟨0x118, 12, 0x40, 0x0, [⟨63, 32, .ro, false⟩, ⟨31, 0, .ro, false⟩]⟩]

/-- The rows of the SEC_ block (offset, count, stride, reset, fields). -/
def regRowsSec : List RegRow :=
  [⟨0x0, 1, 0x8, 0x000021050810130A, [⟨47, 40, .ro, false⟩, ⟨39, 32, .ro, false⟩, ⟨31, 24, .ro, false⟩, ⟨23, 16, .ro, false⟩, ⟨15, 8, .ro, false⟩, ⟨7, 0, .ro, false⟩]⟩,
   ⟨0x8, 1, 0x8, 0x0, [⟨63, 32, .ro, false⟩, ⟨23, 20, .ro, false⟩, ⟨7, 7, .ro, false⟩, ⟨6, 6, .ro, false⟩, ⟨5, 5, .ro, false⟩, ⟨3, 3, .ro, false⟩, ⟨2, 2, .ro, false⟩, ⟨1, 1, .ro, false⟩, ⟨0, 0, .ro, false⟩]⟩,
   ⟨0x10, 1, 0x8, 0x0, [⟨31, 0, .ro, false⟩]⟩,
   ⟨0x18, 1, 0x8, 0x0000000000000005, [⟨7, 7, .boot, false⟩, ⟨4, 4, .boot, false⟩, ⟨3, 2, .boot, false⟩, ⟨0, 0, .boot, false⟩]⟩,
   ⟨0x20, 1, 0x8, 0x0000008FFE000000, [⟨39, 12, .boot, false⟩]⟩,
   ⟨0x28, 1, 0x8, 0x0000008FFE010000, [⟨39, 16, .boot, false⟩]⟩,
   ⟨0x30, 1, 0x8, 0x0, [⟨39, 32, .boot, false⟩, ⟨31, 24, .boot, false⟩, ⟨23, 16, .boot, false⟩, ⟨15, 8, .boot, false⟩, ⟨7, 0, .boot, false⟩]⟩,
   ⟨0x38, 1, 0x8, 0x0, [⟨1, 1, .w1c, false⟩, ⟨0, 0, .rw, false⟩]⟩,
   ⟨0x40, 1, 0x8, 0x00000001000061A8, [⟨32, 32, .rw, false⟩, ⟨31, 0, .rw, false⟩]⟩,
   ⟨0x48, 1, 0x8, 0x0, [⟨63, 60, .rw, false⟩, ⟨39, 6, .rw, false⟩, ⟨0, 0, .rw, false⟩]⟩,
   ⟨0x50, 1, 0x8, 0x0, [⟨63, 60, .rw, false⟩, ⟨39, 6, .rw, false⟩, ⟨0, 0, .rw, false⟩]⟩,
   ⟨0x58, 1, 0x8, 0x0, [⟨51, 32, .ro, false⟩, ⟨19, 0, .ro, false⟩]⟩] ++
  [⟨0x60, 6, 0x8, 0x0, [⟨63, 0, .ro, false⟩]⟩,
   ⟨0x90, 4, 0x8, 0x0, [⟨63, 63, .ro, false⟩, ⟨47, 0, .ro, false⟩]⟩,
   ⟨0x100, 8, 0x10, 0x0000008FFE000007, [⟨40, 20, .boot, false⟩, ⟨2, 0, .boot, false⟩]⟩,
   ⟨0x108, 8, 0x10, 0x0000008FFFF00001, [⟨40, 20, .boot, false⟩, ⟨0, 0, .boot, false⟩]⟩]

/-- The rows of the PWR_ block (offset, count, stride, reset, fields). -/
def regRowsPwr : List RegRow :=
  [⟨0x0, 1, 0x8, 0x0000073A06400A20, [⟨47, 32, .ro, false⟩, ⟨31, 16, .ro, false⟩, ⟨15, 8, .ro, false⟩, ⟨7, 0, .ro, false⟩]⟩,
   ⟨0x8, 1, 0x8, 0x0, [⟨63, 48, .ro, false⟩, ⟨47, 32, .ro, false⟩, ⟨31, 24, .ro, false⟩, ⟨13, 8, .ro, false⟩, ⟨4, 4, .ro, false⟩, ⟨3, 3, .ro, false⟩, ⟨2, 2, .ro, false⟩, ⟨1, 1, .ro, false⟩, ⟨0, 0, .ro, false⟩]⟩,
   ⟨0x10, 1, 0x8, 0x0000047E00000640, [⟨47, 32, .rw, false⟩, ⟨15, 0, .rw, false⟩]⟩,
   ⟨0x18, 1, 0x8, 0x0000000000006905, [⟨15, 8, .rw, false⟩, ⟨7, 0, .rw, false⟩]⟩,
   ⟨0x20, 1, 0x8, 0x0, [⟨18, 8, .wo, false⟩, ⟨3, 0, .wo, false⟩]⟩,
   ⟨0x28, 1, 0x8, 0x0, [⟨18, 8, .ro, false⟩, ⟨7, 4, .ro, false⟩, ⟨3, 3, .w1c, false⟩, ⟨2, 2, .w1c, false⟩, ⟨1, 1, .w1c, false⟩, ⟨0, 0, .ro, false⟩]⟩,
   ⟨0x30, 1, 0x8, 0x0, [⟨15, 15, .ro, false⟩, ⟨9, 9, .ro, false⟩, ⟨8, 0, .ro, false⟩]⟩,
   ⟨0x38, 1, 0x8, 0x0, [⟨63, 32, .ro, false⟩, ⟨31, 16, .ro, false⟩, ⟨15, 0, .ro, false⟩]⟩,
   ⟨0x40, 1, 0x8, 0x0000000000000032, [⟨15, 0, .rw, false⟩]⟩,
   ⟨0x48, 1, 0x8, 0x0, [⟨11, 0, .ro, false⟩]⟩,
   ⟨0x100, 64, 0x8, 0x000000000000000A, [⟨7, 6, .ro, false⟩, ⟨3, 2, .ro, false⟩, ⟨1, 0, .rw, false⟩]⟩]

/-- The rows of the CLK_ block (offset, count, stride, reset, fields). -/
def regRowsClk : List RegRow :=
  [⟨0x0, 1, 0x8, 0x0000000000006412, [⟨15, 8, .ro, false⟩, ⟨7, 0, .ro, false⟩]⟩,
   ⟨0x8, 1, 0x8, 0x0, [⟨0, 0, .rw, false⟩]⟩,
   ⟨0x100, 18, 0x8, 0x0, [⟨63, 32, .ro, false⟩, ⟨31, 16, .ro, false⟩, ⟨1, 0, .ro, false⟩]⟩]

/-- The rows of the FLT_ block (offset, count, stride, reset, fields). -/
def regRowsFlt : List RegRow :=
  [⟨0x0, 1, 0x8, 0x000040100100200F, [⟨47, 40, .ro, false⟩, ⟨39, 32, .ro, false⟩, ⟨31, 16, .ro, false⟩, ⟨15, 8, .ro, false⟩, ⟨7, 0, .ro, false⟩]⟩,
   ⟨0x8, 1, 0x8, 0x0, [⟨63, 60, .rw, false⟩, ⟨39, 6, .rw, false⟩, ⟨0, 0, .rw, false⟩]⟩,
   ⟨0x10, 1, 0x8, 0x0, [⟨47, 32, .ro, false⟩, ⟨23, 16, .ro, false⟩, ⟨15, 8, .ro, false⟩, ⟨7, 4, .ro, false⟩, ⟨0, 0, .ro, false⟩]⟩,
   ⟨0x18, 1, 0x8, 0x0000000000000A02, [⟨15, 8, .rw, false⟩, ⟨2, 0, .rw, false⟩]⟩,
   ⟨0x20, 1, 0x8, 0x0, [⟨63, 32, .ro, false⟩, ⟨31, 16, .ro, false⟩, ⟨15, 0, .ro, false⟩]⟩,
   ⟨0x28, 1, 0x8, 0x0, [⟨47, 40, .rw, false⟩, ⟨39, 6, .rw, false⟩, ⟨0, 0, .rw, false⟩]⟩,
   ⟨0x30, 1, 0x8, 0x0, [⟨63, 0, .ro, false⟩]⟩,
   ⟨0x38, 1, 0x8, 0x0, [⟨63, 0, .ro, false⟩]⟩,
   ⟨0x40, 1, 0x8, 0x0, [⟨15, 0, .ro, false⟩]⟩,
   ⟨0x48, 4, 0x8, 0x0, [⟨63, 32, .ro, false⟩, ⟨31, 0, .ro, false⟩]⟩]

/-- The rows of the IMP_ block (offset, count, stride, reset, fields). -/
def regRowsImp : List RegRow :=
  [⟨0x0, 1, 0x8, 0x0003001010001FFE, [⟨55, 48, .ro, false⟩, ⟨47, 40, .ro, false⟩, ⟨39, 32, .ro, false⟩, ⟨31, 16, .ro, false⟩, ⟨15, 0, .ro, false⟩]⟩,
   ⟨0x8, 1, 0x8, 0x0, [⟨39, 0, .rw, false⟩]⟩,
   ⟨0x10, 1, 0x8, 0x0, [⟨31, 0, .rw, false⟩]⟩,
   ⟨0x18, 1, 0x8, 0x0, [⟨11, 8, .wo, false⟩, ⟨3, 0, .wo, false⟩]⟩,
   ⟨0x20, 1, 0x8, 0x0, [⟨63, 32, .ro, false⟩, ⟨31, 24, .ro, false⟩, ⟨23, 20, .ro, false⟩, ⟨19, 16, .ro, false⟩, ⟨3, 3, .w1c, false⟩, ⟨2, 2, .w1c, false⟩, ⟨1, 1, .ro, false⟩, ⟨0, 0, .ro, false⟩]⟩,
   ⟨0x28, 1, 0x8, 0x0, [⟨63, 0, .ro, false⟩]⟩,
   ⟨0x30, 1, 0x8, 0x0, [⟨3, 0, .rw, false⟩]⟩,
   ⟨0x38, 6, 0x8, 0x0, [⟨63, 0, .ro, false⟩]⟩,
   ⟨0x68, 1, 0x8, 0x0, [⟨0, 0, .boot, false⟩]⟩,
   ⟨0x70, 1, 0x8, 0x0, [⟨63, 32, .ro, false⟩, ⟨31, 0, .ro, false⟩]⟩]

/-- The rows of the CORE_ block (offset, count, stride, reset, fields). -/
def regRowsCore : List RegRow :=
  [⟨0x0, 1, 0x8, 0x00003F0402084040, [⟨47, 40, .ro, false⟩, ⟨39, 32, .ro, false⟩, ⟨31, 24, .ro, false⟩, ⟨23, 16, .ro, false⟩, ⟨15, 8, .ro, false⟩, ⟨7, 0, .ro, false⟩]⟩,
   ⟨0x8, 1, 0x8, 0x0000000000040000, [⟨31, 0, .ro, false⟩]⟩,
   ⟨0x10, 1, 0x8, 0x0, [⟨31, 31, .ro, false⟩, ⟨29, 24, .ro, false⟩, ⟨17, 16, .ro, false⟩, ⟨15, 12, .ro, false⟩, ⟨10, 0, .ro, false⟩]⟩,
   ⟨0x18, 1, 0x8, 0x0000000000000003, [⟨35, 32, .ro, false⟩, ⟨11, 8, .ro, false⟩, ⟨3, 3, .ro, false⟩, ⟨2, 2, .ro, false⟩, ⟨1, 0, .ro, false⟩]⟩,
   ⟨0x20, 1, 0x8, 0x0, [⟨0, 0, .rw, false⟩]⟩,
   ⟨0x28, 1, 0x8, 0x0, [⟨63, 48, .ro, false⟩, ⟨47, 32, .ro, false⟩, ⟨31, 24, .ro, false⟩, ⟨15, 8, .ro, false⟩, ⟨1, 1, .w1c, false⟩, ⟨0, 0, .w1c, false⟩]⟩,
   ⟨0x30, 1, 0x8, 0x0, [⟨63, 32, .ro, false⟩, ⟨31, 0, .ro, false⟩]⟩,
   ⟨0x38, 1, 0x8, 0x0, [⟨63, 32, .ro, false⟩, ⟨31, 0, .ro, false⟩]⟩,
   ⟨0x40, 1, 0x8, 0x0, [⟨63, 0, .ro, false⟩]⟩,
   ⟨0x48, 1, 0x8, 0x0, [⟨63, 32, .ro, false⟩, ⟨31, 0, .ro, false⟩]⟩,
   ⟨0x50, 1, 0x8, 0x0, [⟨63, 32, .ro, false⟩, ⟨31, 0, .ro, false⟩]⟩,
   ⟨0x58, 1, 0x8, 0x0, [⟨63, 48, .ro, false⟩, ⟨47, 40, .ro, false⟩, ⟨39, 8, .ro, false⟩, ⟨1, 1, .w1c, false⟩, ⟨0, 0, .w1c, false⟩]⟩] ++
  [⟨0x60, 1, 0x8, 0x0, [⟨63, 32, .ro, false⟩, ⟨31, 16, .ro, false⟩, ⟨15, 0, .ro, false⟩]⟩,
   ⟨0x68, 1, 0x8, 0x0, [⟨63, 32, .ro, false⟩, ⟨31, 0, .ro, false⟩]⟩,
   ⟨0x70, 1, 0x8, 0x0, [⟨63, 0, .ro, false⟩]⟩,
   ⟨0x800, 1, 0x8, 0x0, [⟨16, 16, .dbgRw, false⟩, ⟨15, 8, .dbgRw, false⟩, ⟨5, 0, .dbgRw, false⟩]⟩,
   ⟨0x808, 1, 0x8, 0x0, [⟨63, 32, .dbgRo, false⟩, ⟨31, 24, .dbgRo, false⟩, ⟨23, 0, .dbgRo, false⟩]⟩,
   ⟨0x810, 1, 0x8, 0x0, [⟨63, 32, .dbgRo, false⟩, ⟨31, 0, .dbgRo, false⟩]⟩,
   ⟨0x840, 1, 0x8, 0x0, [⟨63, 0, .ro, false⟩]⟩,
   ⟨0x848, 4, 0x8, 0x0, [⟨63, 32, .dbgRo, false⟩, ⟨7, 7, .ro, false⟩, ⟨5, 0, .ro, false⟩]⟩,
   ⟨0x868, 4, 0x8, 0x0, [⟨63, 0, .dbgRo, false⟩]⟩,
   ⟨0x888, 1, 0x8, 0x0, [⟨63, 48, .ro, false⟩, ⟨47, 32, .ro, false⟩, ⟨31, 16, .ro, false⟩, ⟨15, 0, .ro, false⟩]⟩]

/-- The rows of block slot `i` (Table 17.2). -/
def regRowsOf (slot : Nat) : List RegRow :=
  match slot with
  | 0 => regRowsHub
  | 2 => regRowsGal
  | 3 => regRowsPool
  | 4 => regRowsMemf
  | 5 => regRowsMems
  | 6 => regRowsXlt
  | 7 => regRowsCmp
  | 8 => regRowsReq
  | 9 => regRowsSmp
  | 10 => regRowsAtt
  | 11 => regRowsCxl
  | 12 => regRowsHl
  | 13 => regRowsSec
  | 14 => regRowsPwr
  | 15 => regRowsClk
  | 16 => regRowsFlt
  | 17 => regRowsImp
  | _ => []

end Sys2Proof.Machine
end

