-- ==== Sys2Proof/Machine/Tab.lean ====
section
/-! DEFINITION. Sparse tables: lists of (number, value) pairs in one canonical form.
Keys rise strictly and no entry holds the value that an unlisted key reads as, so equal tables are equal lists.
Memory, the register file and every numbered part of the module (cores, rings, slots, banks, links) are such tables. -/

namespace Sys2Proof.Machine

/-- A sparse table. `Tab Byte` is a list of host cells. -/
abbrev Tab (α : Type) := List (Nat × α)

/-- The value at key `k`, where an unlisted key reads as `d k`. -/
def tabGet {α : Type} (d : Nat → α) : Tab α → Nat → α
  | [], k => d k
  | (j, v) :: t, k => if j = k then v else tabGet d t k

/-- The table without its entries at key `k`. -/
def tabErase {α : Type} : Tab α → Nat → Tab α
  | [], _ => []
  | (j, v) :: t, k => if j = k then tabErase t k else (j, v) :: tabErase t k

/-- The table with `(k, v)` put before the first greater key. -/
def tabInsert {α : Type} : Tab α → Nat → α → Tab α
  | [], k, v => [(k, v)]
  | (j, w) :: t, k, v => if k < j then (k, v) :: (j, w) :: t else (j, w) :: tabInsert t k v

/-- The table with value `v` at key `k`; writing what an unlisted key reads as removes the entry. -/
def tabSet {α : Type} [DecidableEq α] (d : Nat → α) (t : Tab α) (k : Nat) (v : α) : Tab α :=
  if v = d k then tabErase t k else tabInsert (tabErase t k) k v

/-- The table with `f` applied to the value at key `k`. -/
def tabMod {α : Type} [DecidableEq α] (d : Nat → α) (t : Tab α) (k : Nat) (f : α → α) : Tab α :=
  tabSet d t k (f (tabGet d t k))

/-- The table without the keys from `b` to `b + n - 1`. -/
def tabClear {α : Type} : Tab α → Nat → Nat → Tab α
  | [], _, _ => []
  | (j, v) :: t, b, n => if b ≤ j ∧ j < b + n then tabClear t b n else (j, v) :: tabClear t b n

/-- Every key of the table is greater than `lo`, and keys rise strictly. -/
def tabRising {α : Type} : Nat → Tab α → Bool
  | _, [] => true
  | lo, (j, _) :: t => decide (lo ≤ j) && tabRising (j + 1) t

/-- The canonical form: keys rise strictly and no entry holds the value of an unlisted key. -/
def tabWf {α : Type} [DecidableEq α] (d : Nat → α) (t : Tab α) : Bool :=
  tabRising 0 t && t.all (fun p => decide (p.2 ≠ d p.1))

end Sys2Proof.Machine
end

