-- ==== Sys2Proof/Machine/State.lean ====
section
/-! DEFINITION. The whole state of the module as plain data, and the state after reset.
Everything that software sees in a register lives in `regs`; the other fields hold what the manual gives the
machine beside its registers: memory, queues, rings, operations in progress and outputs. -/

namespace Sys2Proof.Machine

/-- A fault of the model. No meaning of this model ends in a fault: an access that R9 calls a fault completes, and
the module records it. The type has one value so that it is closed and inhabited. Nobody raises it. -/
inductive Fault where
  /-- Raised by nobody. Safe. -/
  | unreachable
  deriving DecidableEq, Repr

/-- A refusal of the model. -/
inductive Refusal where
  /-- The command has no meaning yet. Raised by `exec` alone. Safe. -/
  | notModelled (mnemonic : String)
  deriving DecidableEq, Repr

/-! ## What leaves the module -/

/-- An answer of the SPDM responder (R346). -/
inductive SpdmReply where
  | measurements (index : Nat) (record : Bytes) (sig : Bytes)
  | colophon (bytes : Bytes)
  | certificate (bytes : Bytes)
  | challengeAuth (sig : Bytes)
  | keyExchangeRsp
  | finishRsp
  | keyUpdateAck
  /-- VERSION: the versions offered, as major × 16 + minor. -/
  | versions (vs : List Nat)
  /-- CAPABILITIES and ALGORITHMS: what R346 lists, in the encoding that SPDM fixes. -/
  | negotiated (bytes : Bytes)
  | digests (chain : BitVec 384)
  | endSessionAck
  /-- A request of this module to its partner for a colophon over a nonce (R351 step 3). -/
  | askColophon (nonce : BitVec 256)
  | error (code : Nat)
  /-- ERROR ResponseNotReady with its RDTExponent (R344). -/
  | notReady (rdtExponent : Nat)
  deriving DecidableEq, Repr

/-- Messages of CTRL frames (13_huras.md). -/
inductive CtrlMsg where
  | hello (m : HelloMsg)
  | elect (id fingerprint hops : Nat)
  | coord (id hops : Nat)
  | topo (id : Nat) (partners leaves : List (Nat × Nat))
  | routeTable (dst : Nat) (routes : List (Nat × Nat))
  | routeAck (id : Nat)
  | ready (modules : Nat)
  | mode (counter : Nat)
  | heartbeat (id : Nat)
  | nak (counter : Nat)
  | credit (vc0 vc1 vc2 : Nat)
  | spdm (r : SpdmReply)
  deriving DecidableEq, Repr

/-- What the module sends, in order. -/
inductive Output where
  /-- A write of host memory (R288). -/
  | hostWrite (addr : Nat) (data : Bytes)
  /-- A read of host memory issued (R284, R289). -/
  | hostRead (what : HostRead) (addr len : Nat)
  /-- An MSI-X message (R292). -/
  | msix (vector : Nat)
  /-- The data of a host read of a BAR or of the module's registers. -/
  | readData (data : Bytes)
  /-- A configuration completion; none is Configuration Request Retry Status (R282). -/
  | configReply (data : Option (BitVec 32))
  /-- A CXL.mem read response, with its poison bit (R290, R291). -/
  | memData (data : Bytes) (poison : Bool)
  /-- A back-invalidate snoop (R291). -/
  | biSnoop (line : Nat)
  /-- A mailbox reply: return code and payload (R294). -/
  | mailbox (code : Nat) (payload : Bytes)
  /-- A reply over MCTP (R385). -/
  | mctp (payload : Bytes)
  /-- An SPDM answer (R346). -/
  | spdm (port : SpdmPort) (r : SpdmReply)
  /-- A data frame on a link (R302). -/
  | frame (link : Nat) (f : Frame)
  /-- A CTRL message on a link. -/
  | ctrl (link : Nat) (m : CtrlMsg)
  deriving DecidableEq, Repr

/-! ## Impositions and contexts (02_imposition.md) -/

/-- One CORE_GROUPS entry with its wheel pattern (Tables 2.4 and 2.7). -/
structure Group where
  id : Nat
  first : Nat
  count : Nat
  scope : Nat
  pattern : Nat
  deriving DecidableEq, Repr

/-- One LANE_ROLES entry (Table 2.9). -/
structure LaneRole where
  core : Nat
  lane : Nat
  group : Nat
  seed : Nat
  deriving DecidableEq, Repr

/-- One POOL_OWNERS entry (Table 2.8). -/
structure PoolEntry where
  bank : Nat
  state : Nat
  owner : Nat
  deriving DecidableEq, Repr

/-- The COMPRESSION section (Table 2.10). -/
structure CompSettings where
  streams : Nat := 15
  houseOnly : Bool := false
  rawThreshold : Nat := 30
  segmentLog2 : Nat := 20
  deriving DecidableEq, Repr

/-- The SPARSITY section (Table 2.11). -/
structure SparseSettings where
  formats : Nat := 0
  preflightFrac : Nat := 0
  thrWzr : Nat := 0
  thrAzr : Nat := 0
  thrG28 : Nat := 0
  thrG416 : Nat := 0
  thrMatch : Nat := 0
  deriving DecidableEq, Repr

/-- The PERIOD section (Table 2.13). -/
structure PeriodSettings where
  periodUs : Nat
  prefillShare : Nat
  maxSequences : Nat
  maxChunk : Nat
  deriving DecidableEq, Repr

/-- The NUMERICS section (Table 2.14). -/
structure NumericsSettings where
  clipThreshold : Nat := 1
  reprintMax : Nat := 3
  ranges : List (Nat × Nat) := []
  deriving DecidableEq, Repr

/-- One LINKS entry (Table 2.15). -/
structure LinkEntry where
  link : Nat
  role : Nat
  protection : Nat
  deriving DecidableEq, Repr

/-- A window (Table 2.16). -/
structure Window where
  ctx : Nat
  id : Nat
  direction : Nat
  base : Nat
  size : Nat
  peers : List Nat
  deriving DecidableEq, Repr

/-- The settings of an imposition image that passed every check. -/
structure Image where
  groups : List Group := []
  clusterMap : Nat := 0
  refitOk : Bool := false
  patterns : List Nat := []
  pools : List PoolEntry := []
  lanes : List LaneRole := []
  comp : CompSettings := {}
  sparsity : SparseSettings := {}
  pageCode : Nat := 1
  period : Option PeriodSettings := none
  numerics : NumericsSettings := {}
  links : List LinkEntry := []
  windows : List Window := []
  confidential : Bool := false
  digest : BitVec 384 := 0
  deriving DecidableEq, Repr

/-- A context slot beside its state in IMP_CTX_STATE (R37, R40, R355, R364). `held` is an accepted replacement that
waits for its application. A key identity of 0 is an empty key slot. `generation` counts the loads of the slot (R352). -/
structure CtxSlot where
  image : Option Image := none
  held : Option Image := none
  keyPrivate : Nat := 0
  keyContent : Nat := 0
  packageId : Nat := 0
  packageDigest : Option (BitVec 384) := none
  generation : Nat := 0
  deriving DecidableEq, Repr

/-- What the loader is doing (R36, R38). -/
inductive LoaderPhase where
  | idle
  | copying
  | validating
  deriving DecidableEq, Repr

/-- The imposition loader: the operation it works on with its staged range, its buffer, and a load held PENDING (R36).
`unloadDone` says that the unload before a PENDING load has finished. -/
structure Loader where
  phase : LoaderPhase := .idle
  op : Nat := 0
  ctx : Nat := 0
  src : Nat := 0
  len : Nat := 0
  buf : Bytes := []
  pending : Option Nat := none
  copied : Bool := false
  unloadDone : Bool := false
  deriving DecidableEq, Repr

/-! ## Tile commands, cores and clusters (03_core.md, 05_accumulation.md, 09_compression.md) -/

/-- Who issued a tile command: a serving period (its batch group, none for a ONCE entry), or an ISSUE command. -/
inductive Origin where
  | period (group : Option Nat)
  | issue (ring index : Nat)
  deriving DecidableEq, Repr

/-- How far a held command has come. `faulted` carries the cause of CORE_FAULT, an address and whether it is virtual, and
the detail and offset that CORE_SPARSE_LOG takes. `needsPage` waits for the page service (R265, R274), `sending` for the
answers of its remote writes (R313). -/
inductive RunState where
  | waiting
  | done
  | faulted (cause addr : Nat) (virtual : Bool) (detail off : Nat)
  | triggered
  | needsPage
  | sending
  deriving DecidableEq, Repr

/-- Bytes that a command has still to send to a remote window: aperture address, bytes, whether they are a coded
segment, and the access that they belong to as address and length (R313, R320). -/
structure OutPiece where
  addr : Nat
  data : Bytes
  coded : Bool
  whole : Nat × Nat
  deriving DecidableEq, Repr

/-- A tile command with what the device keeps beside its 64 bytes. `id` is its place in the order of issue. `pass` is
the activation format of the running reprint pass, `reprints` the passes run (R69, R124). `pins` are the KV pages an
ATTN command has pinned (R266). `parent` marks a sub-tile (R148), whose number is that of the command it was expanded
from; `list` is the list block that the hub read, `entry` the first list entry of a sub-tile, `listed` says that the hub
has read the block. `idle` and `misses` are the preflight counts of R150. `blocks` keeps lines and decoded blocks that
came from elsewhere. `wrote` lists the physical ranges of output written, `unsent` what goes to remote windows; `inReturn`
marks a command in a return entry (R70), `heldFor` is the line under repair that a held command waits for (R398), `lost` lists the lines
whose back-invalidate timed out for the command (R291), `region` is its output region once it has begun to run (R78). A pin is the
virtual start of a KV page and its physical address. -/
structure QCmd where
  id : Nat
  ctx : Nat
  bytes : Bytes
  origin : Origin
  parent : Bool := false
  list : Bytes := []
  entry : Nat := 0
  listed : Bool := false
  run : RunState := .waiting
  pass : Option Nat := none
  reprints : Nat := 0
  pins : List (Nat × Nat) := []
  blocks : Tab Bytes := []
  wrote : List (Nat × Nat) := []
  idle : Nat := 0
  misses : Nat := 0
  inReturn : Bool := false
  heldFor : Nat := 0
  unsent : List OutPiece := []
  lost : List Nat := []
  region : List (Nat × Nat) := []
  deriving DecidableEq, Repr

/-- One accumulator as CORE_ACC_VIEW shows it (05_accumulation.md). -/
structure AccEntry where
  blockSum : BitVec 32 := 0
  clip : Nat := 0
  block : Nat := 0
  sum : BitVec 32 := 0
  comp : BitVec 32 := 0
  deriving DecidableEq, Repr

/-- What a set of weight registers holds: a decoded 64 × 64 tile, or a table-mode code tile (Table 3.1, R129). -/
inductive WeightSet where
  | tile (w : List Int)
  | codes (b : Bytes)
  deriving DecidableEq, Repr

/-- What a core holds beside its galley and its registers (Table 3.1); its micro-TLB is among the translation caches. `acc` is keyed
by accumulator number, `matchUnit` holds the loaded indices; `weights` and `tables` are the two sets of weight registers and of built
tables, the one in use first; `quantClip` the QUANT clip counters by column (R94), `wheel` the wheel counter as the core's last
command left it (R156, log entry 51). `mustClear` marks a core that is cleared at its next wake (R375). -/
structure CoreState where
  queue : List QCmd := []
  acc : Tab AccEntry := []
  matchUnit : List Nat := []
  weights : List WeightSet := []
  tables : List (List Int) := []
  quantClip : List Nat := []
  wheel : BitVec 4 := 0
  mustClear : Bool := false
  deriving DecidableEq, Repr

/-- A block that waits at an expander, for one command of one core (R223, R224). `gone` marks the one being decoded for a command
that has been cancelled. -/
structure ExpReq where
  core : Nat
  cmd : Nat
  va : Nat
  ctx : Nat
  tag : Nat
  gone : Bool := false
  deriving DecidableEq, Repr

/-- A decoded block in an expander buffer. -/
structure ExpBuf where
  ctx : Nat
  va : Nat
  data : Bytes
  deriving DecidableEq, Repr

/-- A cluster: the context it last ran, whether a context took it at the last boundary, its queue (R70) and its
expander (R223): requests, decoded blocks by last use, and the (context, address) of blocks evicted. -/
structure ClusterState where
  ctx : Option Nat := none
  taken : Bool := false
  queue : List QCmd := []
  expReqs : List ExpReq := []
  expBufs : List ExpBuf := []
  expOld : List (Nat × Nat) := []
  pendingOn : Bool := false
  deriving DecidableEq, Repr

/-- The hub's command queue: held commands in order of issue, the next number, and the commands of a group that wait
for a weight repair (R398). -/
structure Hub where
  queue : List QCmd := []
  nextId : Nat := 1
  repairHeld : List QCmd := []
  deriving DecidableEq, Repr

/-! ## Requests and serving periods (10_serving.md) -/

/-- A PROMOTE of a request: not yet posted, in flight, ended OK or MISMATCH, or ended otherwise (R239). -/
inductive PromoteState where
  | idle
  | inFlight
  | ended
  | failed
  deriving DecidableEq, Repr

/-- A request slot that is not FREE: its descriptor (Table 10.1) and the engine's own state. `params` is the parameter
block, bytes 0x20 to 0x9F. `state` is the code of Table 10.2. `deferred` lists the (ring, position) of commands whose
effect waits for the period end. `pendingRows` lists the pending rows of KV entries by position, virtual address and length (R270). -/
structure Request where
  state : Nat := 0
  ctx : Nat := 0
  cancelPending : Bool := false
  endStatus : Nat := 0
  position : Nat := 0
  generated : Nat := 0
  promptDone : Nat := 0
  produced : Nat := 0
  head : Nat := 0
  lastToken : Nat := 0
  stamp : Nat := 0
  params : Bytes := []
  treeHa : Nat := 0
  userTag : Nat := 0
  newParams : Option Bytes := none
  newTree : Option Nat := none
  faultDrops : Nat := 0
  promotes : List PromoteState := []
  deferred : List (Nat × Nat) := []
  pendingRows : List (Nat × Nat × Nat) := []
  deriving DecidableEq, Repr

/-- A column of a period's batch (Table 10.9). -/
structure Column where
  slot : Nat
  position : Nat
  token : Nat
  parent : Option Nat
  sample : Bool
  tree : Bool
  prefill : Bool
  deriving DecidableEq, Repr

/-- What a SAMPLE entry gives (Table 10.8), with its group stride and the two patch bits (Table 10.7). -/
structure SampleInfo where
  candCount : Nat
  logitsFmt : Nat
  candStride : Nat
  candVa : Nat
  logitsVa : Nat
  logitsStride : Nat
  groupStride : Nat
  patchCand : Bool
  patchLogits : Bool
  deriving DecidableEq, Repr

/-- What the sampling job of a column found: the SAMPLE entry it read by, the column within its step, and the token with its
log-probability, none for NO_TOKEN (R248). -/
structure SampleResult where
  info : SampleInfo
  node : Nat
  pick : Option (Nat × BitVec 32)
  deriving DecidableEq, Repr

/-- An admitted step: a decode step, a tree step or a prefill chunk, with its first column. `nodes` holds the (token,
parent) pairs of a tree, root first (R251), `results` what the sampling jobs of its columns found. -/
structure Step where
  slot : Nat
  prefill : Bool
  first : Nat
  count : Nat
  nodes : List (Nat × Nat) := []
  treeRejected : Bool := false
  committed : Bool := false
  dropped : Bool := false
  results : List SampleResult := []
  deriving DecidableEq, Repr

/-- A group that waits to be handed to the sampling units: program index, group, the number that later commands have at
least, and the entry. -/
structure SampleDue where
  idx : Nat
  group : Nat
  before : Nat
  info : SampleInfo
  deriving DecidableEq, Repr

/-- The current period of a context (R234, R236, R240). `serial` counts the periods started since module cold reset (R146). -/
structure Period where
  running : Bool := false
  columns : List (Option Column) := []
  steps : List Step := []
  decodeGroups : Nat := 0
  prefillGroups : Nat := 0
  progIdx : Nat := 0
  due : List SampleDue := []
  droppedGroups : List Nat := []
  dropPending : Bool := false
  budget : Nat := 0
  progEntries : Nat := 0
  vocab : Nat := 0
  serial : Nat := 0
  deriving DecidableEq, Repr

/-- A sampling job: one sampled column of a step of a period, by its number in the batch, and the SAMPLE entry it reads by (R247). -/
structure SampleJob where
  ctx : Nat
  tag : Nat
  step : Nat
  column : Nat
  info : SampleInfo
  deriving DecidableEq, Repr

/-- The job queue and the job of each unit. -/
structure Sampler where
  queue : List SampleJob := []
  unit0 : Option SampleJob := none
  unit1 : Option SampleJob := none
  deriving DecidableEq, Repr

/-- A command ring and its completion ring (R232): counts modulo 2^32, the ring command read and not yet taken, and the
NOP commands that wait as (position, slot field, user tag). -/
structure Ring where
  taken : Nat := 0
  completed : Nat := 0
  tail : Nat := 0
  head : Nat := 0
  stopped : Bool := false
  tailFailed : Bool := false
  headFailed : Bool := false
  entry : Option Bytes := none
  waiting : List (Nat × Nat × Nat) := []
  deriving DecidableEq, Repr

/-- An ISSUE command whose tile commands run (R233): ring, ring position, slot field, user tag, context, tile commands
not ended, tile commands that faulted. -/
structure Issue where
  ring : Nat
  index : Nat
  slot : Nat
  userTag : Nat
  ctx : Nat
  left : Nat
  faulted : Nat := 0
  status : Nat := 0
  deriving DecidableEq, Repr

/-! ## Page service (11_attention.md) -/

/-- A page operation in hand (R272): an allocation or a copy-on-write for an ATTN command, with an address in the page.
`waited` says that it has met an empty free ring (R265). -/
structure PageReq where
  cow : Bool
  ctx : Nat
  core : Nat
  cmd : Nat
  va : Nat
  waited : Bool := false
  deriving DecidableEq, Repr

/-- A compaction (R271): the slot, the first position written, the accepted scratch rows in depth order, whether it has met an
empty free ring, and whether every row has been copied. -/
structure Compaction where
  ctx : Nat
  slot : Nat
  start : Nat
  rows : List Nat
  waited : Bool := false
  copied : Bool := false
  deriving DecidableEq, Repr

/-- The page service: waiting requests, compactions in flight, entries that wait for the release ring as (context, page,
reason) (R260), and the counts of both rings of each context. -/
structure PageService where
  reqs : List PageReq := []
  compactions : List Compaction := []
  freeTaken : Tab Nat := []
  relProduced : Tab Nat := []
  held : List (Nat × Nat × Nat) := []
  deriving DecidableEq, Repr

/-! ## Device rings, migration, packers, security operations -/

/-- A descriptor ring and its completion ring in the fast tier (R192): counts of the device and counts last read. -/
structure DevRing where
  taken : Nat := 0
  produced : Nat := 0
  tail : Nat := 0
  head : Nat := 0
  deriving DecidableEq, Repr

/-- States of Table 8.6 between QUEUED and DONE. -/
inductive MigState where
  | check
  | copy
  | final
  deriving DecidableEq, Repr

/-- A migration in flight (Tables 8.3 and 8.6). `fromEngine` marks a promotion of the request engine,
the `place`-th of its list. `held` lists the writes to the source unit that FINAL holds, as (address, key, bytes) (R195). -/
structure Migration where
  id : Nat
  kind : Nat
  ctx : Nat
  tag : Nat
  src : Nat := 0
  dst : Nat := 0
  va : Nat := 0
  leaf : Nat := 0
  leafAddr : Nat := 0
  fromEngine : Bool := false
  state : MigState := .check
  failed : Option Nat := none
  place : Nat := 0
  poison : Bool := false
  held : List (Nat × Nat × Bytes) := []
  deriving DecidableEq, Repr

/-- The migration engine: migrations in flight, the internal queue of the request engine's promotions
(context, slot, va, place in the list), the two pools, and retirements held (R207). `turn` serves the queues alternately. -/
structure MigEngine where
  inflight : List Migration := []
  internal : List (Nat × Nat × Nat × Nat) := []
  poolFast : List Nat := []
  poolSlow : List Nat := []
  nextId : Nat := 1
  records : List (Bytes × Nat) := []
  deriving DecidableEq, Repr

/-- A packer job in flight (R222). -/
structure PackJob where
  id : Nat
  desc : Bytes
  record : Bytes := []
  deriving DecidableEq, Repr

/-- An IMPORT in flight (R364). -/
structure ImportOp where
  desc : Bytes
  ctx : Nat
  header : Bytes
  key : Nat
  deriving DecidableEq, Repr

/-! ## Translation, memory controllers -/

/-- Where a translation entry is cached (Table 8.9): leaves in the micro-TLB of a core and the TLB of a cluster, other entries in
the walk cache of a die. -/
inductive CachePlace where
  | micro (core : Nat)
  | cluster (k : Nat)
  | walker (die : Nat)
  deriving DecidableEq, Repr

/-- A cached translation entry: context, address of the entry, its value, the range of virtual addresses it covers. -/
structure CacheEntry where
  ctx : Nat
  entryAddr : Nat
  value : Nat
  va : Nat
  sizeLog2 : Nat
  deriving DecidableEq, Repr

/-- A logged translation fault (XLT_FAULT_LOG). -/
structure XltFault where
  va : Nat
  info : Nat
  deriving DecidableEq, Repr

/-- Address translation beside its registers: cached entries, the invalidation and the retirement in progress, the log. -/
structure Xlt where
  cache : List (CachePlace × CacheEntry) := []
  invalidate : Option (Nat × Nat × Nat) := none
  retire : Option Nat := none
  retired : List Nat := []
  log : List XltFault := []
  deriving DecidableEq, Repr

/-- A cached region or directory entry (R213): die (4 for the hub), context, address, bytes. -/
structure CmpEntry where
  die : Nat
  ctx : Nat
  addr : Nat
  data : Bytes
  deriving DecidableEq, Repr

/-- A logged memory error: the two registers of ERR_LOG. -/
structure MemErr where
  log0 : Nat
  log1 : Nat
  deriving DecidableEq, Repr

/-- The state of a protected unit of memory, a 64-byte line of a tier or an 8-byte word of a pool bank or galley: sound, an error
that the next read corrects or finds uncorrectable, poisoned, or poisoned with its log entry written (R162, R183, R184). -/
inductive Mark where
  | sound
  | correctable
  | uncorrectable
  | poisoned
  | logged
  deriving DecidableEq, Repr

/-- One tier's error log, its correctable counts of the running scrub pass by page and stack, and those whose entry of this pass
has been written (R183, R185). -/
structure TierState where
  log : List MemErr := []
  ceCount : Tab Nat := []
  ceLogged : List Nat := []
  deriving DecidableEq, Repr

/-- A pool bank beside its registers: the next owner of a handover, the state that a move in progress leads to, whether a release
is in progress, and the claim that waits for its end as context and POOL_OWNERS entry (R168, R173, R174). -/
structure BankState where
  handover : Option Nat := none
  goal : Option Nat := none
  releasing : Bool := false
  claim : Option (Nat × PoolEntry) := none
  deriving DecidableEq, Repr

/-- A march run (R175, R176): the dies, whether it preserves, whether it is the start-up run, the turn in progress and the tick at which
that began. The turns of a destructive run are the eight groups, those of a preserving run the test of the shadow store and then
the 32 pairs. -/
structure March where
  dies : Nat
  preserve : Bool
  startUp : Bool := false
  turn : Nat := 0
  since : Nat := 0
  deriving DecidableEq, Repr

/-! ## Host port and mailbox (12_host.md) -/

/-- An access held for a back-invalidate of a line (R291): a host read that waits for a filter entry, by its offset, a
tile command, by its core and number, or another agent of the device. -/
structure HeldAccess where
  line : Nat
  host : Option Nat := none
  core : Nat := 0
  cmd : Nat := 0
  agent : Bool := false
  deriving DecidableEq, Repr

/-- An entry of the MSI-X table: message address and data, and the mask bit of its Vector Control. -/
structure MsixEntry where
  addr : Nat := 0
  data : Nat := 0
  masked : Bool := true
  deriving DecidableEq, Repr

/-- A MOVE in the background slot (R297). -/
structure MoveOp where
  src : Nat
  dst : Nat
  length : Nat
  flags : Nat
  deriving DecidableEq, Repr

/-- Coalescing of one ring's vector: the tick of the end of the interval, and whether an event is held (R292). -/
structure Coalesce where
  until_ : Nat := 0
  held : Bool := false
  deriving DecidableEq, Repr

/-- The host port beside its registers: PERST# asserted, bring-up (R282), rate and width of the last link, host reads in
flight, timed out and to be made once more (R284, R405), PAUSED requests in the order in which they paused (R285), the HDM
decoder (R290), the snoop filter with what it holds up and the lines whose back-invalidate timed out (R291), the lines whose device access ends for want of an answer, coalescing and
the MSI-X configuration with its pending bits (R292), the base addresses of the BARs (R280), the Completion Timeout Value of Device Control
2 (R289), the AER status registers (R283), and the state of the CXL.io IDE stream (R298). -/
structure Port where
  perst : Bool := true
  configReady : Bool := false
  mailboxReady : Bool := false
  lastRate : Nat := 0
  lastWidth : Nat := 0
  sris : Bool := false
  outstanding : List HostRead := []
  timedOut : List HostRead := []
  again : List HostRead := []
  paused : List Nat := []
  hdmCommitted : Bool := false
  hdmError : Bool := false
  hdmWays : Nat := 0
  hdmGranularity : Nat := 0
  memEnable : Bool := false
  filter : List Nat := []
  heldAccesses : List HeldAccess := []
  snoopLate : List Nat := []
  coalesce : Tab Coalesce := []
  msixTable : Tab MsixEntry := []
  msixOn : Bool := false
  msixMask : Bool := false
  msixPending : List Nat := []
  lostLines : List Nat := []
  bar0 : Nat := 0
  bar2 : Nat := 0
  bar4 : Nat := 0
  timeoutCode : BitVec 4 := 0
  aerUncorrectable : BitVec 32 := 0
  aerCorrectable : BitVec 32 := 0
  ioInsecure : Bool := false
  deriving DecidableEq, Repr

/-- A CXL event record: its log, its handle and its bytes (R294). -/
structure EventRec where
  log : Nat
  handle : Nat
  data : Bytes
  deriving DecidableEq, Repr

/-- The mailbox (R294). `bgDone` holds the opcode and return code of the last background command. -/
structure Mailbox where
  move : Option MoveOp := none
  bgDone : Option (Nat × Nat) := none
  events : List EventRec := []
  policy : BitVec 32 := 0
  timeBase : Nat := 0
  timeTick : Nat := 0
  timeSet : Bool := false
  deriving DecidableEq, Repr

/-! ## Huras links and fabric (13_huras.md) -/

/-- An item of a replay buffer: its counter and what was sent. -/
inductive Sent where
  | data (f : Frame)
  | ctrl (m : CtrlMsg)
  deriving DecidableEq, Repr

/-- A coded transfer being gathered (R320): the first frame's header fields, the payloads so far, their bytes, and the bytes
that its segment header names (0 when that header is wrong). A refused transfer's later frames are passed over. -/
structure CodedGather where
  tag : Nat
  header : BitVec 128
  data : Bytes
  got : Nat := 0
  need : Nat := 0
  refused : Bool := false
  deriving DecidableEq, Repr

/-- A request that passed every check of Table 13.7 and waits for a pool bank (R171, R318): its header, the first address,
the number of lines, and the raw lines of a WRITE. -/
structure HeldFrame where
  header : BitVec 128
  addr : Nat
  count : Nat
  lines : Bytes
  deriving DecidableEq, Repr

/-- A link beside its registers: counters, replay buffer, credits, what the hello gave, the session, the 1 ms counts.
`sentOn` counts frames sent on each channel and `gotBack` the credits returned for them; `owed` counts the credits this end
has returned, `owedSaid` what the last CREDIT frame said, modulo 65,536. `waiting` holds what waits for credit or replay
room, `resending` what is sent again with its counter (R306), `held` the requests that wait for a pool bank. `session` names the
session secret of the seal keys, `spdmOpen` says that the SPDM session of the attestation is open. `peerTrust` says that the
partner's colophon attests the rack-trust enable (R322, R351). -/
structure LinkState where
  txCounter : Nat := 0
  rxCounter : Nat := 0
  discarding : Bool := false
  replay : List (Nat × Sent) := []
  resendOf : Nat := 0
  resends : Nat := 0
  resending : List (Nat × Sent) := []
  sentOn : List Nat := [0, 0, 0]
  gotBack : List Nat := [0, 0, 0]
  owed : List Nat := [0, 0, 0]
  owedSaid : List Nat := [0, 0, 0]
  waiting : List Sent := []
  held : List HeldFrame := []
  peerFingerprint : BitVec 384 := 0
  peerLink : Nat := 0
  peerFlags : Nat := 0
  lateHello : Bool := false
  keyExchanged : Bool := false
  spdmOpen : Bool := false
  peerTrust : Bool := false
  session : Option Nat := none
  epoch : Nat := 0
  modeAt : Option (Nat × Nat) := none
  refusals : Nat := 0
  authFails : Nat := 0
  countMs : Nat := 0
  gather : Option CodedGather := none
  shutting : Bool := false
  deriving DecidableEq, Repr

/-- A module's TOPO as the coordinator holds it (R327), with its partners on links of Huras 2.1 (R310). -/
structure Topo where
  id : Nat
  partners : List (Nat × Nat)
  leaves : List (Nat × Nat) := []
  deriving DecidableEq, Repr

/-- A route: departure link and hops. -/
structure Route where
  link : Nat
  hops : Nat
  deriving DecidableEq, Repr

/-- Fabric formation (R325 to R329). `keptCoord` is the first COORD before stage 6 with its link and hop count, `coordHops`
the hop count of the COORD that this module learned the coordinator by. -/
structure Fabric where
  best : Nat := 0
  bestFp : BitVec 384 := 0
  bestTick : Nat := 0
  electing : Bool := false
  keptElect : Option (Nat × BitVec 384) := none
  keptCoord : Option (Nat × Nat × Nat) := none
  coordKnown : Bool := false
  coordLink : Option Nat := none
  coordHops : Nat := 0
  heard : List (Nat × BitVec 384) := []
  excluded : List Nat := []
  topos : List Topo := []
  computed : Bool := false
  acks : List Nat := []
  reported : List Nat := []
  late : List Topo := []
  routes : Tab (Option Route) := []
  heartbeatTick : Nat := 0
  deriving DecidableEq, Repr

/-- A request this module sent into the fabric (R313): its tag, departure link, the core and number of its command, the
aperture address and the lines of the access. -/
structure OutReq where
  tag : Nat
  link : Nat
  core : Nat
  cmd : Nat
  write : Bool
  addr : Nat
  count : Nat
  deriving DecidableEq, Repr

/-- Outbound requests: in flight, timed out (R405), cached table entries (R314), and the next tag. -/
structure Outbound where
  reqs : List OutReq := []
  late : List (Nat × Nat) := []
  cache : Tab Bytes := []
  invalidating : Option Nat := none
  nextTag : Nat := 0
  deriving DecidableEq, Repr

/-! ## Security (14_security.md) -/

/-- One firmware component: the running image, and the staged image with whether its activation has been asked
(R336, R338). `stored` is the image that a boot finds as the active copy, `fallback` the previous copy; empty bytes stand for
the image written at manufacture. `dead` marks a component of which no copy could be loaded. -/
structure FwComponent where
  running : Bytes := []
  stored : Bytes := []
  fallback : Bytes := []
  staged : Option Bytes := none
  activating : Bool := false
  transfer : Bytes := []
  dead : Bool := false
  deriving DecidableEq, Repr

/-- The security domain beside its registers: secure NVM (next top leaf, committed subtree leaf, boots, anti-rollback
counters), the next subtree leaf, firmware, the owner record in force, sessions, colophon requests that wait for a renewal, whether the UDS is closed to every reader, the CDI of the firmware layer
(R332, R340), operations in flight. -/
structure Security where
  nvmTop : Nat := 0
  nvmLeaf : Nat := 0
  leaf : Nat := 0
  bootCount : Nat := 0
  arb : List Nat := [0, 0, 0, 0, 0]
  firmware : Tab FwComponent := []
  ownerInForce : Bytes := []
  sessions : List SpdmPort := []
  exchanging : List SpdmPort := []
  colophonWait : List (SpdmPort × BitVec 256) := []
  held : Bool := false
  restarting : Bool := false
  booted : Bool := false
  udsClosed : Bool := false
  cdi : BitVec 384 := 0
  imports : List ImportOp := []
  nextKey : Nat := 1
  deriving DecidableEq, Repr

/-! ## Power (15_power_module.md) -/

/-- Power control beside its registers: the input is in range, rail steps in regulation (Table 15.2), the step that failed,
the PWR_EN pin, THROT_N low, a thermal trip, the run above tdp_w and the quiet time after it in samples of 10 µs, the
samples of the last second (newest first), stacks at 85 °C, the tick of the last vector, hub ready, and whether the start
in progress is a module cold reset. -/
structure Power where
  input : Bool := true
  rails : Nat := 7
  railsGood : Nat := 21
  railFail : Option Nat := none
  pwrEn : Bool := true
  throtLow : Bool := false
  tripped : Bool := false
  overSamples : Nat := 0
  quietSamples : Nat := 4000
  samples : List Nat := []
  hotStacks : List Nat := []
  lastEvent : Option Nat := none
  hubReady : Bool := false
  selfRefresh : Bool := false
  coldReset : Bool := true
  deriving DecidableEq, Repr

/-! ## Faults (16_faults.md) -/

/-- A fault record (Table 16.1) before it is written; `time` is in ticks since the last hub ready. -/
structure FaultRec where
  seq : Nat
  cls : Nat
  action : Nat
  context : Nat
  lostBefore : Bool
  unit : Nat
  detail : Nat
  ref : Nat
  addr : Nat
  virtual : Bool
  time : Nat
  deriving DecidableEq, Repr

/-- A recovery (R396): a spare takeover of a core with its cause, or the removal of a cluster with its cause. -/
inductive Recovery where
  | takeover (core detail phys : Nat)
  | removal (cluster detail : Nat)
  deriving DecidableEq, Repr

/-- States of a weight repair (Tables 16.9 and 16.10). -/
inductive RepairState where
  | detected
  | refetch
  | verify
  | stuck
  deriving DecidableEq, Repr

/-- A weight repair: the line number, the copy of its gold entry and its index, the golden line once it has been read, attempts
made. `detected` is REFETCH before its records are written. -/
structure Repair where
  line : Nat
  entry : Bytes
  index : Nat
  golden : Bytes := []
  state : RepairState := .detected
  attempts : Nat := 0
  deriving DecidableEq, Repr

/-- Fault handling beside its registers. `failed` lists failed physical slots as cluster × 33 + slot, `noCore` logical numbers
that no slot serves. `dieFault`, `clusterFault` and `mismatch` hold the tick of the last such fault plus 1, 0 for none. -/
structure Faults where
  queue : List FaultRec := []
  seq : Nat := 0
  lostPending : Bool := false
  running : Option Recovery := none
  takeoverAwake : Bool := false
  waiting : List Recovery := []
  failed : List Nat := []
  noCore : List Nat := []
  repairs : List Repair := []
  repairWait : List Repair := []
  copyOut : List Nat := []
  dieFault : Tab Nat := []
  clusterFault : Tab Nat := []
  mismatch : Nat := 0
  readyTick : Nat := 0
  basicTick : Option Nat := none
  deriving DecidableEq, Repr

/-! ## The state -/

/-- The state of the module. `pending` is the queue of commands that wait, first in first out. `outbox` is what the
module has sent, oldest first. `ticks` counts keep-warm ticks of 10 ns (R405). `free` numbers the open values that events
have drawn; it is the model's own field. `regs` holds every register that differs from its reset value. `mem` holds the
bytes of the two tiers, the pool banks and the galleys; an unlisted byte reads zero (R190, R380). `rotation` is the rotation start
(R353), `sliceLate` marks a slice boundary that waits for the end of a period (R353). `march` is the march run
in progress (R175, R176). `undef` lists ranges of
bytes that hold undefined data. `marks` holds the units of memory that are not sound, by address. `lineKey` holds the key identity under which each 64-byte line was last written. -/
structure State where
  pending : List Instr := []
  outbox : List Output := []
  ticks : Nat := 0
  free : Nat := 0
  mem : List Host.Cell := []
  undef : List (Nat × Nat × Nat) := []
  marks : Tab Mark := []
  lineKey : Tab Nat := []
  regs : Tab Word := []
  loader : Loader := {}
  ctxs : Tab CtxSlot := []
  windows : List Window := []
  hub : Hub := {}
  clusters : Tab ClusterState := []
  cores : Tab CoreState := []
  srCtr : Tab Nat := []
  rings : Tab Ring := []
  issues : List Issue := []
  reqs : Tab Request := []
  stampNext : Nat := 1
  periods : Tab Period := []
  sampler : Sampler := {}
  pages : PageService := {}
  devRings : Tab DevRing := []
  mig : MigEngine := {}
  packs : List PackJob := []
  packNext : Nat := 1
  xlt : Xlt := {}
  tiers : Tab TierState := []
  banks : Tab BankState := []
  march : Option March := none
  cmpErrs : List (Nat × Nat) := []
  attErrs : List (Nat × Nat) := []
  hlErrs : List (Nat × Nat) := []
  cmpInvalidating : Option Nat := none
  cmpCache : List CmpEntry := []
  port : Port := {}
  mailbox : Mailbox := {}
  links : Tab LinkState := []
  fabric : Fabric := {}
  outbound : Outbound := {}
  sec : Security := {}
  rotation : Nat := 15
  sliceLate : Bool := false
  power : Power := {}
  flt : Faults := {}
  deriving DecidableEq, Repr

/-- The module right after reset: the instant of power-good of a module cold reset, with every register at the value
the manual gives, memory empty and nothing in progress (Tables 15.7 and 17.4 to 17.10; log entry 1). -/
def State.reset : State := {}

end Sys2Proof.Machine
end

