-- ==== Sys2Proof/Machine/Ops.lean ====
section
/-! DEFINITION. The named operations that every meaning is built from: reading registers and memory, the closed list of
primitive updates (`Upd`), applying them, and the ways to put actions together.
Every meaning of a command is a list of updates computed from the state; `exec` answers the state after them. -/

namespace Sys2Proof.Machine

open Sys2Proof

/-! ## The register file -/

/-- The row and the member of a family at offset `off` of a block, if the offset is assigned (R411). -/
def regFind : List RegRow → Nat → Option (RegRow × Nat)
  | [], _ => none
  | r :: t, off =>
    if r.off ≤ off ∧ (off - r.off) % r.stride = 0 ∧ (off - r.off) / r.stride < r.count
    then some (r, (off - r.off) / r.stride) else regFind t off

/-- Rows of the per-core block whose family lies inside the block (Table 17.10). -/
def coreFamily (off : Nat) : Nat × Nat :=
  if off == 0x848 || off == 0x868 then (4, 8) else (1, 8)

/-- The row of a per-core offset. -/
def regFindCore : List RegRow → Nat → Option (RegRow × Nat)
  | [], _ => none
  | r :: t, off =>
    let (count, stride) := coreFamily r.off
    if r.off ≤ off ∧ (off - r.off) % stride = 0 ∧ (off - r.off) / stride < count
    then some (r, (off - r.off) / stride) else regFindCore t off

/-- The row of a register address (R410, R411); none for an unassigned address. -/
def regRow (addr : Nat) : Option (RegRow × Nat) :=
  if addr < Config.coreRegBase then
    if addr < Config.regBase then none
    else regFind (regRowsOf ((addr - Config.regBase) / 0x1_0000)) ((addr - Config.regBase) % 0x1_0000)
  else if addr < Config.coreRegBase + 0x80_0000 then
    regFindCore regRowsCore ((addr - Config.coreRegBase) % 0x1000)
  else none

/-- CORE_ID of logical core `n` while its own slot serves it (R10). -/
def coreIdReset (n : Nat) : Nat :=
  n % 2048 + ((n / 32) % 16) * 2 ^ 12 + (n / 512) * 2 ^ 16 + (n % 32) * 2 ^ 24

/-- CLK_DOM of domain `d` at power-good: its frequency in units of 0.5 MHz and its state (R387). -/
def clkDomReset (d : Nat) : Nat :=
  let half := if d < 4 then 3800 else if d < 8 then 2400 else
    match d with
    | 8 => 3200 | 9 => 2400 | 10 => 3125 | 11 => 2000 | 12 => 3500 | 13 => 2000 | 14 => 2800
    | 15 => 1600 | 16 => 1200 | _ => 200
  half * 2 ^ 16 + (if 15 ≤ d then 2 else 0)

/-- The reset value of the register at an address (Tables 17.4 to 17.10). PWR_STATUS resets to pg = 1 and ratio = 32;
the fields that the manual calls measured or pins are views (`State.readRegister`). -/
def regReset (addr : Nat) : Word :=
  if Config.coreRegBase ≤ addr ∧ (addr - Config.coreRegBase) % 0x1000 = 0x10 then
    BitVec.ofNat 64 (coreIdReset ((addr - Config.coreRegBase) / 0x1000))
  else if addr = Reg.pwrStatus then 0x2001#64
  else if Reg.clkDom 0 ≤ addr ∧ addr ≤ Reg.clkDom 17 then BitVec.ofNat 64 (clkDomReset ((addr - Reg.clkDom 0) / 8))
  else
    match regRow addr with
    | none => 0#64
    | some (r, i) =>
      if (addr - Config.regBase) / 0x1_0000 = 0x0D ∧ 0x100 ≤ r.off ∧ i ≠ 0 then 0#64 else BitVec.ofNat 64 r.reset

/-- The value held in a register. -/
def State.rd (s : State) (addr : Nat) : Word := tabGet regReset s.regs addr

/-- The value of a field in a register word. -/
def Fld.of (f : Fld) (w : Word) : Nat := (w.toNat >>> f.lo) % 2 ^ f.width

/-- A register word with a field replaced. -/
def Fld.put (f : Fld) (w : Word) (v : Nat) : Word :=
  (w &&& ~~~(BitVec.ofNat 64 (2 ^ f.width - 1) <<< f.lo)) ||| (BitVec.ofNat 64 (v % 2 ^ f.width) <<< f.lo)

/-- The value of a field of a register. -/
def State.fget (s : State) (f : Fld) : Nat := f.of (s.rd f.addr)

/-- A one-bit field is set. -/
def State.flag (s : State) (f : Fld) : Bool := s.fget f != 0

/-! ## Memory bytes -/

/-- A byte range without the bytes from `a` to `a + n - 1`: at most two ranges are left. -/
def cutRange (a n : Nat) (r : Nat × Nat × Nat) : List (Nat × Nat × Nat) :=
  let (b, l, k) := r
  if a + n ≤ b ∨ b + l ≤ a then [r]
  else (if b < a then [(b, a - b, k)] else []) ++ (if a + n < b + l then [(a + n, b + l - (a + n), k)] else [])

/-- The undefined ranges without the bytes from `a` to `a + n - 1`. -/
def cutRanges (a n : Nat) (rs : List (Nat × Nat × Nat)) : List (Nat × Nat × Nat) := rs.flatMap (cutRange a n)

/-- The range of undefined data that holds an address. -/
def undefAt : List (Nat × Nat × Nat) → Nat → Option Nat
  | [], _ => none
  | (b, l, k) :: t, a => if b ≤ a ∧ a < b + l then some k else undefAt t a

/-- One byte as it is stored: undefined data reads a free value (log entry 2), an unlisted byte reads zero. -/
def State.peek (s : State) (a : Nat) : Byte :=
  match undefAt s.undef a with
  | some k => Config.freeByte k a
  | none => tabGet (fun _ => 0) s.mem a

/-- `n` bytes as they are stored. -/
def State.peekN (s : State) (a : Nat) : Nat → Bytes
  | 0 => []
  | n + 1 => s.peek a :: s.peekN (a + 1) n

/-- The little-endian value of `n` stored bytes. -/
def State.peekNat (s : State) (a n : Nat) : Nat := leNat (s.peekN a n)

/-- Bytes written one after another. -/
def memPut (m : Tab Byte) (a : Nat) : Bytes → Tab Byte
  | [] => m
  | b :: t => memPut (tabSet (fun _ => 0) m a b) (a + 1) t

/-! ## Components by number -/

/-- Context slot `c`. -/
def State.ctx (s : State) (c : Nat) : CtxSlot := tabGet (fun _ => {}) s.ctxs c
/-- Cluster `k`. -/
def State.cluster (s : State) (k : Nat) : ClusterState := tabGet (fun _ => {}) s.clusters k
/-- Logical core `n`. -/
def State.core (s : State) (n : Nat) : CoreState := tabGet (fun _ => {}) s.cores n
/-- Command ring `r`. -/
def State.ring (s : State) (r : Nat) : Ring := tabGet (fun _ => {}) s.rings r
/-- Request slot `k`; a FREE slot is the default value. -/
def State.req (s : State) (k : Nat) : Request := tabGet (fun _ => {}) s.reqs k
/-- The current period of context `c`. -/
def State.period (s : State) (c : Nat) : Period := tabGet (fun _ => {}) s.periods c
/-- Pool bank `b`. -/
def State.bank (s : State) (b : Nat) : BankState := tabGet (fun _ => {}) s.banks b
/-- Link `l`. -/
def State.link (s : State) (l : Nat) : LinkState := tabGet (fun _ => {}) s.links l
/-- Device ring `r` (R192). -/
def State.devRing (s : State) (r : Nat) : DevRing := tabGet (fun _ => {}) s.devRings r
/-- Memory tier 0 (fast) or 1 (slow). -/
def State.tier (s : State) (t : Nat) : TierState := tabGet (fun _ => {}) s.tiers t
/-- Firmware component 1 to 5. -/
def State.fw (s : State) (k : Nat) : FwComponent := tabGet (fun _ => {}) s.sec.firmware k

/-! ## Module resets (R368, R377, Table 15.6) -/

/-- Firmware across a module reset: boot flash keeps its images and what was asked of them; nothing runs and no transfer is
open. -/
def FwComponent.reboot (f : FwComponent) : FwComponent := { f with running := [], transfer := [], dead := false }

/-- The security domain across a module reset: fuses, boot flash and secure NVM. Key identities are never used twice. -/
def Security.reboot (x : Security) : Security :=
  { nvmTop := x.nvmTop, nvmLeaf := x.nvmLeaf, bootCount := x.bootCount, arb := x.arb, nextKey := x.nextKey,
    firmware := x.firmware.foldl (fun t p => tabSet (fun _ => {}) t p.1 p.2.reboot) [] }

/-- The state at power-good of a module cold reset. Only fuses, boot flash, secure NVM and the levels of pins last; the
commands that wait, the record of what was sent and the clock of the model are no state of the module. -/
def State.coldStart (s : State) : State :=
  { State.reset with
    pending := s.pending
    outbox := s.outbox
    ticks := s.ticks
    free := s.free
    sec := s.sec.reboot
    port := { State.reset.port with perst := s.port.perst }
    power := { State.reset.power with input := s.power.input, railsGood := s.power.railsGood, throtLow := s.power.throtLow, pwrEn := s.power.pwrEn } }

/-- Register ranges as (first address, bytes) that a hub warm reset leaves: counters that clear at module cold reset, the
locked protection setup with the enrolled signers, owners and states of pool banks, and the power controller's status. -/
def warmRanges : List (Nat × Nat) :=
  [(Reg.hubD2dCnt 0, 32), (Reg.galCnt 0, 16384), (Reg.poolOwner 0, 2048), (Reg.poolState 0, 2048), (Reg.poolMarchFail 0, 32),
   (Reg.poolCnt 0, 2048), (Reg.memfErrCnt, 8), (Reg.memsErrCnt, 8), (Reg.memsMigCnt, 8), (Reg.xltCnt, 8),
   (Reg.cmpCntBlocks, 8), (Reg.cmpCnt 0, 512), (Reg.reqCnt, 8), (Reg.reqCnt2, 8), (Reg.smpCnt 0, 16), (Reg.attCnt, 8),
   (Reg.attCnt2, 8), (Reg.attCnt3, 8), (Reg.cxlCnt, 8), (Reg.cxlErrCnt, 8), (Reg.secProt, 32), (Reg.secImpkey 0, 32),
   (Reg.secFwBase 0, 128), (Reg.pwrStatus, 8), (Reg.pwrCnt, 8), (Reg.fltCnt, 8), (Reg.fltSramCe 0, 32), (Reg.impPolicy, 8)] ++
  (List.range 12).flatMap fun l => [(Reg.hlLerr l, 8), (Reg.hlLtraf l, 8)]

/-- What a hub warm reset leaves of a register: the ranges above, the starts of clock domains,
the low bits of period serials, and debug_used (R146, R359). -/
def warmReg (a : Nat) (v : Word) : Word :=
  if warmRanges.any fun r => decide (r.1 ≤ a ∧ a < r.1 + r.2) then v
  else if (Reg.clkDom 0 ≤ a ∧ a ≤ Reg.clkDom 17) ∨ (Reg.reqPeriodNow 0 ≤ a ∧ a ≤ Reg.reqPeriodNow 15) then (v >>> 32 <<< 32) ||| (regReset a &&& 0xFFFFFFFF#64)
  else if a = Reg.secStatus then v &&& 0x8#64
  else regReset a

/-- Pages that a migration abandoned before REMAP gives back to its pool (R196). -/
def Migration.pageBack (m : Migration) : Option Nat :=
  if (m.kind = 2 ∨ m.kind = 3) ∧ m.state ≠ .check then some m.dst else none

/-- The migration engine after a hub warm reset: pools keep their pages, and each descriptor in flight will have its
record with status BAD_DESC (R196). -/
def MigEngine.warm (m : MigEngine) : MigEngine :=
  let back := m.inflight.filterMap Migration.pageBack
  { poolFast := m.poolFast ++ back.filter (· < Config.fastEnd), poolSlow := m.poolSlow ++ back.filter (Config.fastEnd ≤ ·)
    nextId := m.nextId
    records := m.records ++ (m.inflight.map fun x => (leBytes 4 x.tag ++ [3] ++ leBytes 1 (2 * b2n x.fromEngine) ++ zeros 10, 3)) }

/-- The state at the start of a hub warm reset's boot: tiers, pool banks, the retirement table, migration pools and the
locked setup last; every context is EMPTY with its keys destroyed, and every die is reset (log entry 31). -/
def State.warmStart (s : State) : State :=
  { s.coldStart with
    mem := tabClear s.mem Config.galleyBase (Config.galleyEnd - Config.galleyBase)
    undef := cutRanges Config.galleyBase (Config.galleyEnd - Config.galleyBase) s.undef
    marks := tabClear s.marks Config.galleyBase (Config.galleyEnd - Config.galleyBase)
    lineKey := s.lineKey
    regs := s.regs.foldl (fun t p => tabSet regReset t p.1 (warmReg p.1 p.2)) []
    ctxs := s.ctxs.foldl (fun t p => tabSet (fun _ => {}) t p.1 { generation := p.2.generation }) []
    periods := s.periods.foldl (fun t p => tabSet (fun _ => {}) t p.1 { serial := p.2.serial }) []
    banks := s.banks.foldl (fun t p => tabSet (fun _ => {}) t p.1 { p.2 with handover := none }) []
    mig := s.mig.warm
    xlt := { retired := s.xlt.retired }
    packNext := s.packNext
    flt := { seq := s.flt.seq }
    power := { s.power with hubReady := false, coldReset := false, selfRefresh := true } }

/-! ## Primitive updates -/

/-- Everything that a meaning can do to the state, one constructor for each kind. -/
inductive Upd where
  /-- A field of a register takes a value. -/
  | fld (f : Fld) (v : Nat)
  /-- A register takes a value. -/
  | reg (addr : Nat) (v : Word)
  /-- A counter field rises and stays at all ones. -/
  | inc (f : Fld) (n : Nat)
  /-- The registers from `base` to `base + n - 1` take their reset values. -/
  | regReset (base n : Nat)
  /-- Bytes are stored. -/
  | store (addr : Nat) (data : Bytes)
  /-- Bytes become zero. -/
  | clear (addr n : Nat)
  /-- Bytes become undefined data. -/
  | undef (addr n : Nat)
  /-- The protected unit at an address takes a state. -/
  | mark (addr : Nat) (m : Mark)
  /-- Every unit that begins in a range becomes sound. -/
  | sound (addr n : Nat)
  /-- The key under which a line was written. -/
  | lineKey (line key : Nat)
  /-- Lines `line` to `line + n - 1` hold plaintext. -/
  | plainLines (line n : Nat)
  /-- An output leaves the module. -/
  | out (o : Output)
  /-- The counter of open values advances. -/
  | draw
  /-- An MSI-X vector is raised. -/
  | msix (vector : Nat)
  /-- A keep-warm tick passes. -/
  | tick
  | loader (f : Loader → Loader)
  | ctx (c : Nat) (f : CtxSlot → CtxSlot)
  | windows (f : List Window → List Window)
  | hub (f : Hub → Hub)
  | cluster (k : Nat) (f : ClusterState → ClusterState)
  | core (n : Nat) (f : CoreState → CoreState)
  | srCtr (k : Nat) (v : Nat)
  | srClear (base n : Nat)
  | ring (r : Nat) (f : Ring → Ring)
  | issues (f : List Issue → List Issue)
  | req (k : Nat) (f : Request → Request)
  | reqClear
  | stamp
  | period (c : Nat) (f : Period → Period)
  | sampler (f : Sampler → Sampler)
  | pages (f : PageService → PageService)
  | devRing (r : Nat) (f : DevRing → DevRing)
  | mig (f : MigEngine → MigEngine)
  | packs (f : List PackJob → List PackJob)
  | packNext
  | xlt (f : Xlt → Xlt)
  | tier (t : Nat) (f : TierState → TierState)
  | bank (b : Nat) (f : BankState → BankState)
  | march (m : Option March)
  | cmpErrs (f : List (Nat × Nat) → List (Nat × Nat))
  | attErrs (f : List (Nat × Nat) → List (Nat × Nat))
  | hlErrs (f : List (Nat × Nat) → List (Nat × Nat))
  | cmpInv (c : Option Nat)
  | cmpCache (f : List CmpEntry → List CmpEntry)
  | port (f : Port → Port)
  | mailbox (f : Mailbox → Mailbox)
  | link (l : Nat) (f : LinkState → LinkState)
  | fabric (f : Fabric → Fabric)
  | outbound (f : Outbound → Outbound)
  | sec (f : Security → Security)
  | rotation (n : Nat)
  | sliceLate (b : Bool)
  | power (f : Power → Power)
  | flt (f : Faults → Faults)
  /-- A module cold reset. -/
  | cold
  /-- A hub warm reset. -/
  | warm

/-- Time passes at the port: with the link up, configuration space answers, then the mailbox is ready (R282 steps 3 and 4;
log entry 8). -/
def Port.advance (up : Bool) (p : Port) : Port :=
  if !up then p else if p.configReady then { p with mailboxReady := true } else { p with configReady := true }

/-- Nothing keeps a vector from being sent but the link: no mask, and a CXL.io stream that carries traffic (R292, R298). -/
def Port.canSend (p : Port) (v : Nat) : Bool :=
  !p.ioInsecure && !p.msixMask && !(tabGet (fun _ => ({} : MsixEntry)) p.msixTable v).masked

/-- The pending bit of a vector sets. -/
def Port.setPending (p : Port) (v : Nat) : Port :=
  if p.msixPending.contains v then p else { p with msixPending := p.msixPending ++ [v] }

/-- One primitive update. -/
def State.apply (s : State) : Upd → State
  | .fld f v => { s with regs := tabSet regReset s.regs f.addr (f.put (s.rd f.addr) v) }
  | .reg a v => { s with regs := tabSet regReset s.regs a v }
  | .inc f n => { s with regs := tabSet regReset s.regs f.addr (f.put (s.rd f.addr) (satAdd f.width (s.fget f) n)) }
  | .regReset b n => { s with regs := tabClear s.regs b n }
  | .store a d => { s with mem := memPut s.mem a d, undef := cutRanges a d.length s.undef }
  | .clear a n => { s with mem := tabClear s.mem a n, undef := cutRanges a n s.undef }
  | .undef a n =>
    if n = 0 then s
    else { s with mem := tabClear s.mem a n, undef := (a, n, s.free) :: cutRanges a n s.undef, free := s.free + 1 }
  | .mark a m => { s with marks := tabSet (fun _ => .sound) s.marks a m }
  | .sound a n => { s with marks := tabClear s.marks a n }
  | .lineKey l k => { s with lineKey := tabSet (fun _ => 0) s.lineKey l k }
  | .plainLines l n => { s with lineKey := tabClear s.lineKey l n }
  | .out o => { s with outbox := s.outbox ++ [o] }
  | .msix v =>
    if !s.port.msixOn then s
    else if s.fget Fld.cxlLinkState == 2 && s.port.canSend v then { s with outbox := s.outbox ++ [.msix v] }
    else { s with port := s.port.setPending v }
  | .draw => { s with free := s.free + 1 }
  | .tick => { s with ticks := s.ticks + 1, port := s.port.advance (s.fget Fld.cxlLinkState == 2) }
  | .loader f => { s with loader := f s.loader }
  | .ctx c f => { s with ctxs := tabMod (fun _ => {}) s.ctxs c f }
  | .windows f => { s with windows := f s.windows }
  | .hub f => { s with hub := f s.hub }
  | .cluster k f => { s with clusters := tabMod (fun _ => {}) s.clusters k f }
  | .core n f => { s with cores := tabMod (fun _ => {}) s.cores n f }
  | .srCtr k v => { s with srCtr := tabSet (fun _ => 0) s.srCtr k v }
  | .srClear b n => { s with srCtr := tabClear s.srCtr b n }
  | .ring r f => { s with rings := tabMod (fun _ => {}) s.rings r f }
  | .issues f => { s with issues := f s.issues }
  | .req k f => { s with reqs := tabMod (fun _ => {}) s.reqs k f }
  | .reqClear => { s with reqs := [] }
  | .stamp => { s with stampNext := s.stampNext + 1 }
  | .period c f => { s with periods := tabMod (fun _ => {}) s.periods c f }
  | .sampler f => { s with sampler := f s.sampler }
  | .pages f => { s with pages := f s.pages }
  | .devRing r f => { s with devRings := tabMod (fun _ => {}) s.devRings r f }
  | .mig f => { s with mig := f s.mig }
  | .packs f => { s with packs := f s.packs }
  | .packNext => { s with packNext := s.packNext + 1 }
  | .xlt f => { s with xlt := f s.xlt }
  | .tier t f => { s with tiers := tabMod (fun _ => {}) s.tiers t f }
  | .bank b f => { s with banks := tabMod (fun _ => {}) s.banks b f }
  | .march m => { s with march := m }
  | .cmpErrs f => { s with cmpErrs := f s.cmpErrs }
  | .attErrs f => { s with attErrs := f s.attErrs }
  | .hlErrs f => { s with hlErrs := f s.hlErrs }
  | .cmpInv c => { s with cmpInvalidating := c }
  | .cmpCache f => { s with cmpCache := f s.cmpCache }
  | .port f => { s with port := f s.port }
  | .mailbox f => { s with mailbox := f s.mailbox }
  | .link l f => { s with links := tabMod (fun _ => {}) s.links l f }
  | .fabric f => { s with fabric := f s.fabric }
  | .outbound f => { s with outbound := f s.outbound }
  | .sec f => { s with sec := f s.sec }
  | .rotation n => { s with rotation := n }
  | .sliceLate b => { s with sliceLate := b }
  | .power f => { s with power := f s.power }
  | .flt f => { s with flt := f s.flt }
  | .cold => s.coldStart
  | .warm => s.warmStart

/-- Updates one after another. -/
def State.run (s : State) (us : List Upd) : State := us.foldl State.apply s

/-! ## Actions -/

/-- An action: the updates that an event makes in a state. -/
abbrev Act := State → List Upd

/-- No update. -/
def nothing : Act := fun _ => []

/-- Fixed updates. -/
def act (us : List Upd) : Act := fun _ => us

/-- One action after another; each sees the state that the ones before it leave. -/
def seqA : List Act → Act
  | [], _ => []
  | a :: t, s => let us := a s; us ++ seqA t (s.run us)

/-- An action for each element, in order. -/
def forA {α : Type} (xs : List α) (f : α → Act) : Act := seqA (xs.map f)

/-- An action under a condition on the state it meets. -/
def whenA (c : State → Bool) (a : Act) : Act := fun s => if c s then a s else []

/-- The state after an action. -/
def State.after (s : State) (a : Act) : State := s.run (a s)

/-- The result of a command whose effect is an action: the machine goes on. -/
def done (a : Act) (s : State) : Host.Outcome State Fault Refusal := .next (s.after a)

/-! ## Places and numbers -/

/-- Cluster of a logical core: die × 16 + cluster (R10). -/
def clusterOf (core : Nat) : Nat := core / 32
/-- Die of a logical core (R10). -/
def dieOf (core : Nat) : Nat := core / 512
/-- The 32 logical cores of a cluster. -/
def coresOf (k : Nat) : List Nat := (List.range 32).map (fun i => k * 32 + i)
/-- The 16 clusters of a die. -/
def clustersOf (d : Nat) : List Nat := (List.range 16).map (fun i => d * 16 + i)
/-- First byte of the galley of a core (R155). -/
def galleyOf (core : Nat) : Nat := Config.galleyBase + core * Config.galleyBytes
/-- First byte of a pool bank (R166). -/
def bankOf (b : Nat) : Nat := Config.poolBase + b * Config.bankBytes

/-! ## Events to the host -/

/-- Raises an MSI-X vector: its message is sent, or its pending bit sets while it is masked or cannot be carried; with MSI-X off
nothing happens (R292, log entry 56). -/
def raise (v : Nat) : Act := act [.msix v]

/-- Pending vectors that can be sent now are sent. -/
def sendPending : Act := fun s =>
  if !s.port.msixOn ∨ s.fget Fld.cxlLinkState ≠ 2 then []
  else
    let go := s.port.msixPending.filter s.port.canSend
    if go = [] then [] else .port (fun p => { p with msixPending := p.msixPending.filter fun v => !go.contains v }) :: go.map fun v => .out (.msix v)

/-- Raises the vector of command ring `r` under CXL_IRQ_COAL (R292). -/
def raiseRing (r : Nat) : Act := fun s =>
  let usec := s.fget Fld.cxlIrqCoalUsec
  let c := tabGet (fun _ => {}) s.port.coalesce r
  if usec = 0 then [.msix (16 + r)]
  else if s.ticks < c.until_ then
    [.port fun p => { p with coalesce := tabMod (fun _ => {}) p.coalesce r (fun c => { c with held := true }) }]
  else
    [.port fun p => { p with coalesce := tabSet (fun _ => {}) p.coalesce r ⟨s.ticks + usec * 100, false⟩ },
     .msix (16 + r)]

/-- Sets period event `bit` of context `c` and raises its vector when the bit is enabled (R292, R293). -/
def periodEvent (c bit : Nat) : Act := fun s =>
  [.fld ⟨Reg.cxlPev c, bit, 1⟩ 1] ++ (if bitOf (s.rd (Reg.cxlPev c)).toNat (16 + bit) then [.msix (80 + c)] else [])

/-- Records a fault (R388): it joins the queue of 256, or is counted as lost. -/
def faultRecord (cls action context unit detail ref addr : Nat) (virtual : Bool) : Act := fun s =>
  let seq := s.flt.seq
  if s.flt.queue.length < 256 then
    [.flt fun f => { f with
      seq := (seq + 1) % 2 ^ 32
      queue := f.queue ++ [⟨seq, cls, action, context, false, unit, detail, ref % 2 ^ 32, addr % 2 ^ 57, virtual,
        s.ticks - f.readyTick⟩] }]
  else [.flt fun f => { f with seq := (seq + 1) % 2 ^ 32, lostPending := true }, .inc Fld.fltCntLost 1]

/-- The bytes of a fault record (Table 16.1). -/
def FaultRec.bytes (r : FaultRec) : Bytes :=
  leBytes 4 r.seq ++ leBytes 1 r.cls ++ leBytes 1 r.action ++ leBytes 1 r.context ++ leBytes 1 (b2n r.lostBefore) ++
  leBytes 2 r.unit ++ leBytes 2 r.detail ++ leBytes 4 r.ref ++
  leBytes 8 (r.addr + (if r.virtual then 2 ^ 63 else 0)) ++ leBytes 8 r.time

/-! ## Modes of the module -/

/-- A handshake has bound the function: registers outside the CXL_ block act on writes of the host (R295). An insecure
CXL.io stream carries nothing (R298). -/
def State.bound (s : State) : Bool := s.flag Fld.cxlStatusBound && !s.port.ioInsecure
/-- Version 3.0 is bound: the registers that R297 lists act on writes of the host too; under version 2.0 they do not. -/
def State.bound3 (s : State) : Bool := s.bound && s.fget Fld.cxlStatusHsMajor == 3
/-- BASIC mode (R399). -/
def State.basic (s : State) : Bool := s.flag Fld.fltStatusBasic
/-- Confidential mode (R360). -/
def State.confidential (s : State) : Bool := s.flag Fld.secStatusConfidential
/-- Debug mode (R359); it never coincides with confidential mode. -/
def State.debug (s : State) : Bool := s.flag Fld.secStatusDebug && !s.confidential
/-- The CXL data link is up. -/
def State.linkUp (s : State) : Bool := s.fget Fld.cxlLinkState == 2
/-- The device may access host memory: the link is up, and in poll mode, which uses CXL.io, that stream is not insecure
(R283, R286, R298). -/
def State.hostUp (s : State) : Bool := s.linkUp && !(s.flag Fld.cxlStatusPollMode && s.port.ioInsecure)
/-- State code of context slot `c` (Table 2.18). -/
def State.ctxState (s : State) (c : Nat) : Nat := s.fget (Fld.impCtxStateOf c)
/-- Context `c` is RESIDENT or ACTIVE. -/
def State.ctxLive (s : State) (c : Nat) : Bool := s.ctxState c == 2 || s.ctxState c == 3
/-- The image in force of context `c`, or an empty one. -/
def State.image (s : State) (c : Nat) : Image := ((s.ctx c).image).getD {}

/-- A counter that profiling stops in confidential mode (R360). -/
def profile (f : Fld) (n : Nat) : Act := fun s => if s.confidential || n = 0 then [] else [.inc f n]

/-- A profiling counter whose count depends on how accesses and waits fall in time: it grows by an open number (log entry 51). -/
def openCount (f : Fld) : Act := fun s =>
  if s.confidential then [] else [.inc f (Config.freeWord s.free).toNat, .draw]

end Sys2Proof.Machine
end

