-- ==== Sys2Proof/Machine/Memory.lean ====
section
/-! DEFINITION. The device address map, the checks of every access, and address translation.
R9, R182 to R189, R198 to R205, R335, R355 to R358. -/

namespace Sys2Proof.Machine

open Sys2Proof

/-! ## The address map -/

/-- Regions of the device physical address map (Table 1.2). -/
inductive Region where
  | fast | slow | pool | galley | regs | coreRegs | window | none
  deriving DecidableEq, Repr

/-- The region that holds an address (Table 1.2). -/
def regionOf (a : Nat) : Region :=
  if a < Config.fastEnd then .fast
  else if Config.slowBase ≤ a ∧ a < Config.slowEnd then .slow
  else if Config.poolBase ≤ a ∧ a < Config.poolEnd then .pool
  else if Config.galleyBase ≤ a ∧ a < Config.galleyEnd then .galley
  else if Config.regBase ≤ a ∧ a < Config.regBase + 0x100_0000 then .regs
  else if Config.coreRegBase ≤ a ∧ a < Config.coreRegBase + 0x80_0000 then .coreRegs
  else if Config.windowBase ≤ a ∧ a < Config.windowEnd then .window
  else .none

/-- Memory has come up: the walker, the migration engine and everything that reaches memory through them accept work (R190). -/
def State.tiersUp (s : State) : Bool := s.fget Fld.memfStatusReady != 0 || s.fget Fld.memfStatusFailed != 0

/-- The slow tier is in service (R188). -/
def State.slowPresent (s : State) : Bool := s.flag Fld.memsStatusPresent

/-- The region of an address as the module answers it: a slow tier out of service takes the address fault of R9. -/
def State.region (s : State) (a : Nat) : Region :=
  match regionOf a with
  | .slow => if s.slowPresent then .slow else .none
  | r => r

/-- The address lies in one of the two tiers. -/
def State.inTier (s : State) (a : Nat) : Bool := s.region a == .fast || s.region a == .slow

/-- The whole range lies in one tier. -/
def State.rangeInTier (s : State) (a n : Nat) : Bool :=
  0 < n && s.inTier a && s.region a == s.region (a + n - 1)

/-- First byte of the host-managed region (R189). -/
def State.hdmBase (s : State) : Nat := Config.slowEnd - s.fget Fld.memsHdmSizeGib * 2 ^ 30

/-- The range meets the host-managed region (R189). -/
def State.meetsHdm (s : State) (a n : Nat) : Bool :=
  rangesMeet a n s.hdmBase (Config.slowEnd - s.hdmBase)

/-- A 64 KiB page of either tier is retired (R205). -/
def State.retired (s : State) (a : Nat) : Bool := s.xlt.retired.contains (a / 65536)

/-- The range contains a retired page. -/
def State.rangeRetired (s : State) (a n : Nat) : Bool :=
  s.xlt.retired.any (fun p => rangesMeet (p * 65536) 65536 a n)


/-- Frame number of a 64 KiB frame of either tier in the ledger and the key tag table (R259). -/
def frameOf (a : Nat) : Nat :=
  if a < Config.fastEnd then a / 65536 else (a - Config.slowBase) / 65536 + 9437184

/-- The fast-tier route of an address: stack and channel (R182). -/
def fastRoute (a : Nat) : Nat × Nat :=
  let loc := (a / 4096 / 6) * 4096 + a % 4096
  (a / 4096 % 6, loc / 256 % 32)

/-- Bytes of a protected unit: a line of a tier, a word of a pool bank or galley (R162, R166, R183). -/
def unitSize (a : Nat) : Nat := if a < Config.poolBase then 64 else 8

/-- First byte of the protected unit of an address. -/
def eccUnit (a : Nat) : Nat := a / unitSize a * unitSize a

/-- The state of the protected unit of an address. -/
def State.markAt (s : State) (a : Nat) : Mark := tabGet (fun _ => .sound) s.marks (eccUnit a)

/-- A state in which a unit gives no data. -/
def Mark.bad : Mark → Bool
  | .uncorrectable | .poisoned | .logged => true
  | .sound | .correctable => false

/-- The unit of an address gives no data: it is poisoned or has an uncorrectable error, or it lies in an HBM4 stack that failed
training (R183, R186). -/
def State.badUnit (s : State) (a : Nat) : Bool :=
  (s.markAt a).bad || (decide (a < Config.fastEnd) && bitOf (s.fget Fld.memfStatusFailed) (fastRoute a).1)

/-- The slow-tier route of an address: package and channel (R187). -/
def slowRoute (a : Nat) : Nat × Nat :=
  let off := a - Config.slowBase
  (off / 4096 % 16, off / 65536 % 4)

/-! ## Firewalls and keys -/

/-- A firewall region denies agent class `cls` the address (R335). -/
def State.denied (s : State) (cls a : Nat) : Bool :=
  (List.range 8).any fun r =>
    s.flag (Fld.secFwLimitValid r) && decide (s.fget (Fld.secFwBaseBase r) ≤ a / 2 ^ 20) &&
    decide (a / 2 ^ 20 ≤ s.fget (Fld.secFwLimitLimit r)) && bitOf (s.fget (Fld.secFwBaseDeny r)) cls

/-- A firewall region denies agent class `cls` some address of a range. -/
def State.rangeDenied (s : State) (cls a n : Nat) : Bool :=
  (List.range 8).any fun r =>
    s.flag (Fld.secFwLimitValid r) && bitOf (s.fget (Fld.secFwBaseDeny r)) cls &&
    decide (max a (s.fget (Fld.secFwBaseBase r) * 2 ^ 20) < min (a + n) ((s.fget (Fld.secFwLimitLimit r) + 1) * 2 ^ 20))

/-- Address of the key tag of a frame (R356). -/
def State.tagAddr (s : State) (a : Nat) : Nat := s.fget Fld.secTagtabBase * 65536 + frameOf a

/-- The key tag of the frame of an address (R356); frames of the host-managed region are always tag 0, and a tag that cannot be
read is foreign to everyone (R205, log entry 7). -/
def State.keyTag (s : State) (a : Nat) : Nat :=
  if s.meetsHdm a 1 then 0
  else if s.badUnit (s.tagAddr a) || s.retired (s.tagAddr a) then 0xFF
  else (s.peek (s.tagAddr a)).toNat

/-- The key identity of slot `i` of context `c`; 0 when the slot is empty (R355). -/
def State.keyOf (s : State) (c i : Nat) : Nat := if i = 0 then (s.ctx c).keyPrivate else (s.ctx c).keyContent

/-- The key under which an agent of context `c` reaches a frame: tag 0, or a filled own slot (R357). -/
def State.ownKey (s : State) (c a : Nat) : Option Nat :=
  let t := s.keyTag a
  if t = 0 then some 0
  else if (t - 1) / 2 = c ∧ t ≤ 32 ∧ s.keyOf c ((t - 1) % 2) ≠ 0 then some (s.keyOf c ((t - 1) % 2))
  else none

/-- The key of the frame's tag as the memory interface uses it for any agent (R356); an empty slot leaves ciphertext. -/
def State.frameKey (s : State) (a : Nat) : Nat :=
  let t := s.keyTag a
  if t = 0 ∨ 32 < t then 0 else s.keyOf ((t - 1) / 2) ((t - 1) % 2)

/-- A byte as the line reads under a key. Ciphertext read as plaintext, and data read under a key it was not written
under, are uninterpreted (R356, R358, log entry 3). -/
def State.seen (s : State) (key a : Nat) : Byte :=
  let w := tabGet (fun _ => 0) s.lineKey (a / 64)
  if w = key then s.peek a
  else if key = 0 then Config.xtsByte w (a / 64 * 64) (s.peekN (a / 64 * 64) 64) (a % 64)
  else Config.foreignByte key w a (s.peek a)

/-- `n` bytes as they read under a key. -/
def State.seenN (s : State) (key a : Nat) : Nat → Bytes
  | 0 => []
  | n + 1 => s.seen key a :: s.seenN key (a + 1) n

/-- The ciphertext of stored bytes: what an agent without the key reads (R357). -/
def State.cipherN (s : State) (a : Nat) (n : Nat) : Bytes := s.seenN 0 a n

/-! ## Pieces of a range -/

/-- A range cut at multiples of `unit`: (address, length) pieces, at most `fuel` of them. -/
def pieces (unit : Nat) : Nat → Nat → Nat → List (Nat × Nat)
  | 0, _, _ => []
  | fuel + 1, a, n =>
    if n = 0 then []
    else
      let k := min n (unit - a % unit)
      (a, k) :: pieces unit fuel (a + k) (n - k)

/-- The pieces of a range within lines. -/
def linePieces (a n : Nat) : List (Nat × Nat) := pieces 64 (n / 64 + 2) a n

/-- The numbers of the lines of a range. -/
def linesOf (a n : Nat) : List Nat := (linePieces a n).map fun p => p.1 / 64

/-- The pieces of a range within 64 KiB pages. -/
def pagePieces (a n : Nat) : List (Nat × Nat) := pieces 65536 (n / 65536 + 2) a n

/-- The protected units of a range, each with the part of the range in it. -/
def unitPieces (a n : Nat) : List (Nat × Nat) := pieces (unitSize a) (n / unitSize a + 2) a n

/-- Some unit of a range within one region gives no data. -/
def State.badIn (s : State) (a n : Nat) : Bool := (unitPieces a n).any fun p => s.badUnit p.1

/-- A line of 64 bytes holds a unit that gives no data. -/
def State.poisoned (s : State) (a : Nat) : Bool := s.badIn (a / 64 * 64) 64

/-- A line of a tier that a weight repair reads back: every other read of it ends with poison (R402). -/
def State.verifying (s : State) (a : Nat) : Bool := s.flt.repairs.any fun r => r.line == a / 64 && r.state == .verify

/-- A line gives no data to its reader: poisoned, in a retired page, or read back by a repair (R184, R205, R402). -/
def State.unreadable (s : State) (a : Nat) : Bool := s.poisoned a || (s.inTier a && (s.retired a || s.verifying a))

/-! ## Stores -/

/-- The migration in FINAL whose source unit holds an address: writes to it are held (R194, R195). -/
def State.finalOf (s : State) (a : Nat) : Option Migration :=
  s.mig.inflight.find? fun m => m.state == .final && decide (m.src ≤ a ∧ a < m.src + 0x20_0000)

/-- Some byte of a range lies in the source unit of a migration in FINAL: accesses of commands are held (R194). -/
def State.heldIn (s : State) (a n : Nat) : Bool :=
  s.mig.inflight.any fun m => m.state == .final && rangesMeet m.src 0x20_0000 a n

/-- The updates that store bytes of one line of a tier under a key: a whole line clears poison, part of a poisoned line merges
nothing, a corrected line is written back sound (R183), and a line under another key is written whole. -/
def storeTierLine (s : State) (key a : Nat) (d : Bytes) : List Upd :=
  if d.length = 64 then [.mark (eccUnit a) .sound, .lineKey (a / 64) key, .store a d]
  else if s.badUnit a then []
  else
    (if s.markAt a = .correctable then [.mark (eccUnit a) .sound] else []) ++
    (if tabGet (fun _ => 0) s.lineKey (a / 64) = key then [.store a d]
     else [.store (a / 64 * 64) (putAt (s.seenN key (a / 64 * 64) 64) (a % 64) d), .lineKey (a / 64) key])

/-- The updates that store bytes into words of a pool bank or galley: a whole word clears its poison, part of a poisoned word is
discarded (R162). -/
def storeWords (s : State) (a : Nat) (d : Bytes) : List Upd :=
  if (unitPieces a d.length).all fun p => s.markAt p.1 == .sound then [.store a d]
  else (unitPieces a d.length).flatMap fun (b, k) =>
    if k = 8 then [.mark b .sound, .store b (slice d (b - a) 8)]
    else if s.badUnit b then []
    else [.mark (eccUnit b) .sound, .store b (slice d (b - a) k)]

/-- The updates that store bytes of one line: a retired page drops the write (R205), a migration in FINAL holds it (R195), and an
address outside the map takes none (R9). -/
def storeLine (s : State) (key a : Nat) (d : Bytes) : List Upd :=
  match s.region a with
  | .fast | .slow =>
    if s.retired a then []
    else match s.finalOf a with
      | some m => [.mig fun e => { e with
          inflight := modFirst (·.id == m.id) (fun x => { x with held := x.held ++ [(a, key, d)] }) e.inflight }]
      | none => storeTierLine s key a d
  | .pool | .galley => storeWords s a d
  | _ => []

/-- Stores of a range under the key that each of its frames' tags gives, line by line. -/
def storeKeyed (key : State → Nat → Nat) (a : Nat) (d : Bytes) : Act := fun s =>
  (linePieces a d.length).flatMap fun (b, n) => storeLine s (key s b) b (slice d (b - a) n)

/-- An address fault of R9: recorded with the agent's code (Table 16.2). -/
def addressFault (agent addr : Nat) : Act := faultRecord 0x02 0 0xFF agent 0 0 addr false

/-- An address outside every range of Table 1.2 that data may lie in; a slow tier out of service is outside (R188). -/
def State.outside (s : State) (a : Nat) : Bool :=
  match s.region a with
  | .fast | .slow | .pool | .galley => false
  | _ => true

/-- An access by the device to an address outside the map is recorded, with the agent code 1 of a DMA (log entry 7). -/
def noteOutside (a n : Nat) : Act := fun s =>
  match (linePieces a n).find? fun p => s.outside p.1 with
  | some p => addressFault 1 p.1 s
  | none => []

/-- A store by the device itself in a tag-0 structure: rings, tables, records. -/
def storePlain (a : Nat) (d : Bytes) : Act := seqA [noteOutside a d.length, storeKeyed (fun _ _ => 0) a d]

/-- Bytes that the device reads in a tag-0 structure: a line that gives no data, and an address outside the map, read as zeros, of
which no structure is valid (R9, R205, log entry 29). -/
def State.devBytes (s : State) (a n : Nat) : Bytes :=
  (linePieces a n).flatMap fun (b, k) => if s.outside b || s.unreadable b then zeros k else s.seenN 0 b k

/-- A store under the keys of the frames' tags. -/
def storeTagged (a : Nat) (d : Bytes) : Act := storeKeyed (fun s b => s.frameKey b) a d

/-! ## Physical accesses for a context -/

/-- Why an access for a context stopped. -/
inductive Stop where
  /-- A walk fault: virtual address, level and reason (Table 8.8). -/
  | walk (va level reason : Nat)
  /-- A foreign tag or a firewall denial (Table 14.11). -/
  | foreign (addr : Nat)
  /-- A poisoned line or a retired page (R184, R205). -/
  | poison (addr : Nat)
  /-- An address outside every range (R9). -/
  | address (addr : Nat)
  /-- A pool bank refuses the access (R167, R171). -/
  | bank (b : Nat)
  /-- A pool bank holds the access, and is woken for it when it is in RETAIN (R168, R171, R176). -/
  | bankHeld (b : Nat) (wake : Bool)
  /-- Lines of a remote window that are not here yet, and the whole access that they belong to as address and length (R313). -/
  | remote (addr n : Nat) (whole : Nat × Nat)
  /-- A compressed block that is not decoded yet (R223). -/
  | block (va : Nat)
  /-- A KV page that must be allocated or copied first (R265, R274). -/
  | page (va : Nat) (cow : Bool)
  /-- A line of the host-managed region that the host may hold (R291). -/
  | hostLine (line : Nat)
  /-- The source unit of a migration in FINAL (R194). -/
  | held
  deriving DecidableEq, Repr

/-- The check of one line for an agent of context `c`: the key to use, or why it stops (R9, R335, R357). -/
def State.lineKeyFor (s : State) (c a : Nat) : Except Stop Nat :=
  match s.region a with
  | .fast | .slow =>
    if s.denied 0 a then .error (.foreign a)
    else match s.ownKey c a with
      | none => .error (.foreign a)
      | some k => .ok k
  | .pool | .galley => .ok 0
  | _ => .error (.address a)

/-- Bytes of one line for an agent of context `c`. -/
def State.readLine (s : State) (c a n : Nat) : Except Stop Bytes :=
  match s.lineKeyFor c a with
  | .error e => .error e
  | .ok k =>
    if s.badIn a n ∨ (s.inTier a ∧ (s.retired a ∨ s.verifying a)) then .error (.poison a) else .ok (s.seenN k a n)

/-- Joins the results of pieces in order; the first stop wins. -/
def joinReads : List (Except Stop Bytes) → Except Stop Bytes
  | [] => .ok []
  | .error e :: _ => .error e
  | .ok b :: t => match joinReads t with
    | .error e => .error e
    | .ok r => .ok (b ++ r)

/-- Bytes of a physical range for an agent of context `c`. -/
def State.readPhys (s : State) (c a n : Nat) : Except Stop Bytes :=
  joinReads ((linePieces a n).map fun (b, k) => s.readLine c b k)

/-- The first stop among the lines of a physical range that an agent of context `c` writes. -/
def State.checkPhys (s : State) (c a n : Nat) : Option Stop :=
  (linePieces a n).findSome? fun (b, _) => match s.lineKeyFor c b with
    | .error e => some e
    | .ok _ => none

/-- A store of an agent of context `c` into a physical range it has checked. -/
def storeCtx (c a : Nat) (d : Bytes) : Act :=
  storeKeyed (fun s b => match s.lineKeyFor c b with | .ok k => k | .error _ => 0) a d

/-! ## Translation -/

/-- Who asks for a translation: code of XLT_FAULT_LOG1.agent, context, core and tag; `onDie` admits pool banks, the
own galley and the remote-window aperture (R200), `tlb` says that the agent works through the TLBs of its core (R202), and
`dma` marks the DMA engine of a core. -/
structure Agent where
  code : Nat
  ctx : Nat
  core : Nat := 0
  tag : Nat := 0
  onDie : Bool := false
  tlb : Bool := false
  dma : Bool := false
  deriving DecidableEq, Repr

/-- What a walk found: the physical address, the leaf's value, where it stands, its page size, and the entries read. -/
structure Walk where
  pa : Nat
  leaf : Nat
  leafAddr : Nat
  sizeLog2 : Nat
  read : List CacheEntry
  deriving DecidableEq, Repr

/-- Reasons of Table 8.8. -/
def Reason.invalid : Nat := 1
def Reason.noRead : Nat := 2
def Reason.noWrite : Nat := 3
def Reason.rsvd : Nat := 4
def Reason.level : Nat := 5
def Reason.align : Nat := 6
def Reason.range : Nat := 7
def Reason.retired : Nat := 8
def Reason.table : Nat := 9
def Reason.cow : Nat := 10

/-- Address of the context table entry of context `c` (R352). -/
def State.ctxEntry (s : State) (c : Nat) : Nat := s.fget Fld.secCtxtabBase * 4096 + 64 * c

/-- A table entry can be read (R200, R357): both tiers, not retired, not poisoned, tag 0, no denial. -/
def State.tableReadable (s : State) (a : Nat) : Bool :=
  s.inTier a && !s.retired a && !s.poisoned a && !s.denied 0 a && s.keyTag a == 0

/-- The die whose walker serves an agent; agents on the hub use die 0 (log entry 6). -/
def Agent.die (ag : Agent) : Nat := if ag.tlb then dieOf ag.core else 0

/-- The value of a table entry, none where it cannot be read: memory, or the walk cache when it still holds another value or stands
for an entry that memory no longer gives (R202, R203). -/
def State.entryValue (s : State) (ag : Agent) (a : Nat) : Option Nat :=
  let m := if s.tableReadable a then some (leNat (s.seenN 0 a 8)) else none
  match s.xlt.cache.find? (fun e => e.1 == .walker ag.die && e.2.ctx == ag.ctx && e.2.entryAddr == a) with
  | some e => if some e.2.value ≠ m ∧ Config.cacheKept ag.ctx a s.free then some e.2.value else m
  | none => m

/-- A leaf of `size` bytes at `pa` lies wholly inside one region that the agent's leaf may map (R200, R313). -/
def State.leafInRange (s : State) (ag : Agent) (pa size : Nat) : Bool :=
  let last := pa + size - 1
  match s.region pa with
  | .fast => s.region last == .fast
  | .slow => s.region last == .slow
  | .pool => ag.onDie && s.region last == .pool
  | .galley => ag.onDie && decide (galleyOf ag.core ≤ pa ∧ last < galleyOf ag.core + Config.galleyBytes)
  | .window => ag.onDie && s.region last == .window && pa / 2 ^ 28 == last / 2 ^ 28
  | _ => false

/-- The checks at a leaf: RANGE, RETIRED, then the permissions of the access (R200). -/
def State.leafCheck (s : State) (ag : Agent) (va write : Nat) (level e ea pa sizeLog2 : Nat) (read : List CacheEntry) :
    Except (Nat × Nat) Walk :=
  if !s.leafInRange ag pa (2 ^ sizeLog2) then .error (level, Reason.range)
  else if s.rangeRetired pa (2 ^ sizeLog2) then .error (level, Reason.retired)
  else if write = 0 ∧ !bitOf e 1 then .error (level, Reason.noRead)
  else if write = 1 ∧ !bitOf e 2 then .error (level, Reason.noWrite)
  else if write = 1 ∧ bitOf e 4 ∧ ag.code ≠ 1 then .error (level, Reason.cow)
  else .ok ⟨pa + va % 2 ^ sizeLog2, e, ea, sizeLog2, read⟩

/-- The walk below a table at `table` of level `level` (R198 to R200). `write` is 0 for a read, 1 for a write and 2 for
a look-up that asks no permission. -/
def State.walkFrom (s : State) (ag : Agent) (va write : Nat) : Nat → Nat → List CacheEntry → Except (Nat × Nat) Walk
  | 0, _, _ => .error (1, Reason.level)
  | lv + 1, table, read =>
    let level := lv + 1
    let shift := if level = 1 then 16 else 12 + 9 * lv
    let idx := va / 2 ^ shift % (if level = 1 then 32 else 512)
    let ea := table + 8 * idx
    match s.entryValue ag ea with
    | none => .error (level, Reason.table)
    | some e =>
      let next := bitsOf e 8 44 * 256
      let leaf := bitOf e 3
      let read := read ++ [⟨ag.ctx, ea, e, va / 2 ^ shift * 2 ^ shift, shift⟩]
      if !bitOf e 0 then .error (level, Reason.invalid)
      else if bitsOf e 52 12 ≠ 0 ∨ bitsOf e 5 3 ≠ 0 ∨ (!leaf ∧ (bitOf e 1 ∨ bitOf e 2 ∨ bitOf e 4)) then
        .error (level, Reason.rsvd)
      else if leaf then
        if 4 ≤ level then .error (level, Reason.level)
        else if next % 2 ^ shift ≠ 0 then .error (level, Reason.align)
        else s.leafCheck ag va write level e ea next shift read
      else
        if level = 1 then .error (level, Reason.level)
        else if level ≠ 2 ∧ next % 4096 ≠ 0 then .error (level, Reason.align)
        else s.walkFrom ag va write lv next read

/-- The root of a context's tables (R352); none where its entry cannot be read. -/
def State.rootOf (s : State) (c : Nat) : Option Nat :=
  if s.unreadable (s.ctxEntry c) then none else some (s.peekNat (s.ctxEntry c) 8)

/-- A walk through the tables from the root of the context table entry (R199, R352). -/
def State.walkTables (s : State) (ag : Agent) (va write : Nat) : Except (Nat × Nat) Walk :=
  match s.rootOf ag.ctx with
  | none => .error (5, Reason.table)
  | some root =>
    if !bitOf root 0 then .error (5, Reason.invalid)
    else s.walkFrom ag (va % 2 ^ 57) write 5 (bitsOf root 12 40 * 4096) []

/-- The leaf that the TLBs of an agent's core and cluster hold for an address, with its place. -/
def State.leafHit (s : State) (ag : Agent) (va : Nat) : Option (CachePlace × CacheEntry) :=
  if ag.tlb then
    s.xlt.cache.find? fun (p, e) => (p == .micro ag.core || p == .cluster (clusterOf ag.core)) && e.ctx == ag.ctx &&
      decide (e.va ≤ va % 2 ^ 57 ∧ va % 2 ^ 57 < e.va + 2 ^ e.sizeLog2)
  else none

/-- What a cached leaf gives. -/
def State.leafWalk (s : State) (ag : Agent) (va write : Nat) (e : CacheEntry) : Except (Nat × Nat) Walk :=
  s.leafCheck ag (va % 2 ^ 57) write (if e.sizeLog2 = 16 then 1 else if e.sizeLog2 = 21 then 2 else 3) e.value e.entryAddr
    (bitsOf e.value 8 44 * 256) e.sizeLog2 []

/-- Two translations give the same access. -/
def sameWalk : Except (Nat × Nat) Walk → Except (Nat × Nat) Walk → Bool
  | .ok w, .ok v => w.pa == v.pa && w.leaf == v.leaf && w.sizeLog2 == v.sizeLog2
  | .error x, .error y => x == y
  | _, _ => false

/-- The translation of a context virtual address: the leaf that a TLB still holds where it gives something else than the tables,
else the tables (R199, R202, R203). -/
def State.walk (s : State) (ag : Agent) (va write : Nat) : Except (Nat × Nat) Walk :=
  let m := s.walkTables ag va write
  match s.leafHit ag va with
  | none => m
  | some (_, e) =>
    let h := s.leafWalk ag va write e
    if sameWalk h m then m else if Config.cacheKept ag.ctx e.entryAddr s.free then h else m

/-- Entries of a place of Table 8.9. -/
def CachePlace.size : CachePlace → Nat
  | .micro _ => 32
  | .cluster _ => 2048
  | .walker _ => 1024

/-- The entries of some places of Table 8.9 go. -/
def dropPlaces (p : CachePlace → Bool) : Upd := .xlt fun x => { x with cache := x.cache.filter (!p ·.1) }

/-- An entry joins its place; beyond the size the one that came first leaves (log entry 6). -/
def cachePut (p : CachePlace) (e : CacheEntry) (c : List (CachePlace × CacheEntry)) : List (CachePlace × CacheEntry) :=
  let c := c.filter fun o => !(o.1 == p && o.2.ctx == e.ctx && o.2.entryAddr == e.entryAddr)
  (if (c.filter (·.1 == p)).length < p.size then c else eraseFirst (·.1 == p) c) ++ [(p, e)]

/-- An entry that a walk read joins the caches: a leaf the TLBs, another the walk cache (R202). -/
def cacheEntry (ag : Agent) (c : List (CachePlace × CacheEntry)) (e : CacheEntry) : List (CachePlace × CacheEntry) :=
  if !bitOf e.value 3 then cachePut (.walker ag.die) e c
  else if ag.tlb then cachePut (.micro ag.core) e (cachePut (.cluster (clusterOf ag.core)) e c)
  else c

/-- The caches after a walk that read the entries `ws`. -/
def cacheFill (ag : Agent) (ws : List CacheEntry) : Upd := .xlt fun x => { x with cache := ws.foldl (cacheEntry ag) x.cache }

/-- The table entries that a walk reads, until one stops it. -/
def State.tablePath (s : State) (ag : Agent) (va : Nat) : Nat → Nat → List Nat
  | 0, _ => []
  | lv + 1, table =>
    let ea := table + 8 * (va / 2 ^ (if lv = 0 then 16 else 12 + 9 * lv) % (if lv = 0 then 32 else 512))
    ea :: match s.entryValue ag ea with
      | some e => if bitOf e 0 && !bitOf e 3 then s.tablePath ag va lv (bitsOf e 8 44 * 256) else []
      | none => []

/-- A logged translation fault (R210): counted always, logged while fewer than 32 entries stand. -/
def logXlt (ag : Agent) (va level reason : Nat) : Act := fun s =>
  [.inc Fld.xltCntFaults 1] ++
  (if s.xlt.log.length < 32 then
    [.xlt fun x => { x with log := x.log ++ [⟨va % 2 ^ 57,
      ag.ctx * 2 ^ 60 + ag.code * 2 ^ 56 + (if ag.code ≤ 1 then ag.core else 0) * 2 ^ 45 + level * 2 ^ 36 + reason * 2 ^ 32 +
        (if ag.code ≤ 1 then ag.tag % 65536 else 0)⟩] }]
   else [])

/-- The log entry of a stop: walk faults with their reason, foreign tags with reason RANGE at level 1 (Table 14.11). -/
def logStop (ag : Agent) (va : Nat) : Stop → Act
  | .walk a l r => logXlt ag a l r
  | .foreign _ => logXlt ag va 1 Reason.range
  | _ => nothing

/-- The translation of one address with the stop it gives. -/
def State.xlate (s : State) (ag : Agent) (va write : Nat) : Except Stop Walk :=
  match s.walk ag va write with
  | .error (l, r) => .error (.walk (va % 2 ^ 57) l r)
  | .ok w => .ok w

/-- A refusal by tag or firewall on a walked address is reported like a walk fault of reason RANGE at the leaf's
level (Table 14.11; DEDUCED, log entry 7). -/
def Stop.atLeaf (va sizeLog2 : Nat) : Stop → Stop
  | .foreign _ => .walk (va % 2 ^ 57) (if sizeLog2 = 16 then 1 else if sizeLog2 = 21 then 2 else 3) Reason.range
  | e => e

/-- The result of an access at a leaf. -/
def atLeaf (va sizeLog2 : Nat) : Except Stop Bytes → Except Stop Bytes
  | .error e => .error (e.atLeaf va sizeLog2)
  | .ok b => .ok b

/-- Why a pool bank does not serve an access of a core for a context now (Table 7.3, R167, R168, R171, R176). -/
def State.bankStop (s : State) (ag : Agent) (a : Nat) : Option Stop :=
  let b := (a - Config.poolBase) / Config.bankBytes
  let o := s.fget (Fld.poolOwnerOwner b)
  if !s.flag (Fld.poolOwnerValid b) ∨ s.fget (Fld.poolOwnerContext b) ≠ ag.ctx then some (.bank b)
  else if s.flag (Fld.poolOwnerBusy b) then
    (if (s.bank b).handover = some ag.core ∨ (s.bank b).handover = some 0xFFFE then some (.bankHeld b false) else some (.bank b))
  else if o ≠ ag.core ∧ o ≠ 0xFFFE then some (.bank b)
  else if s.fget (Fld.poolStateStatus b) = 3 then some (.bankHeld b false)
  else if s.fget (Fld.poolStateCurrent b) = 2 ∨ (s.bank b).goal = some 2 then some (.bank b)
  else if s.fget (Fld.poolStateCurrent b) = 1 ∨ (s.bank b).goal = some 1 then some (.bankHeld b true)
  else none

/-- Bytes of a virtual range for an agent: each 64 KiB page is walked as it is first used (R68). -/
def State.readVa (s : State) (ag : Agent) (va n : Nat) : Except Stop Bytes :=
  joinReads ((pagePieces va n).map fun (a, k) =>
    match s.xlate ag a 0 with
    | .error e => .error e
    | .ok w =>
      if s.region w.pa == .window then .error (.remote w.pa k (w.pa, k))
      else match (if s.region w.pa == .pool then s.bankStop ag w.pa else none) with
        | some e => .error e
        | none => atLeaf a w.sizeLog2 (s.readPhys ag.ctx w.pa k))

/-- The first stop of a store to a virtual range. -/
def State.checkVa (s : State) (ag : Agent) (va n : Nat) : Option Stop :=
  (pagePieces va n).findSome? fun (a, k) =>
    match s.xlate ag a 1 with
    | .error e => some e
    | .ok w =>
      if s.region w.pa == .window then none
      else if s.region w.pa == .pool then s.bankStop ag w.pa
      else (s.checkPhys ag.ctx w.pa k).map (Stop.atLeaf a w.sizeLog2)

/-- The pieces of a store without those in the lines of `lost`. -/
def keptPieces (lost : List Nat) (a : Nat) (d : Bytes) : List (Nat × Bytes) :=
  if lost = [] then [(a, d)]
  else ((linePieces a d.length).filter fun p => !lost.contains (p.1 / 64)).map fun p => (p.1, slice d (p.1 - a) p.2)

/-- A store to a virtual range that has been checked; what falls in the lines of `lost` is dropped (R291). -/
def storeVaBut (lost : List Nat) (ag : Agent) (va : Nat) (d : Bytes) : Act := fun s =>
  seqA ((pagePieces va d.length).map fun (a, k) => fun s =>
    match s.xlate ag a 1 with
    | .error _ => []
    | .ok w => if s.region w.pa == .window then []
      else forA (keptPieces lost w.pa (slice d (a - va) k)) (fun (b, x) => storeCtx ag.ctx b x) s) s

/-- A store to a virtual range that has been checked. -/
def storeVa (ag : Agent) (va : Nat) (d : Bytes) : Act := storeVaBut [] ag va d

/-- Every physical piece that a virtual range maps to, for marking its bytes as undefined data. -/
def State.physPieces (s : State) (ag : Agent) (va n : Nat) : List (Nat × Nat) :=
  (pagePieces va n).filterMap fun (a, k) =>
    match s.walk ag a 2 with
    | .ok w => if s.region w.pa == .window then none else some (w.pa, k)
    | .error _ => none

/-- The physical pieces of a virtual range that an agent may write: a refused write has no effect (R167), so a fault leaves
them alone (log entry 37). -/
def State.writePieces (s : State) (ag : Agent) (va n : Nat) : List (Nat × Nat) :=
  (pagePieces va n).filterMap fun (a, k) =>
    match s.xlate ag a 1 with
    | .error _ => none
    | .ok w =>
      if s.region w.pa == .window then none
      else if s.region w.pa == .pool then (match s.bankStop ag w.pa with
        | some (.bank _) => none
        | _ => some (w.pa, k))
      else if (s.checkPhys ag.ctx w.pa k).isSome then none
      else some (w.pa, k)

/-- The bytes of a virtual range become undefined data where the agent may write them. -/
def undefVa (ag : Agent) (va n : Nat) : Act := fun s => (s.writePieces ag va n).map fun (a, k) => .undef a k

/-! ## Errors of the tiers -/

/-- Tier index of an address: 0 fast, 1 slow. -/
def tierOf (a : Nat) : Nat := if a < Config.fastEnd then 0 else 1

/-- Adds an entry to a tier's error log, or counts it as lost at 64 entries (R183, R208). -/
def logMemErr (line ctx agent kind ce : Nat) : Act := fun s =>
  let t := tierOf line
  let (unit, chan) := if t = 0 then fastRoute line else slowRoute line
  let cnt := if t = 0 then Fld.memfErrCntLogLost else Fld.memsErrCntLogLost
  if (s.tier t).log.length < 64 then
    [.tier t fun x => { x with log := x.log ++ [⟨line / 64 * 64,
      ctx * 2 ^ 52 + agent * 2 ^ 40 + kind * 2 ^ 36 + unit * 2 ^ 24 + chan * 2 ^ 16 + ce % 65536⟩] }]
  else [.inc cnt 1]

end Sys2Proof.Machine
end

