-- ==== Sys2Proof/Machine/Operands.lean ====
section
/-! DEFINITION. The operand forms of the commands: the fields of tile commands (R62 to R66), of ring commands (Table 10.4)
and the places of ring entries. -/

namespace Sys2Proof.Machine

open Sys2Proof

/-! ## Rings in the fast tier and in host memory -/

/-- Entries of a ring in the layout of MEMS_MIG_RING (R208): 64 << size_code. -/
def ringEntries (code : Nat) : Nat := 64 * 2 ^ code

/-- Address of entry `i` of a ring: entries follow the index line (R192); counts run on and wrap with the ring. -/
def ringSlot (base code size i : Nat) : Nat := base + 64 + (i % ringEntries code) * size

/-- The distance from one 32-bit count to another. -/
def countDiff (a b : Nat) : Nat := (a + 2 ^ 32 - b) % 2 ^ 32

/-- The next value of a 32-bit count. -/
def countUp (a : Nat) : Nat := (a + 1) % 2 ^ 32

/-! ## Fields common to tile commands (R62) -/

/-- Opcode of a tile command. -/
def QCmd.opcode (q : QCmd) : Nat := fieldAt q.bytes 0x00 1
/-- Core group named by a tile command. -/
def QCmd.group (q : QCmd) : Nat := fieldAt q.bytes 0x06 1
/-- Serving period of a tile command; 0 for work that periods never drop. -/
def QCmd.periodTag (q : QCmd) : Nat := fieldAt q.bytes 0x0C 2
/-- Tag that the issuer chose. -/
def QCmd.tileTag (q : QCmd) : Nat := fieldAt q.bytes 0x0E 2
/-- A TAA command's row_list flag (Table 3.5), for the opcodes that read that table. -/
def QCmd.rowList (q : QCmd) : Bool := 1 ≤ q.opcode && q.opcode ≤ 5 && bitOf (fieldAt q.bytes 0x01 1) 3

/-- GROUP_FENCE (Table 3.4). -/
def opFence : Nat := 0x0E

/-- Every field of a GROUP_FENCE beyond the common ones is zero (R74). -/
def fenceFieldsOk (b : Bytes) : Bool :=
  fieldAt b 0x01 5 == 0 && fieldAt b 0x07 5 == 0 && fieldAt b 0x10 48 == 0

/-! ## TAA and CU commands (Tables 3.5, R65) -/

/-- A TAA, CU_GEMM or CU_WGRAD command. -/
structure TaaCmd where
  transpose : Bool
  wSparse : Bool
  aSparse : Bool
  rowList : Bool
  actFmt : Nat
  block : Nat
  outFmt : Nat
  rows : Nat
  splitLog2 : Nat
  splitIdx : Nat
  columns : Nat
  kSlices : Nat
  layer : Nat
  wVa : Nat
  aVa : Nat
  sVa : Nat
  oVa : Nat
  wideVa : Nat
  tscale : BitVec 32
  stageBase : Nat
  stageLines : Nat
  deriving DecidableEq, Repr

/-- The fields of Table 3.5. `block` is in elements, `rows` in rows. -/
def taaOf (b : Bytes) : TaaCmd :=
  let fl := fieldAt b 1 1
  let fmt := fieldAt b 2 1
  let sh := fieldAt b 3 1
  { transpose := bitOf fl 0, wSparse := bitOf fl 1, aSparse := bitOf fl 2, rowList := bitOf fl 3
    actFmt := bitsOf fmt 0 2, block := 32 * 2 ^ bitsOf fmt 2 2, outFmt := bitsOf fmt 4 2
    rows := 64 * 2 ^ bitsOf sh 0 2, splitLog2 := bitsOf sh 4 3, splitIdx := fieldAt b 4 1
    columns := fieldAt b 5 1, kSlices := fieldAt b 8 2, layer := fieldAt b 0x0A 2
    wVa := bitsOf (fieldAt b 0x10 8) 0 57, aVa := bitsOf (fieldAt b 0x18 8) 0 57
    sVa := bitsOf (fieldAt b 0x20 8) 0 57, oVa := bitsOf (fieldAt b 0x28 8) 0 57
    wideVa := bitsOf (fieldAt b 0x30 8) 0 57, tscale := BitVec.ofNat 32 (fieldAt b 0x38 4)
    stageBase := fieldAt b 0x3C 2, stageLines := fieldAt b 0x3E 2 }

/-- The rsvd bits [63:57] of the virtual address fields at the given offsets are zero. -/
def vaRsvdOk (b : Bytes) (offs : List Nat) : Bool := offs.all fun o => fieldAt b o 8 < 2 ^ 57

/-- Rsvd fields and reserved codes of Table 3.5 (R68 step 1). -/
def taaCodesOk (b : Bytes) : Bool :=
  fieldAt b 1 1 < 16 && fieldAt b 2 1 < 32 && bitsOf (fieldAt b 3 1) 0 2 != 3 && bitsOf (fieldAt b 3 1) 2 2 == 0 &&
  !bitOf (fieldAt b 3 1) 7 && fieldAt b 7 1 == 0 && vaRsvdOk b [0x10, 0x18, 0x20, 0x28, 0x30]

/-- The staging region lies in the galley (Table 3.5). -/
def stageOk (base lines : Nat) : Bool := base ≤ 4095 && 64 ≤ lines && lines ≤ 4096 && base + lines ≤ 4096

/-! ## VEC commands (Table 3.6) -/

/-- A VEC command. -/
structure VecCmd where
  subOp : Nat
  inFmt : Nat
  outFmt : Nat
  columnLen : Nat
  count : Nat
  src0 : Nat
  src1 : Nat
  src2 : Nat
  dst : Nat
  p0 : BitVec 32
  p1 : BitVec 32
  stageBase : Nat
  stageLines : Nat
  deriving DecidableEq, Repr

/-- The fields of Table 3.6. -/
def vecOf (b : Bytes) : VecCmd :=
  { subOp := fieldAt b 1 1, inFmt := bitsOf (fieldAt b 2 1) 0 4, outFmt := bitsOf (fieldAt b 2 1) 4 4
    columnLen := fieldAt b 4 2, count := fieldAt b 8 4
    src0 := bitsOf (fieldAt b 0x10 8) 0 57, src1 := bitsOf (fieldAt b 0x18 8) 0 57
    src2 := bitsOf (fieldAt b 0x20 8) 0 57, dst := bitsOf (fieldAt b 0x28 8) 0 57
    p0 := BitVec.ofNat 32 (fieldAt b 0x30 4), p1 := BitVec.ofNat 32 (fieldAt b 0x34 4)
    stageBase := fieldAt b 0x3C 2, stageLines := fieldAt b 0x3E 2 }

/-- Rsvd fields and reserved codes of Table 3.6; a format code of 9 to 15 is rsvd (R68 step 1). -/
def vecCodesOk (b : Bytes) : Bool :=
  bitsOf (fieldAt b 2 1) 0 4 ≤ 8 && bitsOf (fieldAt b 2 1) 4 4 ≤ 8 && fieldAt b 3 1 == 0 && fieldAt b 7 1 == 0 &&
  vaRsvdOk b [0x10, 0x18, 0x20, 0x28] && fieldAt b 0x38 4 == 0

end Sys2Proof.Machine
end

