-- ==== Sys2Proof/Machine/Flags.lean ====
section
/-! DEFINITION. Status flags and their events to the host: vectors of Table 12.5, logs with a `valid` bit, error counts. -/

namespace Sys2Proof.Machine

open Sys2Proof

/-! ## Vectors of Table 12.5 -/

/-- Mailbox. -/
def Vec.mailbox : Nat := 0
/-- Faults. -/
def Vec.faults : Nat := 1
/-- Memory error. -/
def Vec.memory : Nat := 2
/-- Imposition loader. -/
def Vec.loader : Nat := 3
/-- Migration engine. -/
def Vec.migration : Nat := 4
/-- Packers. -/
def Vec.packers : Nat := 5
/-- Page service. -/
def Vec.pages : Nat := 6
/-- Release rings. -/
def Vec.release : Nat := 7
/-- Self-test. -/
def Vec.selfTest : Nat := 8
/-- Huras links. -/
def Vec.links : Nat := 9
/-- Power and thermal. -/
def Vec.power : Nat := 10
/-- CXL port. -/
def Vec.port : Nat := 11

/-- A bit of CXL_RING_ERR sets and vector 1 is raised (Table 12.5). -/
def ringErr (r : Nat) : Act := fun _ => [.fld (Fld.cxlRingErrRing.item r) 1, .msix Vec.faults]

/-- The record of a core's first unacknowledged fault, or its overflow bit (CORE_FAULT, R78, R79). -/
def setCoreFault (n : Nat) (q : QCmd) (cause : Nat) : Act := fun s =>
  if s.flag (Fld.coreFaultValid n) then [.fld (Fld.coreFaultOverflow n) 1]
  else [.fld (Fld.coreFaultTileTag n) q.tileTag, .fld (Fld.coreFaultPeriodTag n) q.periodTag,
    .fld (Fld.coreFaultOpcode n) q.opcode, .fld (Fld.coreFaultCause n) cause, .fld (Fld.coreFaultValid n) 1]

/-- A partial reset is counted before it takes effect (R349). -/
def countReset (kind : Nat) : Act := fun s =>
  [.fld Fld.secResetgenCount (s.fget Fld.secResetgenCount + 1), .fld Fld.secStatusLastReset kind]

/-- An access, command or frame reaches a clock domain: a stopped one starts, which is counted, and what reached it goes on (R374). -/
def demand (d : Nat) : Act := fun s =>
  if s.fget (Fld.clkDomState d) = 2 then [] else [.fld (Fld.clkDomState d) 2, .inc (Fld.clkDomStarts d) 1]

/-- A die's core clock and its fabric are reached. -/
def demandDie (d : Nat) : Act := seqA [demand d, demand (4 + d)]

/-! ## Fault classes (Table 16.2) and their records -/

/-- Codes of tile command faults (CORE_FAULT.cause, R79). -/
def Cmd.command : Nat := 1
/-- SHAPE. -/
def Cmd.shape : Nat := 2
/-- FORMAT. -/
def Cmd.format : Nat := 3
/-- SPARSE. -/
def Cmd.sparse : Nat := 4
/-- NUMERIC. -/
def Cmd.numeric : Nat := 5
/-- TRANSLATION. -/
def Cmd.translation : Nat := 6
/-- POISON. -/
def Cmd.poison : Nat := 7

end Sys2Proof.Machine
end

