-- ==== Sys2Proof/Machine/LinkBase.lean ====
section
/-! DEFINITION. Huras links: frames and their headers, counters, replay, credits, sending, the error log, fences, and the
module's place in the formation of the fabric. R302 to R312, R316, R322, R323, R325 to R330. -/

namespace Sys2Proof.Machine

open Sys2Proof

/-! ## Frames (Table 13.3) -/

/-- A frame header taken apart. -/
structure Head where
  kind : Nat
  vc : Nat
  hops : Nat := 15
  src : Nat
  dst : Nat
  ctx : Nat := 0
  window : Nat := 0
  offset : Nat := 0
  count : Nat := 0
  poison : Nat := 0
  tag : Nat := 0
  coded : Bool := false
  seqLo : Nat := 0
  crc : Nat := 0
  deriving DecidableEq, Repr

/-- Types of Table 13.4. -/
def Ft.write : Nat := 1
/-- READ_REQ. -/
def Ft.readReq : Nat := 2
/-- READ_RSP. -/
def Ft.readRsp : Nat := 3
/-- NACK. -/
def Ft.nack : Nat := 4
/-- WRITE_ACK. -/
def Ft.writeAck : Nat := 5
/-- CREDIT. -/
def Ft.credit : Nat := 6

/-- The fields of a header. -/
def headOf (h : BitVec 128) : Head :=
  let x := h.toNat
  { kind := bitsOf x 0 4, vc := bitsOf x 4 2, hops := bitsOf x 6 4, src := bitsOf x 10 9, dst := bitsOf x 19 9
    ctx := bitsOf x 28 4, window := bitsOf x 32 16, offset := bitsOf x 48 22, count := bitsOf x 70 2
    poison := bitsOf x 72 4, tag := bitsOf x 76 11, coded := bitOf x 87, seqLo := bitsOf x 88 8, crc := bitsOf x 96 32 }

/-- The bits of a header. -/
def Head.bits (h : Head) : BitVec 128 :=
  BitVec.ofNat 128 (h.kind + h.vc * 2 ^ 4 + h.hops * 2 ^ 6 + h.src * 2 ^ 10 + h.dst * 2 ^ 19 + h.ctx * 2 ^ 28 +
    h.window * 2 ^ 32 + h.offset * 2 ^ 48 + h.count * 2 ^ 70 + h.poison * 2 ^ 72 + h.tag * 2 ^ 76 + b2n h.coded * 2 ^ 87 +
    h.seqLo * 2 ^ 88 + h.crc * 2 ^ 96)

/-- The payload bytes of a frame. -/
def frameBytes (f : Frame) : Bytes := leBytes 256 f.payload.toNat

/-- A frame before it is sent: header and payload, no counter and no check yet. -/
def mkFrame (h : Head) (payload : Bytes) : Frame := ⟨h.bits, BitVec.ofNat 2048 (leNat (payload.take 256)), 0⟩

/-- The header of a frame. -/
def frameHead (f : Frame) : Head := headOf f.header

/-- CRC-32C of R21 over header bytes 0 to 11 and the payload. -/
def frameCrc (h : Head) (payload : BitVec 2048) : Nat :=
  (crc32c (leBytes 12 (h.bits.toNat % 2 ^ 96) ++ leBytes 256 payload.toNat)).toNat

/-! ## States and identities -/

/-- State codes of Table 13.5. -/
def Ls.disabled : Nat := 0
/-- TRAINING. -/
def Ls.training : Nat := 1
/-- HELLO. -/
def Ls.hello : Nat := 2
/-- ATTEST. -/
def Ls.attest : Nat := 3
/-- UP. -/
def Ls.up : Nat := 4
/-- ABSENT. -/
def Ls.absent : Nat := 5
/-- FAILED. -/
def Ls.failed : Nat := 6
/-- FENCED. -/
def Ls.fenced : Nat := 7

/-- State of link `l`. -/
def State.linkState (s : State) (l : Nat) : Nat := s.fget (Fld.hlLstatState l)
/-- Link `l` is UP. -/
def State.linkIsUp (s : State) (l : Nat) : Bool := s.linkState l == Ls.up
/-- Link `l` runs Huras 3.0. -/
def State.linkNew (s : State) (l : Nat) : Bool := s.fget (Fld.hlLstatProto l) == 2
/-- Links that are UP. -/
def State.upLinks (s : State) : List Nat := (List.range 12).filter s.linkIsUp
/-- UP links that take part in the formation of the fabric (R310). -/
def State.fabricLinks (s : State) : List Nat := s.upLinks.filter s.linkNew
/-- The module's own fabric identity (R324). -/
def State.ownId (s : State) : Nat := s.fget Fld.hlFabricFabricId
/-- The module is READY (R327). -/
def State.fabricReady (s : State) : Bool := s.fget Fld.hlFabricStage == 6

/-- Reasons of Table 13.8. -/
def Hr.noWindow : Nat := 0x01
/-- PEER. -/
def Hr.peer : Nat := 0x02
/-- DIRECTION. -/
def Hr.direction : Nat := 0x03
/-- RANGE. -/
def Hr.range : Nat := 0x04
/-- VERSION. -/
def Hr.version : Nat := 0x05
/-- NOT_RUNNING. -/
def Hr.notRunning : Nat := 0x06
/-- NO_TURN. -/
def Hr.noTurn : Nat := 0x07
/-- SPOOF. -/
def Hr.spoof : Nat := 0x08
/-- RSVD. -/
def Hr.rsvd : Nat := 0x09
/-- HOPS, NO_ROUTE. -/
def Hr.noRoute : Nat := 0x0A
/-- TIMEOUT. -/
def Hr.timeout : Nat := 0x0B
/-- OUT_SLOT. -/
def Hr.outSlot : Nat := 0x0C
/-- CODED. -/
def Hr.coded : Nat := 0x0D
/-- FENCE_CHECKS. -/
def Hr.fenceChecks : Nat := 0x10
/-- FENCE_AUTH. -/
def Hr.fenceAuth : Nat := 0x11
/-- FENCE_STALL. -/
def Hr.fenceStall : Nat := 0x12
/-- FENCE_HELLO. -/
def Hr.fenceHello : Nat := 0x13
/-- FENCE_ATTEST. -/
def Hr.fenceAttest : Nat := 0x14
/-- ABSENT. -/
def Hr.absent : Nat := 0x15

/-- An entry of HL_ERR_LOG; beyond 32 entries none is logged (R330). -/
def logHl (reason link src window ctx offset tag : Nat) : Act := fun s =>
  if s.hlErrs.length < 32 then
    [.hlErrs (· ++ [(reason * 2 ^ 48 + link * 2 ^ 44 + src * 2 ^ 32 + window * 2 ^ 16 + ctx * 2 ^ 12, offset * 2 ^ 16 + tag)])]
  else []

/-! ## Sending (R305, R306, R311) -/

/-- Pool of frame buffers of a channel at each receiver. -/
def vcPool (vc : Nat) : Nat := if vc = 2 then 64 else 3072

/-- Channel of what is sent; CREDIT frames are uncredited (none). -/
def Sent.vc : Sent → Option Nat
  | .data f => if (frameHead f).kind = Ft.credit then none else some (frameHead f).vc
  | .ctrl _ => some 2

/-- One element of a list replaced. -/
def listSet (xs : List Nat) (i v : Nat) : List Nat := xs.zipIdx.map fun (x, j) => if j = i then v else x

/-- A credit is held for a channel. -/
def LinkState.creditFor (x : LinkState) (vc : Nat) : Bool :=
  decide ((x.sentOn.getD vc 0 + 65536 - x.gotBack.getD vc 0) % 65536 < vcPool vc)

/-- What is sent can leave now: replay room, nothing to be sent again before it, and credit on its channel. -/
def LinkState.canSend (x : LinkState) (m : Sent) : Bool :=
  decide (x.replay.length < 3072) && x.resending.isEmpty && (match m.vc with | none => true | some vc => x.creditFor vc)

/-- The protection mode at counter `n`: 1 rack-trusted (R322). -/
def State.modeAtCounter (s : State) (l n : Nat) : Nat :=
  match (s.link l).modeAt with
  | some (c, m) => if c ≤ n then m else s.fget (Fld.hlLstatMode l)
  | none => s.fget (Fld.hlLstatMode l)

/-- The direction identifier of R305. -/
def directionId (id link : Nat) : Nat := id * 16 + link

/-- The seal key of a counter epoch in a direction (R351). -/
def State.sealKey (s : State) (l direction epoch : Nat) : BitVec 256 :=
  Config.hkdfExpand ((s.link l).session.getD 0) (asciiBytes "HURAS-SEAL" ++ leBytes 4 direction ++ leBytes 4 epoch)

/-- The nonce of a frame: the direction identifier, followed by the counter (R305). -/
def sealNonce (direction n : Nat) : BitVec 96 := BitVec.ofNat 96 (direction * 2 ^ 64 + n)

/-- The payload of a sealed frame with the key stream of its counter added: this encrypts and decrypts (R305). -/
def State.sealPayload (s : State) (l direction n : Nat) (p : BitVec 2048) : BitVec 2048 :=
  p ^^^ Config.gcmStream (s.sealKey l direction (n / 2 ^ 32)) (sealNonce direction n)

/-- The tag of a sealed frame. -/
def State.sealTag (s : State) (l direction n : Nat) (h : BitVec 128) (p : BitVec 2048) : BitVec 128 :=
  Config.gcmTag (s.sealKey l direction (n / 2 ^ 32)) (sealNonce direction n) h p

/-- A frame as it leaves under counter `n`: counter, and CRC, or encrypted payload and GCM tag (R303, R305). -/
def State.stamp (s : State) (l n : Nat) (f : Frame) : Frame :=
  let h := { frameHead f with seqLo := n % 256, crc := 0 }
  if s.modeAtCounter l n = 1 then { f with header := { h with crc := frameCrc h f.payload }.bits, tag := 0 }
  else
    let d := directionId s.ownId l
    let p := s.sealPayload l d n f.payload
    ⟨h.bits, p, s.sealTag l d n h.bits p⟩

/-- A frame or message leaves on a link. -/
def emit (l : Nat) (m : Sent) : Act := fun s =>
  let x := s.link l
  let n := x.txCounter
  let m := match m with | .data f => Sent.data (s.stamp l n f) | .ctrl c => .ctrl c
  [.link l fun x => { x with
      txCounter := (n + 1) % 2 ^ 64
      replay := x.replay ++ [(n, m)]
      sentOn := match m.vc with | none => x.sentOn | some v => listSet x.sentOn v ((x.sentOn.getD v 0 + 1) % 65536) },
   .fld (Fld.hlLtrafFramesOut l) (s.fget (Fld.hlLtrafFramesOut l) + 1),
   .out (match m with | .data f => .frame l f | .ctrl c => .ctrl l c)]

/-- A frame or message is sent, or waits behind what waits on its channel. -/
def sendOn (l : Nat) (m : Sent) : Act := fun s =>
  let x := s.link l
  if x.canSend m && !x.waiting.any (·.vc == m.vc) then emit l m s
  else [.link l fun x => { x with waiting := x.waiting ++ [m] }]

/-- A frame of the replay buffer is sent again, unchanged, under a credit of its channel; without one it waits, and
everything behind it (R306, R311). -/
def resendOn (l : Nat) (r : Nat × Sent) : Act := fun s =>
  let x := s.link l
  if x.resending.isEmpty && (match r.2.vc with | none => true | some vc => x.creditFor vc) then
    [.link l fun x => { x with
        sentOn := match r.2.vc with | none => x.sentOn | some v => listSet x.sentOn v ((x.sentOn.getD v 0 + 1) % 65536) },
     .fld (Fld.hlLtrafFramesOut l) (s.fget (Fld.hlLtrafFramesOut l) + 1),
     .out (match r.2 with | .data f => .frame l f | .ctrl c => .ctrl l c)]
  else [.link l fun x => { x with resending := x.resending ++ [r] }]

/-- What waits on a link is tried again, in order, as far as credit and replay room go; what is sent again goes first. -/
def flush (l : Nat) : Act := fun s =>
  let x := s.link l
  seqA [act [.link l fun x => { x with waiting := [], resending := [] }], forA x.resending (resendOn l),
    forA x.waiting (sendOn l)] s

/-- A CTRL message is sent. -/
def sendCtrl (l : Nat) (m : CtrlMsg) : Act := sendOn l (.ctrl m)

/-- A CTRL message is sent on every link of a list. -/
def flood (ls : List Nat) (m : CtrlMsg) : Act := forA ls (sendCtrl · m)

/-! ## Receiving (R305, R311) -/

/-- The refusals and authentication failures of the current interval of 1 ms (R323). -/
def countMs (l refusals auths : Nat) : Act := fun s =>
  let now := s.ticks / 100000
  [.link l fun x =>
    let x := if x.countMs = now then x else { x with countMs := now, refusals := 0, authFails := 0 }
    { x with refusals := x.refusals + refusals, authFails := x.authFails + auths }]

/-- A frame's buffer is free: its credit is owed to the partner. -/
def oweCredit (l vc : Nat) : Upd := .link l fun x => { x with owed := listSet x.owed vc ((x.owed.getD vc 0 + 1) % 65536) }

/-- A frame is counted as received. -/
def framesIn (l : Nat) : Act := fun s => [.fld (Fld.hlLtrafFramesIn l) (s.fget (Fld.hlLtrafFramesIn l) + 1)]

/-- The receive counter passes a frame that is in order. -/
def inOrder (l : Nat) : Upd := .link l fun x => { x with rxCounter := (x.rxCounter + 1) % 2 ^ 64, discarding := false }

/-- The direction identifier of what arrives on a link. -/
def State.directionIn (s : State) (l : Nat) : Nat := directionId (s.fget (Fld.hlLstatPeerId l)) (s.link l).peerLink

/-- A frame carries the expected counter and passes its CRC or its tag (R305). -/
def State.authentic (s : State) (l : Nat) (f : Frame) : Bool :=
  let x := s.link l
  let h := frameHead f
  h.seqLo == x.rxCounter % 256 &&
  (if s.modeAtCounter l x.rxCounter = 1 then h.crc == frameCrc { h with crc := 0 } f.payload
   else f.tag == s.sealTag l (s.directionIn l) x.rxCounter f.header f.payload)

/-- A frame in order with its payload decrypted (R305). -/
def State.opened (s : State) (l : Nat) (f : Frame) : Frame :=
  let n := (s.link l).rxCounter
  if s.modeAtCounter l n = 1 then f else { f with payload := s.sealPayload l (s.directionIn l) n f.payload }

/-- Check 1 of Table 13.7 fails: the frame is discarded and counted, its buffer is free, and its resend is asked for
(R305, R306, R311). -/
def discardOn (l seqLo : Nat) (vc : Option Nat) : Act := fun s =>
  let x := s.link l
  let ask := !x.discarding || seqLo == x.rxCounter % 256
  seqA [act ([.inc (Fld.hlLerrAuthFail l) 1] ++ (match vc with | some v => [oweCredit l v] | none => [])),
    countMs l 0 1,
    if ask then seqA [act [.inc (Fld.hlLerrReplays l) 1, .link l fun x => { x with discarding := true }],
      sendCtrl l (.nak x.rxCounter)] else nothing] s

/-- The credited channel of a frame. -/
def Head.credited (h : Head) : Option Nat := if h.kind = Ft.credit ∨ 3 ≤ h.vc then none else some h.vc

/-- A frame fails check 1. -/
def discardFrame (l : Nat) (f : Frame) : Act := discardOn l (frameHead f).seqLo (frameHead f).credited

/-- A CTRL message arrives: in order and intact it is taken and its buffer is free at once; any other is discarded like
every frame (R305, R306). -/
def recvCtrl (l : Nat) (c : CtrlSeal) (good : Act) : Act := fun s =>
  if c.intact ∧ c.seqLo.toNat = (s.link l).rxCounter % 256 then seqA [framesIn l, act [inOrder l, oweCredit l 2], good] s
  else seqA [framesIn l, discardOn l c.seqLo.toNat (some 2)] s

/-- The buffer of a frame is free, once it has been handled. -/
def frameFree (l : Nat) (f : Frame) : Act :=
  act (match (frameHead f).credited with | some v => [oweCredit l v] | none => [])

/-- A frame arrives on an UP link: it is counted and checked, and a good one is decrypted and handled. -/
def recvFrame (l : Nat) (f : Frame) (good : Frame → Act) : Act := fun s =>
  if !s.linkIsUp l then []
  else if !s.authentic l f then seqA [demand 12, framesIn l, discardFrame l f] s
  else seqA [demand 12, framesIn l, act [inOrder l], good (s.opened l f)] s

/-! ## Routes and refusals (R316, R321) -/

/-- The departure link towards an identity; an excluded one has no route (R326). -/
def State.routeTo (s : State) (dst : Nat) : Option Nat :=
  if s.fabric.excluded.contains dst then none else match tabGet (fun _ => (none : Option Route)) s.fabric.routes dst with
  | some r => some r.link
  | none => none

/-- The departure link for this module's own requests: none before READY (R327). -/
def State.outRoute (s : State) (dst : Nat) : Option Nat := if s.fabricReady then s.routeTo dst else none

/-- An answer travels towards its requester by the route table, or by the arrival link where no route is known. -/
def sendBack (l : Nat) (h : Head) (payload : Bytes) : Act := fun s =>
  sendOn ((s.routeTo h.dst).getD l) (.data (mkFrame h payload)) s

/-- The header of an answer to a request; the fields that the manual does not fix are those of the request
(log entry 25). -/
def Head.answer (h : Head) (kind own : Nat) : Head :=
  { h with kind := kind, vc := 1, hops := 15, src := own, dst := h.src, poison := 0, coded := false, seqLo := 0, crc := 0 }

/-- A frame is a request, or of a reserved type on the channel of requests (log entry 25). -/
def Head.asks (h : Head) : Bool := h.kind == Ft.write || h.kind == Ft.readReq || (decide (8 ≤ h.kind) && h.vc == 0)

/-- A frame is refused: logged, and a request is answered by a NACK (R316). Refusals by checks 2 to 10, whose reasons are 1
to 9, are counted (R323, HL_LERR.check_fail). -/
def refuseFrame (l : Nat) (h : Head) (reason : Nat) : Act :=
  seqA [if reason ≤ 9 then seqA [act [.inc (Fld.hlLerrCheckFail l) 1], countMs l 1 0] else nothing,
    logHl reason l h.src h.window h.ctx h.offset 0,
    if h.asks then fun s => sendBack l { h.answer Ft.nack s.ownId with offset := reason, count := 0 } [] s else nothing]

/-! ## Protection mode (R322) -/

/-- The conditions for a link to run rack-trusted. -/
def State.rackTrusted (s : State) (l : Nat) : Bool :=
  s.linkIsUp l && s.linkNew l && s.fabricReady && decide (16 < s.fget Fld.hlFabricModules) &&
  s.flag Fld.secProtRackTrust && (s.link l).peerFlags % 2 == 1 && (s.link l).peerTrust && s.ownId / 16 == s.fget (Fld.hlLstatPeerId l) / 16 &&
  (List.range 16).any fun c => s.ctxLive c && (s.image c).links.any fun e => e.link == l && e.protection == 1

/-- The mode that link `l` has or moves to. -/
def State.modeGoal (s : State) (l : Nat) : Nat :=
  match (s.link l).modeAt with
  | some (_, m) => m
  | none => s.fget (Fld.hlLstatMode l)

/-- A change of mode is asked for 4,096 frames ahead when the conditions have changed: towards rack-trusted by the end with
the lower identity, back to sealed by either end (log entry 26). -/
def reviewMode (l : Nat) : Act := fun s =>
  let want := b2n (s.rackTrusted l)
  if s.linkIsUp l ∧ s.linkNew l ∧ want ≠ s.modeGoal l ∧ (want = 0 ∨ s.ownId < s.fget (Fld.hlLstatPeerId l)) then
    let n := (s.link l).txCounter + 4096
    seqA [act [.link l fun x => { x with modeAt := some (n, want) }], sendCtrl l (.mode n)] s
  else []

/-- The modes of every link are reviewed. -/
def reviewModes : Act := forA (List.range 12) reviewMode

/-! ## Formation (R325 to R329) -/

/-- Links of a list with the identities of their partners. -/
def State.named (s : State) (ls : List Nat) : List (Nat × Nat) := ls.map fun l => (l, s.fget (Fld.hlLstatPeerId l))

/-- This module's TOPO: its partners on UP links, those of Huras 2.1 apart (R310, R327). -/
def State.ownTopo (s : State) : Topo :=
  ⟨s.ownId, s.named s.fabricLinks, s.named (s.upLinks.filter fun l => !s.linkNew l)⟩

/-- A TOPO as the coordinator keeps it: the newest of each identity. -/
def keepTopo (t : Topo) (f : Fabric) : Fabric := { f with topos := f.topos.filter (·.id != t.id) ++ [t], computed := false }

/-- This module's TOPO goes to the coordinator, or is kept when this is the coordinator. -/
def reportTopo : Act := fun s =>
  if s.flag Fld.hlFabricCoordinator then [.fabric (keepTopo s.ownTopo)]
  else match s.fabric.coordLink with
    | none => []
    | some l => sendCtrl l (.topo s.ownId s.ownTopo.partners s.ownTopo.leaves) s

/-- The coordinator is learned from link `l`: the message goes on over every link but `skip`, and the module reports its
topology. A hop count of 0 has come 16 hops, so the module is ISOLATED (R327, log entry 27). -/
def learnCoord (skip l : Option Nat) (id hops : Nat) : Act := fun s =>
  if hops = 0 then [.fld Fld.hlFabricStage 7, .fabric fun f => { f with electing := false }]
  else seqA [act [.fld Fld.hlFabricCoordId id, .fld Fld.hlFabricStage (if s.fabricReady then 6 else 5),
      .fabric fun f => { f with coordKnown := true, coordLink := l, coordHops := hops, electing := false, heartbeatTick := s.ticks }],
    flood (s.fabricLinks.filter fun k => some k != skip) (.coord id (hops - 1)), reportTopo] s

/-- Stage 6 starts at this module (R325, R328): a kept COORD is followed, or election runs. -/
def enterStage6 : Act := fun s =>
  match s.fabric.keptCoord with
  | some (id, l, hops) =>
    seqA [act [.fld Fld.hlFabricStage 4], learnCoord none (if s.linkIsUp l then some l else none) id hops] s
  | none =>
    let own := (s.ownId, Config.fingerprint)
    let best := match s.fabric.keptElect with
      | some (i, f) => if i < s.ownId then (i, f) else own
      | none => own
    seqA [act [.fld Fld.hlFabricStage 4,
        .fabric fun f => { f with best := best.1, bestFp := best.2, bestTick := s.ticks, electing := true }],
      flood s.fabricLinks (.elect best.1 best.2.toNat 15)] s

/-- The stage that the links give a module in training, hello or attestation (Table 13.9). -/
def stageReview : Act := fun s =>
  let st := s.fget Fld.hlFabricStage
  let has (k : Nat) := (List.range 12).any fun l => s.linkState l == k
  if st = 0 ∨ 4 ≤ st ∨ !s.flag Fld.hlCtrlForm then []
  else if has Ls.training then [.fld Fld.hlFabricStage 1]
  else if has Ls.hello then [.fld Fld.hlFabricStage 2]
  else if has Ls.attest then [.fld Fld.hlFabricStage 3]
  else if has Ls.disabled then []
  else enterStage6 s

/-! ## Link states (R308) -/

/-- The change that a link entering or leaving UP makes after READY (R329). -/
def linkChanged : Act := fun s => if s.fabricReady then reportTopo s else []

/-- A link enters a state; all that it holds of its session is cleared when it leaves what it was in (R308, R311, R351). -/
def linkTo (l state : Nat) : Act := fun s =>
  let wasUp := s.linkIsUp l
  seqA [act [.link l fun x => { shutting := x.shutting, lateHello := x.lateHello },
      .fld (Fld.hlLstatMode l) 0, .fld (Fld.hlLstatRate l) 0, .fld (Fld.hlLstatProto l) 0,
      .fld (Fld.hlLstatFenceReason l) 0, .fld (Fld.hlLstatState l) state],
    if wasUp ∧ s.fabric.coordLink = some l then act [.fabric fun f => { f with coordLink := none }] else nothing,
    if wasUp then linkChanged else nothing,
    raise Vec.links, stageReview] s

/-- A link is fenced (R323): it is logged, recorded and counted with its reason. -/
def fenceLink (l reason : Nat) : Act := fun s =>
  let peer := s.fget (Fld.hlLstatPeerId l)
  seqA [linkTo l Ls.fenced, act [.fld (Fld.hlLstatFenceReason l) reason], logHl reason l peer 0 0 0 0,
    faultRecord 0x0C 0 0xFF l reason peer 0 false] s

/-- A link goes to TRAINING. -/
def trainLink (l : Nat) : Act := seqA [demand 12, linkTo l Ls.training, act [.link l fun x => { x with lateHello := false }]]

/-- A link reaches UP (R351): its session key is drawn, and a module that knows the coordinator tells its partner. -/
def linkUp (l : Nat) : Act := fun s =>
  seqA [act [.link l fun x => { x with session := some s.sec.nextKey }, .sec fun x => { x with nextKey := x.nextKey + 1 },
      .fld (Fld.hlLstatState l) Ls.up],
    if s.fabric.coordKnown ∧ s.linkNew l ∧ s.fget Fld.hlFabricStage ≠ 7 then
      sendCtrl l (.coord (s.fget Fld.hlFabricCoordId) (s.fabric.coordHops - 1)) else nothing,
    linkChanged, reviewMode l, raise Vec.links, stageReview] s

end Sys2Proof.Machine
end

