-- ==== Sys2Proof/Machine/Ledger.lean ====
section
/-! DEFINITION. KV pages: their size, the ledger, the free and release rings, pins. R255 to R260, R266, R275. -/

namespace Sys2Proof.Machine

open Sys2Proof

/-! ## Geometry -/

/-- Tokens of a KV page from a page code (Table 2.12). -/
def pageTokensOf (code : Nat) : Nat := 128 * 2 ^ code

/-- Tokens of a KV page of a context (R255). -/
def State.pageTokens (s : State) (c : Nat) : Nat := pageTokensOf (s.image c).pageCode

/-- K and V bytes of one token of one layer. -/
def State.rowBytes (s : State) (c : Nat) : Nat := 2 ^ s.fget (Fld.attGeomRowLog2 c)

/-- Bytes of a KV page of a context (R255). -/
def State.pageBytes (s : State) (c : Nat) : Nat := s.pageTokens c * s.rowBytes c

/-- First address of a request slot's range (R201). -/
def slotBase (slot : Nat) : Nat := 0x0100_0000_0000_0000 + slot * 0x40_0000_0000

/-- Address of the page that holds a position of a layer (R256). -/
def State.pageVa (s : State) (c slot layer pos : Nat) : Nat :=
  slotBase slot + layer * 2 ^ s.fget (Fld.attGeomStrideLog2 c) + pos / s.pageTokens c * s.pageBytes c

/-- Address of a row of tree scratch (Table 11.1). -/
def State.scratchVa (s : State) (c slot layer row : Nat) : Nat :=
  slotBase slot + 0x3E_0000_0000 + (layer * 128 + row) * s.rowBytes c

/-! ## Ledger entries (R259) -/

/-- One ledger entry. -/
structure LedgerEntry where
  refcount : Nat := 0
  pins : Nat := 0
  ctx : Nat := 0
  state : Nat := 0
  deriving DecidableEq, Repr

/-- Address of the ledger entry of a frame. -/
def State.ledgerAddr (s : State) (pa : Nat) : Nat := s.fget Fld.attLedgerBase * 65536 + 8 * frameOf pa

/-- The ledger entry of a page's first frame; one that cannot be read is NONE (log entry 29). -/
def State.ledger (s : State) (pa : Nat) : LedgerEntry :=
  let e := leNat (s.devBytes (s.ledgerAddr pa) 8)
  ⟨bitsOf e 48 16, bitsOf e 32 16, bitsOf e 8 4, bitsOf e 0 4⟩

/-- A ledger entry takes a value. -/
def ledgerPut (pa : Nat) (e : LedgerEntry) : Act := fun s =>
  storePlain (s.ledgerAddr pa) (leBytes 8 (e.refcount * 2 ^ 48 + e.pins * 2 ^ 32 + e.ctx * 2 ^ 8 + e.state)) s

/-- The page service runs (ATT_STATUS.ready). -/
def State.pagesReady (s : State) : Bool := s.flag Fld.attStatusReady

/-! ## Release (R260, R275) -/

/-- The release ring of a context has a free entry: it is enabled and its consumer has not fallen a ring behind. -/
def State.releaseRoom (s : State) (c : Nat) : Bool :=
  s.flag (Fld.attRelEnable c) &&
  decide (countDiff (tabGet (fun _ => 0) s.pages.relProduced c) (leNat (s.devBytes (s.fget (Fld.attRelBase c) * 64) 4)) <
    ringEntries (s.fget (Fld.attRelSizeCode c)))

/-- An entry of a release ring: page address and reason (R260); vector 7. -/
def releaseWrite (c page reason : Nat) : Act := fun s =>
  let n := tabGet (fun _ => 0) s.pages.relProduced c
  seqA [storePlain (ringSlot (s.fget (Fld.attRelBase c) * 64) (s.fget (Fld.attRelSizeCode c)) 8 n)
      (leBytes 8 (page / 65536 * 65536 + reason)),
    act [.pages fun p => { p with relProduced := tabSet (fun _ => 0) p.relProduced c (countUp n) }, .msix Vec.release],
    if reason = 0 then act [.inc Fld.attCnt2Released 1] else nothing] s

/-- The ledger entry of a page that waits for its release ring is HELD, and NONE once the entry is written. A rejected entry that
names no page of the tiers, or one whose frame another condition already holds, leaves the ledger as it is (log entry 41). -/
def heldLedger (page reason : Nat) (held : Bool) : Act := fun s =>
  let e := s.ledger page
  if reason = 0 then ledgerPut page (if held then { e with state := 3 } else {}) s
  else if !s.inTier page then []
  else if held then (if e.state = 0 then ledgerPut page { e with state := 3 } s else [])
  else if e.state = 3 then ledgerPut page {} s else []

/-- An entry for the release ring of a context: written, or held until an entry frees (R260). A page that waits enters
HELD in the ledger and the context's `held` event is set. -/
def releaseEntry (c page reason : Nat) : Act := fun s =>
  if s.releaseRoom c ∧ s.pages.held.all (·.1 != c) then
    seqA [releaseWrite c page reason, if reason = 0 then ledgerPut page {} else nothing] s
  else
    seqA [act [.pages fun p => { p with held := p.held ++ [(c, page, reason)] }], heldLedger page reason true,
      act [.fld (Fld.attStatusHeld.item c) 1], periodEvent c 3] s

/-- A page of refcount 0 is released, or waits for its pins (R275). -/
def releasePage (page : Nat) : Act := fun s =>
  let e := s.ledger page
  if e.refcount ≠ 0 then []
  else if e.pins ≠ 0 then ledgerPut page { e with state := 2 } s
  else releaseEntry e.ctx page 0 s

/-- One mapping of a page is gone: the refcount falls and R275 applies. -/
def dropRef (page : Nat) : Act := fun s =>
  let e := s.ledger page
  seqA [ledgerPut page { e with refcount := e.refcount - 1 }, releasePage page] s

/-! ## Pins (R266) -/

/-- A page gains a pin. -/
def pinPage (page : Nat) : Act := fun s =>
  let e := s.ledger page
  ledgerPut page { e with pins := e.pins + 1 } s

/-- A page loses a pin; a page in WAIT whose last pin goes is released (R275). -/
def unpinPage (page : Nat) : Act := fun s =>
  let e := s.ledger page
  seqA [ledgerPut page { e with pins := e.pins - 1 },
    if e.state = 2 ∧ e.pins = 1 then releasePage page else nothing] s

/-- The pages that a list of pins holds, each once: pins count once per page per command. -/
def pinned (pins : List (Nat × Nat)) : List Nat := pins.foldl (fun acc p => if acc.contains p.2 then acc else acc ++ [p.2]) []

/-- The pins of a command are removed when it ends (R266). -/
def unpinAll (pins : List (Nat × Nat)) : Act := forA (pinned pins) unpinPage

end Sys2Proof.Machine
end

