-- ==== Sys2Proof/Machine/Hub.lean ====
section
/-! DEFINITION. Where tile commands are and how they move: the hub queue, cluster queues, core queues; dispatch targets,
return, cancellation, and the clearing of cluster state. R62, R70 to R77, R163, R354, R394. -/

namespace Sys2Proof.Machine

open Sys2Proof

/-! ## Groups and clusters -/

/-- The group of a context with an identifier. -/
def State.groupWith (s : State) (c g : Nat) : Option Group := (s.image c).groups.find? (·.id == g)

/-- The group of a context that holds a logical core (R26). -/
def State.groupOfCore (s : State) (c n : Nat) : Option Group :=
  (s.image c).groups.find? fun g => g.first ≤ n && n < g.first + g.count

/-- A cluster is in service: not removed (R393). -/
def State.inService (s : State) (k : Nat) : Bool := !s.flag (Fld.fltOutClusters.item k)

/-- Clusters granted to a context that are in service. -/
def State.granted (s : State) (c : Nat) : List Nat :=
  (List.range 64).filter fun k => bitOf (s.image c).clusterMap k && s.inService k

/-- Cores of a group in cluster `k`. -/
def groupCoresIn (g : Group) (k : Nat) : List Nat := (coresOf k).filter fun n => g.first ≤ n && n < g.first + g.count

/-- In-service cores of a group (R394). -/
def State.groupServing (s : State) (c : Nat) (g : Group) : Nat :=
  ((s.granted c).map fun k => (groupCoresIn g k).length).sum

/-- The group that serves the commands of group `g`: itself, or, when it has no in-service core, the context's group with
the most, lowest identifier on a tie (R394). -/
def State.servedBy (s : State) (c g : Nat) : Option Group :=
  match s.groupWith c g with
  | none => none
  | some x =>
    if s.groupServing c x ≠ 0 then some x
    else (s.image c).groups.foldl (fun best y =>
      if s.groupServing c y = 0 then best
      else match best with
        | none => some y
        | some b => if s.groupServing c b < s.groupServing c y ∨ (s.groupServing c b = s.groupServing c y ∧ y.id < b.id)
            then some y else best) none

/-- A cluster or die reset of the cluster is in progress (R70). -/
def State.underReset (s : State) (k : Nat) : Bool :=
  s.flag Fld.pwrResetStatusBusy &&
  ((s.fget Fld.pwrResetStatusKind == 2 && s.fget Fld.pwrResetStatusTarget == k) ||
   (s.fget Fld.pwrResetStatusKind == 3 && s.fget Fld.pwrResetStatusTarget == k / 16))

/-- A cluster is a dispatch target of a group (R70). -/
def State.isTarget (s : State) (c : Nat) (g : Group) (k : Nat) : Bool :=
  (s.granted c).contains k && (groupCoresIn g k).length != 0 && s.fget (Fld.pwrClusterTarget k) == 0 &&
  s.fget (Fld.pwrClusterStatus k) != 3 && !s.underReset k

/-- Dispatch entries in use (R70). -/
def ClusterState.used (k : ClusterState) : Nat := (k.queue.filter (fun q => !q.inReturn)).length

/-- The dispatch target with the most free entries, lowest cluster number on a tie (R70). -/
def State.bestTarget (s : State) (c : Nat) (g : Group) : Option Nat :=
  ((List.range 64).filter (s.isTarget c g)).foldl (fun best k =>
    match best with
    | none => some k
    | some b => if (s.cluster k).used < (s.cluster b).used then some k else best) none

/-! ## Every command the module holds -/

/-- Commands in cluster queues. -/
def State.clusterCmds (s : State) : List QCmd := s.clusters.flatMap fun p => p.2.queue

/-- Commands in core queues. -/
def State.coreCmds (s : State) : List QCmd := s.cores.flatMap fun p => p.2.queue

/-- Every command that has not ended. -/
def State.liveCmds (s : State) : List QCmd := s.hub.queue ++ s.hub.repairHeld ++ s.clusterCmds ++ s.coreCmds

/-- Cores that hold a command. -/
def State.holders (s : State) : List Nat := s.cores.map (·.1)

/-- Clusters listed in the state. -/
def State.listedClusters (s : State) : List Nat := s.clusters.map (·.1)

/-! ## Adding and removing -/

/-- New commands join the hub queue in order; each takes the next number (R234). -/
def hubAdd (c : Nat) (origin : Origin) : List Bytes → Act
  | [] => nothing
  | b :: t => seqA [act [.hub fun h => { h with
      queue := h.queue ++ [{ id := h.nextId, ctx := c, bytes := b, origin := origin }], nextId := h.nextId + 1 }],
      hubAdd c origin t]

/-- Requests at an expander without those that pass a test; the decode that already runs, for the oldest, goes on (R224). -/
def dropReqs (p : ExpReq → Bool) : List ExpReq → List ExpReq
  | [] => []
  | r :: t => (if p r then { r with gone := true } else r) :: t.filter (!p ·)

/-- Commands that pass a test leave every queue. -/
def removeCmds (p : QCmd → Bool) : Act := fun s =>
  [.hub fun h => { h with queue := h.queue.filter (fun q => !p q), repairHeld := h.repairHeld.filter (fun q => !p q) }] ++
  (s.listedClusters.map fun k => .cluster k fun x => { x with
    queue := x.queue.filter (fun q => !p q)
    expReqs := dropReqs (fun r => (s.core r.core).queue.any fun q => p q && q.id == r.cmd) x.expReqs }) ++
  (s.holders.map fun n => .core n fun x => { x with queue := x.queue.filter (fun q => !p q) })

/-- Output that an ended command wrote holds undefined data (R75, R78). -/
def undefOutput (q : QCmd) : Act := act (q.wrote.map fun (a, n) => .undef a n)

/-- A tile command of an ISSUE has ended (R233). -/
def countWhole (q : QCmd) (faulted : Bool) : Act :=
  match q.origin with
  | .period _ => nothing
  | .issue ring index => act [.issues (modFirst (fun i => i.ring == ring && i.index == index) fun i =>
      { i with left := i.left - 1, faulted := i.faulted + b2n faulted })]

/-- A command that stands in a queue has ended; a sub-tile counts when it is the last of its command (R148). -/
def countEnd (q : QCmd) (faulted : Bool) : Act := fun s =>
  if q.parent ∧ 1 < (s.liveCmds.filter (·.id == q.id)).length then [] else countWhole q faulted s

/-- One command for each number. -/
def firstOfEach : List QCmd → List Nat → List QCmd
  | [], _ => []
  | q :: t, seen => if seen.contains q.id then firstOfEach t seen else q :: firstOfEach t (q.id :: seen)

/-- A held command leaves core `n`. -/
def leaveCore (n : Nat) (q : QCmd) : Act := act [.core n fun x => { x with queue := eraseFirst (· == q) x.queue }]

/-- Commands that pass a test are cancelled wherever they are (R75): they complete nothing, their written output is
undefined, their pins go, and each held by a core is counted there. `count` says that they count for their ISSUE. -/
def cancelWith (count : Bool) (p : QCmd → Bool) : Act := fun s =>
  seqA [forA s.cores (fun (n, x) => act [.inc (Fld.coreCntRetryCancelled n) (x.queue.filter p).length]),
    forA (s.liveCmds.filter p) (fun q => seqA [undefOutput q, unpinAll q.pins]),
    if count then forA (firstOfEach (s.liveCmds.filter p) []) (countWhole · true) else nothing,
    act [.pages fun g => { g with reqs := g.reqs.filter fun r => !s.liveCmds.any fun q => p q && q.id == r.cmd }],
    removeCmds p] s

/-- Commands that pass a test are cancelled and count as ended for their ISSUE (R39, R75, R394). -/
def cancelCmds (p : QCmd → Bool) : Act := cancelWith true p

/-! ## Return (R76, R77) -/

/-- A command as it is returned: it restarts from its first slice. -/
def QCmd.restart (q : QCmd) : QCmd :=
  { q with run := .waiting, pass := none, reprints := 0, pins := [], blocks := [], wrote := [], idle := 0, misses := 0,
           inReturn := false, unsent := [], heldFor := 0, lost := [], region := [] }

/-- The order of issue; sub-tiles of one command come by their first entry (R76, R148). -/
def QCmd.before (a b : QCmd) : Bool := decide (a.id < b.id ∨ (a.id = b.id ∧ a.entry < b.entry))

/-- Commands put ahead of a queue in their order; they use return entries when the dispatch entries are full (R70). -/
def putAhead (qs : List QCmd) (x : ClusterState) : ClusterState :=
  let free := 1024 - x.used
  { x with queue := (qs.zipIdx.map fun (q, i) => { q with inReturn := decide (free ≤ i) }) ++ x.queue }

/-- The commands of cores return to the queue of their cluster, ahead of its entries (R76, R77). -/
def returnToCluster (k : Nat) (cores : List Nat) : Act := fun s =>
  let qs := sortBy QCmd.before (cores.flatMap fun n => (s.core n).queue)
  if qs.isEmpty then []
  else seqA [forA qs (unpinAll ·.pins),
    act ((cores.map fun n => Upd.core n fun x => { x with queue := [] }) ++
      [.cluster k (putAhead (qs.map QCmd.restart))])] s

/-- A command put back at the hub among the commands in order of issue. -/
def hubInsert (qs : List QCmd) (h : Hub) : Hub :=
  { h with queue := sortBy QCmd.before (qs ++ h.queue) }

/-- The entries of a cluster queue return to the hub (R70, R416). -/
def queueToHub (k : Nat) : Act := fun s =>
  let qs := (s.cluster k).queue
  if qs.isEmpty then []
  else [.hub (hubInsert (qs.map QCmd.restart)), .cluster k fun x => { x with queue := [] }]

/-- The entries of a cluster queue and the commands of its cores return to the hub (R77). -/
def clusterToHub (k : Nat) : Act := seqA [returnToCluster k (coresOf k), queueToHub k]

/-! ## Clearing (R163, R354) -/

/-- A galley is cleared, its poison with it. -/
def clearGalley (n : Nat) : Act :=
  act [.clear (galleyOf n) Config.galleyBytes, .sound (galleyOf n) Config.galleyBytes]

/-- What a core loses at a clearing: accumulators, register and table sets, match entries. -/
def clearUnits (n : Nat) : Act :=
  act [.core n fun x => { x with acc := [], matchUnit := [], weights := [], tables := [], quantClip := [] }]

/-- A core that can hold state is cleared at once; a core in NAP or OFF is marked and cleared at its next wake (R375). -/
def clearCore (n : Nat) : Act := fun s =>
  if s.fget (Fld.coreStatePower n) = 2 ∨ s.fget (Fld.coreStatePower n) = 3 then [.core n fun x => { x with mustClear := true }]
  else seqA [clearGalley n, clearUnits n] s

/-- The expander buffers of a cluster are cleared (R224); blocks asked for go with the commands that asked. -/
def clearExpander (k : Nat) : Act := act [.cluster k fun x => { x with expBufs := [], expReqs := [], expOld := [] }]

/-- The state of R354 on one cluster. -/
def clearCluster (k : Nat) : Act := seqA [forA (coresOf k) clearCore, clearExpander k]

/-! ## Work (R353) -/

/-- A command of the context is queued at the hub or in a cluster queue. -/
def State.queuedCmds (s : State) (c : Nat) : Bool :=
  (s.hub.queue ++ s.clusterCmds).any (·.ctx == c)

/-- A context that loses its clusters is stopped (R394). -/
def State.stopped (s : State) (c : Nat) : Bool := s.flag (Fld.fltCtxStopContexts.item c)

/-- A context has work (R353); a stopped context has none (R394), and takes a replacement at a slice boundary without being taken (log
entry 22). Request states READY, RUNNING and ENDING are 1, 2 and 4
of Table 10.2. -/
def State.hasWork (s : State) (c : Nat) : Bool :=
  !s.stopped c && (s.queuedCmds c || s.reqs.any fun (_, r) => r.ctx == c && (r.state == 1 || r.state == 2 || r.state == 4))

end Sys2Proof.Machine
end

