-- ==== Sys2Proof/Machine/Reads.lean ====
section
/-! DEFINITION. What a read of memory leaves behind: corrected and uncorrectable errors, their log, count and event, the weight
repair that they begin, and the translation caches. R162, R183 to R185, R202, R401, R402. -/

namespace Sys2Proof.Machine

open Sys2Proof

/-! ## Gold table (R401) -/

/-- Entry `i` of the gold table. -/
def State.goldEntry (s : State) (i : Nat) : Bytes := s.devBytes (s.fget Fld.fltGoldBase * 64 + 32 * i) 32

/-- A gold entry keeps to the rules, and its region and golden copy lie in frames of tag 0. -/
def State.goldOk (s : State) (e : Bytes) : Bool :=
  let base := fieldAt e 0 8
  let len := fieldAt e 8 8
  let gold := fieldAt e 16 8
  let flags := fieldAt e 26 1
  bitOf flags 0 && decide (flags < 4) && allZero (slice e 27 5) && base % 65536 == 0 && len % 65536 == 0 && gold % 64 == 0 &&
  s.rangeInTier base len && (List.range (len / 65536)).all (fun i => s.keyTag (base + 65536 * i) == 0) &&
  (bitOf flags 1 || (s.region gold == .slow && s.region (gold + len - 1) == .slow &&
    (List.range (len / 65536 + 1)).all fun i => s.keyTag (min (gold + 65536 * i) (gold + len - 1)) == 0))

/-- The lowest-numbered entry that takes part in repair and covers an address. -/
def State.goldFor (s : State) (a : Nat) : Option (Nat × Bytes) :=
  if !s.flag Fld.fltGoldEnable then none
  else ((List.range (s.fget Fld.fltGoldCount)).map fun i => (i, s.goldEntry i)).find? fun (_, e) =>
    decide (fieldAt e 0 8 ≤ a ∧ a < fieldAt e 0 8 + fieldAt e 8 8) && s.goldOk e

/-- A weight repair of a line begins, or waits behind 16 (R402). -/
def beginRepair (a : Nat) : Act := fun s =>
  match s.goldFor a with
  | none => []
  | some (i, e) =>
    if (s.flt.repairs ++ s.flt.repairWait).any (·.line == a / 64) then []
    else if s.flt.repairs.length < 16 then [.flt fun f => { f with repairs := f.repairs ++ [⟨a / 64, e, i, [], .detected, 0⟩] }]
    else [.flt fun f => { f with repairWait := f.repairWait ++ [⟨a / 64, e, i, [], .detected, 0⟩] }]

/-! ## Errors found by a read (R162, R183, R184, R390) -/

/-- Counters of a tier: corrected reads and uncorrectable errors. -/
def ceFld (t : Nat) : Fld := if t = 0 then Fld.memfErrCntCe else Fld.memsErrCntCe
/-- Uncorrectable errors detected. -/
def ueFld (t : Nat) : Fld := if t = 0 then Fld.memfErrCntUe else Fld.memsErrCntUe

/-- The line of an error is poisoned, logged and raised (R183, R184, vector 2 of Table 12.5). -/
def logPoison (a ctx agent : Nat) : Act :=
  seqA [act [.mark (eccUnit a) .logged], logMemErr a ctx agent 1 0, raise Vec.memory]

/-- An uncorrectable error is detected in a line: it is poisoned, counted, logged, raised, and repaired in a gold region. -/
def lineError (a ctx agent : Nat) : Act :=
  seqA [act [.inc (ueFld (tierOf a)) 1], logPoison a ctx agent, beginRepair a]

/-- Stack or package of an address of a tier. -/
def stackOf (a : Nat) : Nat := if tierOf a = 0 then (fastRoute a).1 else (slowRoute a).1

/-- A corrected read counts, for its tier and for its page in this scrub pass; at the threshold the page is logged, once a pass
(R183, R185, log entry 29). -/
def corrected (a ctx agent : Nat) : Act := fun s =>
  let i := tierOf a
  let key := a / 65536 * 16 + stackOf a
  let n := tabGet (fun _ => 0) (s.tier i).ceCount key + 1
  let thr := s.fget (if i = 0 then Fld.memfScrubCeLogThr else Fld.memsScrubCeLogThr)
  seqA [act [.inc (ceFld i) 1, .tier i fun x => { x with ceCount := tabSet (fun _ => 0) x.ceCount key n }],
    if thr ≠ 0 ∧ thr ≤ n ∧ !(s.tier i).ceLogged.contains key then
      seqA [act [.tier i fun x => { x with ceLogged := x.ceLogged ++ [key] }], logMemErr a ctx agent 2 n]
    else nothing] s

/-- A word of a galley or pool bank is corrected: it counts for its die (R390). -/
def correctedWord (a : Nat) : Act :=
  if a < Config.galleyBase then act [.inc (Fld.fltSramCePool ((a - Config.poolBase) / Config.bankBytes / 64)) 1]
  else act [.inc (Fld.fltSramCeGalley ((a - Config.galleyBase) / Config.galleyBytes / 512)) 1]

/-- What the read of one protected unit leaves: a corrected error is counted, an uncorrectable one poisons the unit, and the first
read of a poisoned line is logged. -/
def noteUnit (ctx agent a : Nat) : Act := fun s =>
  let tier := decide (a < Config.poolBase)
  match s.markAt a with
  | .sound | .logged => []
  | .correctable => if tier then corrected a ctx agent s else correctedWord a s
  | .uncorrectable => if tier then lineError a ctx agent s else [.mark (eccUnit a) .poisoned]
  | .poisoned => if tier then logPoison a ctx agent s else []

/-- The units of a range that a read meets, up to the first that gives no data. -/
def State.unitsRead (s : State) (a n : Nat) : List Nat :=
  let us := (unitPieces a n).map (·.1)
  us.takeWhile (fun u => !s.badUnit u) ++ (us.find? s.badUnit).toList

/-- What a read of a physical range leaves, for the agent code of MEMF_ERR_LOG1; a retired page is not read (R205). -/
def noteReads (ctx agent a n : Nat) : Act := fun s =>
  forA ((s.unitsRead a n).filter fun u => s.markAt u != .sound && !(s.inTier u && s.retired u)) (noteUnit ctx agent) s

/-- The device reads one of its structures: the errors that the read meets, and the address fault (R9). -/
def noteDev (agent a n : Nat) : Act := fun s =>
  match (linePieces a n).find? fun p => s.outside p.1 with
  | some p => addressFault agent p.1 s
  | none => forA (linePieces a n) (fun (b, k) => noteReads 0 agent b k) s

/-- The agent code of MEMF_ERR_LOG1 for an agent; the page service, the packers and the security engine count as code 1 (log
entry 29). -/
def Agent.memCode (ag : Agent) : Nat :=
  if ag.code = 0 ∨ (ag.code = 1 ∧ ag.tlb) then b2n ag.dma else if ag.code = 2 then 3 else if ag.code = 3 then 5 else 1

/-! ## Lines that the host holds (R291) -/

/-- The host-held lines of physical ranges. -/
def State.heldLines (s : State) (rs : List (Nat × Nat)) : List Nat :=
  if s.port.filter = [] then [] else ((rs.flatMap fun (a, n) => linesOf a n).filter s.port.filter.contains).eraseDups

/-- The device waits for a line that the host holds: it is back-invalidated once. -/
def awaitLine (l : Nat) : Act := fun s =>
  let h : HeldAccess := { line := l, agent := true }
  if s.port.heldAccesses.contains h then []
  else (if s.port.heldAccesses.any (·.line == l) then [] else [.out (.biSnoop l)]) ++
    [.port fun p => { p with heldAccesses := p.heldAccesses ++ [h] }]

/-- An update changes one of some lines. -/
def Upd.inLines (ls : List Nat) : Upd → Bool
  | .store a _ | .mark a _ => ls.contains (a / 64)
  | .lineKey l _ => ls.contains l
  | _ => false

/-- Work of an agent of the device on physical ranges: it waits for the answers to the back-invalidates of the lines that the host
holds. Lines left unanswered read as poison, and writes to them are dropped (R291, log entry 44). -/
def withHost (rs : State → List (Nat × Nat)) (f : Act) : Act := fun s =>
  let ls := s.heldLines (rs s)
  if ls = [] then f s
  else if ls.any (!s.port.lostLines.contains ·) then forA (ls.filter (!s.port.lostLines.contains ·)) awaitLine s
  else
    (f { s with marks := ls.foldl (fun t l => tabSet (fun _ => .sound) t (64 * l) .logged) s.marks }).filter (!·.inLines ls) ++
      [.port fun p => { p with lostLines := p.lostLines.filter (!ls.contains ·) }]

/-! ## Walks (R202) -/

/-- A walk's effect on the caches and on XLT_CNT.walks: a TLB hit walks nothing; else a walk is counted, the entries it reads are
read by the walker, and what it found is cached (log entry 6). -/
def noteWalk (ag : Agent) (va write : Nat) : Act := fun s =>
  let r := s.walk ag va write
  let hit := match s.leafHit ag va with
    | some (p, e) => if sameWalk (s.leafWalk ag va write e) r then some (p, e) else none
    | none => none
  match hit with
  | some (.micro _, _) => []
  | some (_, e) => [.xlt fun x => { x with cache := cachePut (.micro ag.core) e x.cache }]
  | none =>
    let path := match s.rootOf ag.ctx with
      | some root => if bitOf root 0 then s.tablePath ag (va % 2 ^ 57) 5 (bitsOf root 12 40 * 4096) else []
      | none => []
    seqA [forA path fun ea => noteReads ag.ctx 4 ea 8, act [.inc Fld.xltCntWalks 1],
      match r with
      | .ok w => act [cacheFill ag w.read]
      | .error _ => nothing] s

/-- What the read of a piece of a page leaves, where its translation lets it be read. -/
def notePiece (ag : Agent) (va n : Nat) : Act := fun s =>
  match s.walk ag va 0 with
  | .ok w => if s.region w.pa == .window then [] else noteReads ag.ctx ag.memCode w.pa n s
  | .error _ => []

/-- The walks of a virtual range, and what a read of it leaves. -/
def noteWalks (ag : Agent) (va n write : Nat) : Act := forA (pagePieces va n) fun (a, k) =>
  seqA [noteWalk ag a write, if write = 0 then notePiece ag a k else nothing]

end Sys2Proof.Machine
end

