-- ==== Sys2Proof/Machine/Requests.lean ====
section
/-! DEFINITION. The request engine's table, the command rings and their commands, and the end of a request.
R228 to R233, R242 to R245, R251, R261, R285, R287, R288, R394, R400, R415. -/

namespace Sys2Proof.Machine

open Sys2Proof

/-! ## Descriptors (Table 10.1) -/

/-- A field of the parameter block, by its descriptor offset. -/
def Request.pf (r : Request) (off n : Nat) : Nat := fieldAt r.params (off - 0x20) n

/-- prompt_len. -/
def Request.promptLen (r : Request) : Nat := r.pf 0x30 4
/-- Entries of the pour ring: 16 << ring_code. -/
def Request.ringSize (r : Request) : Nat := 16 * 2 ^ r.pf 0x3D 1
/-- Free credits of the pour ring (R242). -/
def Request.credits (r : Request) : Nat := r.ringSize - countDiff r.produced r.head
/-- flags.full_path: a bias list or a bitmap is given. -/
def Request.fullPath (r : Request) : Bool := r.pf 0x58 8 != 0 || r.pf 0x68 8 != 0
/-- Stop tokens in use. -/
def Request.stops (r : Request) : List Nat := (List.range (r.pf 0x3E 2)).map fun i => r.pf (0x78 + 4 * i) 4

/-- The descriptor's bytes 0x00 to 0xAB (Table 10.1). -/
def Request.bytes (r : Request) : Bytes :=
  leBytes 1 r.state ++ leBytes 1 r.ctx ++
  leBytes 1 (b2n r.cancelPending + 2 * b2n r.fullPath + 4 * b2n (r.treeHa != 0) +
    8 * b2n (r.newParams.isSome || r.newTree.isSome)) ++
  leBytes 1 r.endStatus ++ leBytes 4 r.position ++ leBytes 4 r.generated ++ leBytes 4 r.promptDone ++
  leBytes 4 r.produced ++ leBytes 4 r.head ++ leBytes 4 r.lastToken ++ leBytes 4 r.stamp ++
  slice r.params 0 128 ++ leBytes 8 r.treeHa ++ leBytes 4 r.userTag

/-- Address of a descriptor (R228). -/
def State.descAddr (s : State) (slot : Nat) : Nat := s.fget Fld.reqTableBase * 2 ^ 26 + slot * 256

/-- A request slot changes, and its descriptor in the table with it (log entry 12). -/
def setReq (slot : Nat) (f : Request → Request) : Act :=
  seqA [act [.req slot f], fun s => storePlain (s.descAddr slot) (s.req slot).bytes s]

/-- Request states of Table 10.2. -/
def Rq.free : Nat := 0
/-- READY. -/
def Rq.ready : Nat := 1
/-- RUNNING. -/
def Rq.running : Nat := 2
/-- PAUSED. -/
def Rq.paused : Nat := 3
/-- ENDING. -/
def Rq.ending : Nat := 4

/-- End statuses of Table 10.11. -/
def End.stop : Nat := 1
/-- DONE_MAX. -/
def End.max : Nat := 2
/-- DONE_LENGTH. -/
def End.length : Nat := 3
/-- CANCELLED. -/
def End.cancelled : Nat := 4
/-- FAULT. -/
def End.fault : Nat := 5
/-- POISON. -/
def End.poison : Nat := 6
/-- UNLOADED. -/
def End.unloaded : Nat := 7
/-- NO_TOKEN. -/
def End.noToken : Nat := 8
/-- RING_ERROR. -/
def End.ringError : Nat := 9

/-- Slots of a context that are not FREE. -/
def State.slotsOf (s : State) (c : Nat) : List Nat :=
  (s.reqs.filter fun (_, r) => r.state != 0 && r.ctx == c).map (·.1)

/-! ## Host reads that the device issues -/

/-- A host read leaves the module and is outstanding; none does while the link is down (R283). -/
def askHost (what : HostRead) (addr len : Nat) : Act := fun s =>
  if !s.hostUp then []
  else if s.port.outstanding.contains what then
    (if s.port.again.contains what then [] else [.port fun p => { p with again := p.again ++ [what] }])
  else [.out (.hostRead what addr len), .port fun p => { p with outstanding := p.outstanding ++ [what] }]

/-- A host read is no longer outstanding. -/
def hostReadOver (what : HostRead) : Act :=
  act [.port fun p => { p with outstanding := p.outstanding.filter (· != what) }]

/-- Host reads whose results an event carries: those that timed out are counted, and their data are late (R289, R405). -/
def noteTimeouts (rs : List (HostRead × HostResult)) : Act :=
  forA rs fun (what, res) => match res with
    | .failed true => act [.inc Fld.cxlErrCntTimeouts 1, .port fun p => { p with timedOut := p.timedOut ++ [what] }]
    | _ => nothing

/-! ## Watched head lines (R284, R285) -/

/-- PAUSED requests in the order in which they paused (R285). -/
def State.pausedOrder (s : State) : List Nat := s.port.paused.filter fun k => (s.req k).state == Rq.paused

/-- The head line of a PAUSED request has a watch entry: 65,472 entries serve head lines (R285). -/
def State.headWatched (s : State) (slot : Nat) : Bool :=
  s.flag Fld.cxlStatusCacheEnabled && (s.pausedOrder.take 65472).contains slot

/-- The read of a request's pour-ring head line. -/
def askHead (slot : SlotId) : Act := fun s => askHost (.headLine slot) ((s.req slot).pf 0x40 8) 64 s

/-- A change by which a request may leave PAUSED: the watch entry it frees goes to the first PAUSED request without one, whose line is
read into the cache (R284, R285). -/
def freeingWatch (slot : Nat) (f : Act) : Act := fun s =>
  let next := if s.headWatched slot then s.pausedOrder[65472]? else none
  seqA [f, fun t => match next with
    | some k => if h : k < 262144 then (if (t.req slot).state ≠ Rq.paused then askHead ⟨k, h⟩ t else []) else []
    | none => []] s

/-! ## Ends of requests -/

/-- A request enters ENDING with a status (R244); an ENDING request keeps the status it has. -/
def endRequest (slot status : Nat) : Act := fun s =>
  if (s.req slot).state = 0 ∨ (s.req slot).state = Rq.ending then []
  else freeingWatch slot (setReq slot fun r =>
    { r with state := Rq.ending, endStatus := status, cancelPending := false, promotes := [] }) s

/-- The UNLOAD of its context ends a request that is not FREE, one that is ENDING already too (Table 10.3). -/
def unloadRequest (slot : Nat) : Act := fun s =>
  if (s.req slot).state = Rq.ending then setReq slot (fun r => { r with endStatus := End.unloaded }) s
  else endRequest slot End.unloaded s

/-- A slot becomes FREE; the request has ended. The descriptor's other fields stand until the next SUBMIT. -/
def freeSlot (slot : Nat) : Act :=
  seqA [act [.inc Fld.reqCnt2Ended 1], setReq slot fun r =>
    { r with state := Rq.free, cancelPending := false, treeHa := 0, newParams := none, newTree := none, deferred := [],
             promotes := [], pendingRows := [] }]

/-! ## Pour rings (R242, R243) -/

/-- The phase bit of record `n`: 1 on the first lap, then alternating. -/
def phaseOf (r : Request) (n : Nat) : Nat := (n / r.ringSize + 1) % 2

/-- Writes one pour-ring record: token or end status, logprob, position, flags without the phase. -/
def pourRecord (slot token : Nat) (logprob : BitVec 32) (position flags : Nat) : Act := fun s =>
  let r := s.req slot
  let n := r.produced
  seqA [act [.out (.hostWrite (r.pf 0x40 8 + 64 + 16 * (n % r.ringSize))
      (leBytes 4 token ++ leBytes 4 logprob.toNat ++ leBytes 4 position ++ leBytes 2 (flags + phaseOf r n * 2 ^ 15) ++
        leBytes 2 (n % 65536)))],
    setReq slot fun r => { r with produced := countUp r.produced }] s

/-- A head value is valid when the records not consumed do not exceed the ring (R287). -/
def headValid (r : Request) (v : Nat) : Bool := countDiff r.produced v ≤ r.ringSize

/-- A head value read for a request (R242, R285, R287): kept, or the request ends with RING_ERROR; a PAUSED request with
a credit returns to READY with its stamp. -/
def headSeen (slot v : Nat) : Act := fun s =>
  let r := s.req slot
  if r.state = 0 then []
  else if !headValid r v then endRequest slot End.ringError s
  else freeingWatch slot (setReq slot fun r => { r with head := v, state := if r.state = Rq.paused ∧ 0 < ({ r with head := v } : Request).credits
    then Rq.ready else r.state }) s

/-! ## Command rings (R232) -/

/-- Address of line 0 of a command ring. -/
def State.ringBase (s : State) (r : Nat) : Nat := s.fget (Fld.reqCringBase r) * 64
/-- Address of line 0 of a completion ring. -/
def State.cplBase (s : State) (r : Nat) : Nat := s.fget (Fld.reqCcplBase r) * 64
/-- Entries of a command ring. -/
def State.ringSize (s : State) (r : Nat) : Nat := ringEntries (s.fget (Fld.reqCringSizeCode r))
/-- Entries of a completion ring. -/
def State.cplSize (s : State) (r : Nat) : Nat := ringEntries (s.fget (Fld.reqCcplSizeCode r))
/-- The context of a command ring. -/
def State.ringCtx (s : State) (r : Nat) : Nat := s.fget (Fld.reqCringContext r)
/-- A ring is enabled and not stopped by an invalid tail. -/
def State.ringLive (s : State) (r : Nat) : Bool :=
  s.flag (Fld.reqCringEnable r) && s.flag (Fld.reqCcplEnable r) && !(s.ring r).stopped && s.hostUp
/-- The device may take the next command: one waits and a completion entry is free for it. -/
def State.canTake (s : State) (r : Nat) : Bool :=
  s.ringLive r && (s.ring r).tail != (s.ring r).taken && decide (countDiff (s.ring r).taken (s.ring r).head < s.cplSize r)
/-- Commands taken and not completed. -/
def State.ringBusy (s : State) (r : Nat) : Bool := (s.ring r).taken != (s.ring r).completed

/-- The read of the next ring command, when one can be taken. -/
def askEntry (r : RingId) : Act := fun s =>
  if s.canTake r ∧ (s.ring r).entry = none then
    askHost (.commandEntry r) (s.ringBase r + 64 + ((s.ring r).taken % s.ringSize r) * 64) 64 s
  else []

/-- A tail value is observed (R287). -/
def tailSeen (r : RingId) (t : Nat) : Act := fun s =>
  if !s.ringLive r then []
  else if countDiff t (s.ring r).taken ≤ s.ringSize r then
    seqA [act [.ring r fun x => { x with tail := t, tailFailed := false }], askEntry r] s
  else seqA [act [.ring r fun x => { x with stopped := true }], ringErr r] s

/-- The host's completion head is observed. -/
def cplHeadSeen (r : RingId) (h : Nat) : Act :=
  seqA [act [.ring r fun x => { x with head := h, headFailed := false }], askEntry r]

/-- The read of a command ring's tail line. -/
def askTail (r : RingId) : Act := fun s => askHost (.tailLine r) (s.ringBase r) 64 s
/-- The read of a completion ring's line 0. -/
def askCplHead (r : RingId) : Act := fun s => askHost (.completionLine r) (s.cplBase r) 64 s

/-- A completion record, then the count, then the vector (Table 10.6, R288). -/
def complete (r : RingId) (opcode slot userTag status faulted index : Nat) : Act := fun s =>
  let n := (s.ring r).completed
  seqA [act [.out (.hostWrite (s.cplBase r + 64 + 16 * (n % s.cplSize r))
      (leBytes 4 userTag ++ leBytes 4 slot ++ leBytes 1 opcode ++ leBytes 1 status ++ leBytes 2 faulted ++ leBytes 4 index)),
      .ring r fun x => { x with completed := countUp n },
      .out (.hostWrite (s.cplBase r + 8) (leBytes 4 (countUp n)))],
    raiseRing r] s

/-- A command is taken: the taken count rises and is written to the completion ring's line 0 (R232). -/
def takeOne (r : RingId) : Act := fun s =>
  let n := countUp (s.ring r).taken
  [.ring r fun x => { x with taken := n, entry := none }, .out (.hostWrite (s.cplBase r + 4) (leBytes 4 n))]

/-! ## Ring commands (Tables 10.4 to 10.6) -/

/-- The commands of Table 10.5. -/
inductive RingOp where
  | submit | cancel | update | setTree | issue | nop
  deriving DecidableEq, Repr

/-- Opcode of a ring command. -/
def RingOp.code : RingOp → Nat
  | .submit => 1
  | .cancel => 2
  | .update => 3
  | .setTree => 4
  | .issue => 5
  | .nop => 6

/-- The ring command with an opcode. -/
def RingOp.ofCode : Nat → Option RingOp
  | 1 => some .submit
  | 2 => some .cancel
  | 3 => some .update
  | 4 => some .setTree
  | 5 => some .issue
  | 6 => some .nop
  | _ => none

/-- The fields of a ring command's 64 bytes beside its opcode (Table 10.4). -/
def ringCmdOf (b : Bytes) : RingCmd :=
  { rsvd01 := BitVec.ofNat 24 (fieldAt b 1 3), slot := BitVec.ofNat 32 (fieldAt b 4 4), userTag := BitVec.ofNat 32 (fieldAt b 8 4)
    rsvd0C := BitVec.ofNat 32 (fieldAt b 0x0C 4), addr := BitVec.ofNat 64 (fieldAt b 0x10 8)
    rsvd18 := BitVec.ofNat 320 (fieldAt b 0x18 40) }

/-- Status codes of Table 10.6. -/
def Cpl.badCommand : Nat := 1
/-- SLOT_RANGE. -/
def Cpl.slotRange : Nat := 2
/-- SLOT_BUSY. -/
def Cpl.slotBusy : Nat := 3
/-- SLOT_NOT_OWNED. -/
def Cpl.notOwned : Nat := 4
/-- BAD_PARAMS. -/
def Cpl.badParams : Nat := 5
/-- NO_PERIOD. -/
def Cpl.noPeriod : Nat := 6
/-- HOST_READ. -/
def Cpl.hostRead : Nat := 7
/-- CONTEXT_STATE. -/
def Cpl.ctxState : Nat := 8
/-- FAULTED. -/
def Cpl.faulted : Nat := 9

/-- An FP32 field is +0, −0 or a positive number within bounds given as codes. -/
def f32Within (zero : Bool) (lo hi x : Nat) : Bool := (zero && (x == 0 || x == 0x8000_0000)) || (lo ≤ x && x ≤ hi)

/-- A parameter block is valid (R230). Offsets are those of the descriptor. -/
def paramsOk (b : Bytes) : Bool :=
  let r : Request := { params := b }
  let n := r.pf 0x3E 2
  r.pf 0x28 8 % 64 == 0 && 1 ≤ r.promptLen && r.promptLen ≤ 16777216 && 1 ≤ r.pf 0x34 4 && r.pf 0x34 4 ≤ 16777216 &&
  decide (r.promptLen + 1 ≤ r.pf 0x38 4) && r.pf 0x38 4 ≤ 16777216 && r.pf 0x3C 1 ≤ 3 && r.pf 0x3D 1 ≤ 4 && n ≤ 8 &&
  r.pf 0x40 8 % 64 == 0 && f32Within true 0x3A80_0000 0x42C8_0000 (r.pf 0x48 4) && r.pf 0x4C 2 ≤ 1024 && r.pf 0x4E 2 == 0 &&
  f32Within false 1 0x3F80_0000 (r.pf 0x50 4) && f32Within true 1 0x3F7F_FFFF (r.pf 0x54 4) && r.pf 0x58 8 % 8 == 0 &&
  r.pf 0x60 4 ≤ 4096 && ((r.pf 0x60 4 == 0) == (r.pf 0x58 8 == 0)) && r.pf 0x64 1 ≤ 64 && r.pf 0x65 3 == 0 &&
  r.pf 0x68 8 % 64 == 0 && (List.range 8).all (fun i => i < n || r.pf (0x78 + 4 * i) 4 == 0) && r.pf 0x98 8 == 0

/-- The agent of the request engine and the sampling units for a context (R415). -/
def engineAgent (c : Nat) : Agent := { code := 3, ctx := c }

/-- Address of a slot's sequence header (Table 11.1). -/
def headerVa (slot : Nat) : Nat := slotBase slot + 0x3C_0000_0000

/-- The sequence header keeps the rules of R261. -/
def headerOk (slot promptLen : Nat) (b : Bytes) : Bool :=
  let link := fieldAt b 0 4
  let prefixLen := fieldAt b 4 4
  let baseLen := fieldAt b 8 4
  allZero (slice b 0x0C 52) && (link != 0xFFFF_FFFF || prefixLen == 0) && (link == 0xFFFF_FFFF || (link != slot && link ≤ 262143)) &&
  prefixLen ≤ baseLen && baseLen < promptLen

/-- base_len of a slot's sequence header; none where the SUBMIT is refused (R261, R415). -/
def State.baseLen (s : State) (c slot promptLen : Nat) : Option Nat :=
  match s.readVa (engineAgent c) (headerVa slot) 64 with
  | .ok b => if headerOk slot promptLen b then some (fieldAt b 8 4) else none
  | .error (.walk _ _ r) => if r = Reason.invalid then some 0 else none
  | .error _ => none

/-- What an access for a context leaves behind when it stops: the logged fault (R415). -/
def noteAccess (ag : Agent) (va n write : Nat) (r : Option Stop) : Act :=
  seqA [noteWalks ag va n write, match r with
    | some e => logStop ag va e
    | none => nothing]

/-- Why a read stopped. -/
def stopOf {α : Type} : Except Stop α → Option Stop
  | .error e => some e
  | .ok _ => none

/-- Bytes of a host read; none when it failed. -/
def resData : HostResult → Bytes
  | .ok b => b
  | .failed _ => []

/-- A host read succeeded. -/
def resOk : HostResult → Bool
  | .ok _ => true
  | .failed _ => false

/-- The status of a ring command by the checks of R233 in their order; 0 is OK. -/
def State.ringStatus (s : State) (r : Nat) (op : RingOp) (cmd : RingCmd) (block : HostResult) : Nat :=
  let c := s.ringCtx r
  let slot := cmd.slot.toNat
  let owned := op = .cancel ∨ op = .update ∨ op = .setTree
  if cmd.rsvd01 ≠ 0 ∨ cmd.rsvd0C ≠ 0 ∨ cmd.rsvd18 ≠ 0 ∨
      ((op = .submit ∨ op = .update ∨ op = .issue ∨ op = .setTree) ∧ cmd.addr.toNat % 64 ≠ 0) then Cpl.badCommand
  else if (op = .issue ∧ (slot = 0 ∨ 4096 < slot)) ∨ (op ≠ .issue ∧ op ≠ .nop ∧ 262143 < slot) then Cpl.slotRange
  else if !s.ctxLive c ∨ ((op = .submit ∨ owned) ∧ !s.flag Fld.reqStatusReady) ∨
      ((op = .submit ∨ op = .issue) ∧ (s.stopped c ∨ s.basic)) then Cpl.ctxState
  else if owned ∧ ((s.req slot).state = 0 ∨ (s.req slot).ctx ≠ c) then Cpl.notOwned
  else if op = .submit ∧ (s.image c).period = none then Cpl.noPeriod
  else if op = .submit ∧ (s.req slot).state ≠ 0 then Cpl.slotBusy
  else if (op = .submit ∨ op = .update ∨ op = .issue) ∧ !resOk block then Cpl.hostRead
  else if (op = .submit ∨ op = .update) ∧ !paramsOk (slice (resData block) 0 128) then Cpl.badParams
  else if op = .submit ∧ (s.baseLen c slot (fieldAt (resData block) 0x10 4)).isNone then Cpl.badParams
  else 0

/-- A parameter block's bytes 0x48 to 0x97 replace those of a request (UPDATE, Table 10.5). -/
def applyParams (b : Bytes) (r : Request) : Request :=
  { r with params := putAt r.params 0x28 (slice b 0x28 80), promotes := List.replicate (fieldAt b 0x44 1) .idle }

/-- Deferred changes of a RUNNING request take effect at the period end. -/
def applyDeferred (r : Request) : Request :=
  let r := match r.newParams with
    | none => r
    | some b => applyParams b r
  { r with treeHa := r.newTree.getD r.treeHa, newParams := none, newTree := none, deferred := [] }

/-- The walk that reads a sequence header at SUBMIT, and the log of its fault. -/
def noteHeader (c slot : Nat) : Act := fun s =>
  noteAccess (engineAgent c) (headerVa slot) 64 0 (stopOf (s.readVa (engineAgent c) (headerVa slot) 64)) s

/-- SUBMIT: the slot becomes READY with a fresh stamp (Table 10.3). -/
def doSubmit (c : Nat) (cmd : RingCmd) (b : Bytes) : Act := fun s =>
  let slot := cmd.slot.toNat
  let base := (s.baseLen c slot (fieldAt b 0x10 4)).getD 0
  let r : Request :=
    { state := Rq.ready, ctx := c, position := base, promptDone := base, stamp := s.stampNext % 2 ^ 32,
      params := slice b 0 128, userTag := cmd.userTag.toNat, promotes := List.replicate (fieldAt b 0x44 1) .idle }
  seqA [setReq slot (fun _ => r),
    act [.stamp, .undef (s.descAddr slot + 0xAC) 84]] s

/-- CANCEL (Table 10.3). -/
def doCancel (r : Nat) (index slot : Nat) : Act := fun s =>
  match (s.req slot).state with
  | 2 => setReq slot (fun q => { q with cancelPending := true, deferred := q.deferred ++ [(r, index)] }) s
  | _ => endRequest slot End.cancelled s

/-- UPDATE (Table 10.5). -/
def doUpdate (r index slot : Nat) (b : Bytes) : Act := fun s =>
  if (s.req slot).state = Rq.running then
    setReq slot (fun q => { q with newParams := some (slice b 0 128), deferred := q.deferred ++ [(r, index)] }) s
  else setReq slot (fun q => { applyParams b q with newParams := none }) s

/-- SET_TREE (Table 10.5). -/
def doSetTree (r index slot addr : Nat) : Act := fun s =>
  if (s.req slot).state = Rq.running then
    setReq slot (fun q => { q with newTree := some addr, deferred := q.deferred ++ [(r, index)] }) s
  else setReq slot (fun q => { q with treeHa := addr, newTree := none }) s

/-- The tile commands of an ISSUE with period_tag forced to 0 (Table 10.5). -/
def issueTiles (n : Nat) (b : Bytes) : List Bytes :=
  (List.range n).map fun i => putAt (slice b (64 * i) 64) 0x0C (zeros 2)

/-- ISSUE: its tile commands join the hub queue. -/
def doIssue (r : Nat) (index c : Nat) (cmd : RingCmd) (b : Bytes) : Act :=
  seqA [act [.issues fun is => is ++ [⟨r, index, cmd.slot.toNat, cmd.userTag.toNat, c, cmd.slot.toNat, 0, 0⟩]],
    hubAdd c (.issue r index) (issueTiles cmd.slot.toNat b)]

/-- The effect of a ring command that passed its checks; ISSUE and NOP complete later. -/
def ringEffect (r : RingId) (op : RingOp) (index : Nat) (cmd : RingCmd) (b : Bytes) : Act := fun s =>
  let c := s.ringCtx r
  let slot := cmd.slot.toNat
  let tag := cmd.userTag.toNat
  match op with
  | .submit => seqA [doSubmit c cmd b, noteHeader c slot, complete r 1 slot tag 0 0 index] s
  | .cancel => seqA [doCancel r index slot, complete r 2 slot tag 0 0 index] s
  | .update => seqA [doUpdate r index slot b, complete r 3 slot tag 0 0 index] s
  | .setTree => seqA [doSetTree r index slot cmd.addr.toNat, complete r 4 slot tag 0 0 index] s
  | .issue => doIssue r index c cmd b s
  | .nop => [.ring r fun x => { x with waiting := x.waiting ++ [(index, slot, tag)] }]

/-- The header fault of a SUBMIT refused with BAD_PARAMS is logged (R415). -/
def ringRefusal (r : RingId) (op : RingOp) (cmd : RingCmd) (block : HostResult) (status : Nat) : Act := fun s =>
  if op = .submit ∧ status = Cpl.badParams ∧ paramsOk (slice (resData block) 0 128) then
    noteHeader (s.ringCtx r) cmd.slot.toNat s else []

/-- Where the sequence header that a SUBMIT reads lies. -/
def State.headerPlaces (s : State) (r : RingId) (op : RingOp) (cmd : RingCmd) : List (Nat × Nat) :=
  if op = .submit then s.physPieces (engineAgent (s.ringCtx r)) (headerVa cmd.slot.toNat) 64 else []

/-- The device takes a command of a ring (R232, R233); a SUBMIT waits while the host holds its sequence header (R291). -/
def takeCommand (r : RingId) (op : RingOp) (cmd : RingCmd) (block : HostResult) : Act := fun s =>
  if !s.canTake r then []
  else withHost (·.headerPlaces r op cmd) (fun s =>
    let index := (s.ring r).taken
    let st := s.ringStatus r op cmd block
    seqA [noteTimeouts [(.commandBlock r, block)], hostReadOver (.commandEntry r), hostReadOver (.commandBlock r), takeOne r,
      if st = 0 then ringEffect r op index cmd (resData block)
      else seqA [ringRefusal r op cmd block st, complete r op.code cmd.slot.toNat cmd.userTag.toNat st 0 index],
      askEntry r] s) s

/-- The device takes a command whose opcode is not in Table 10.5. -/
def takeUnknown (r : RingId) (opcode : Nat) (cmd : RingCmd) : Act := fun s =>
  if !s.canTake r then []
  else
    let index := (s.ring r).taken
    seqA [hostReadOver (.commandEntry r), takeOne r,
      complete r opcode cmd.slot.toNat cmd.userTag.toNat Cpl.badCommand 0 index, askEntry r] s

/-- A command entry that could not be read: a record with opcode 0, user_tag 0 and status HOST_READ, and the ring
advances (Table 12.4). -/
def takeUnreadable (r : RingId) : Act := fun s =>
  if !s.canTake r then []
  else
    let index := (s.ring r).taken
    seqA [takeOne r, complete r 0 0 0 Cpl.hostRead 0 index, askEntry r] s

/-- The bytes that a ring command reads from the host beside itself. -/
def blockLen (op : RingOp) (cmd : RingCmd) : Nat :=
  match op with
  | .submit => 128
  | .update => 128
  | .issue => 64 * cmd.slot.toNat
  | _ => 0

/-- The data of a ring command arrives: it takes effect, or its block is read first. -/
def entryArrived (r : RingId) (b : Bytes) : Act := fun s =>
  let cmd := ringCmdOf b
  match RingOp.ofCode (fieldAt b 0 1) with
  | none => takeUnknown r (fieldAt b 0 1) cmd s
  | some op =>
    let st := s.ringStatus r op cmd (.ok [])
    if blockLen op cmd = 0 ∨ (st ≠ 0 ∧ st ≠ Cpl.badParams) then takeCommand r op cmd (.ok []) s
    else seqA [act [.ring r fun x => { x with entry := some (slice b 0 64) }],
      askHost (.commandBlock r) cmd.addr.toNat (blockLen op cmd)] s

/-- A command's block arrives, or fails. -/
def blockArrived (r : RingId) (res : HostResult) : Act := fun s =>
  match (s.ring r).entry with
  | none => []
  | some b => match RingOp.ofCode (fieldAt b 0 1) with
    | none => []
    | some op => takeCommand r op (ringCmdOf b) res s

/-! ## Ring commands that complete later -/

/-- A deferred effect of an earlier command of the ring is still to come (R231, Table 10.5). -/
def State.ringDeferred (s : State) (r index : Nat) : Bool :=
  s.reqs.any fun (_, q) => (q.cancelPending || q.newParams.isSome || q.newTree.isSome) &&
    q.deferred.any fun (x, i) => x == r && countDiff index i < 2 ^ 31

/-- An ISSUE completes when its tile commands have ended (R233, R39, R394). -/
def issueDone (r : RingId) (index : Nat) : Act := fun s =>
  match s.issues.find? (fun i => i.ring == r.val && i.index == index) with
  | none => []
  | some i =>
    if i.left ≠ 0 ∨ !s.hostUp then []
    else
      let st := if i.status ≠ 0 then i.status else if i.faulted ≠ 0 then Cpl.faulted else 0
      seqA [act [.issues (eraseFirst fun i => i.ring == r.val && i.index == index)],
        complete r 5 i.slot i.userTag st (min i.faulted 65535) index] s

/-- A NOP completes once every earlier command of its ring has taken effect. -/
def nopDone (r : RingId) (index : Nat) : Act := fun s =>
  match (s.ring r).waiting.find? (·.1 == index) with
  | none => []
  | some (_, slot, tag) =>
    if s.ringDeferred r index ∨ !s.hostUp then []
    else seqA [act [.ring r fun x => { x with waiting := x.waiting.filter (·.1 != index) }], complete r 6 slot tag 0 0 index] s

/-! ## Enabling (R228, R232) -/

/-- REQ_CTRL.enable: initialisation of the table starts; a write of 0 while any slot is in use has no effect (R253). -/
def engineEnable (on : Bool) : Act := fun s =>
  if on then (if s.flag Fld.reqCtrlEnable then [] else [.fld Fld.reqCtrlEnable 1])
  else if s.reqs.any (fun (_, r) => r.state != 0) then []
  else [.fld Fld.reqCtrlEnable 0, .fld Fld.reqStatusReady 0]

/-- Every slot of the table is written FREE, and `ready` sets; a retired page drops the writes (R205). -/
def tableReady : Act := fun s =>
  if !s.flag Fld.reqCtrlEnable ∨ s.flag Fld.reqStatusReady then []
  else ((pagePieces (s.fget Fld.reqTableBase * 2 ^ 26) (2 ^ 26)).filter fun p => !s.retired p.1).flatMap (fun (a, n) =>
    [.clear a n, .sound a n, .plainLines (a / 64) (n / 64)]) ++ [.reqClear, .fld Fld.reqStatusReady 1]

/-- REQ_CRINGr.enable is set: the counts restart and both line-0 counts are read (R232, R284). No effect on a ring that is enabled,
stopped ones too (R287). -/
def ringEnable (r : RingId) : Act := fun s =>
  if s.ringBusy r ∨ s.flag (Fld.reqCringEnable r) then []
  else seqA [act [.fld (Fld.reqCringEnable r) 1, .ring r fun _ => {}], askTail r, askCplHead r] s

/-- REQ_CCPLr.enable is set: likewise for the pair (R253). -/
def cplEnable (r : RingId) : Act := fun s =>
  if s.ringBusy r ∨ s.flag (Fld.reqCcplEnable r) then []
  else seqA [act [.fld (Fld.reqCcplEnable r) 1, .ring r fun _ => {}], askTail r, askCplHead r] s

/-- REQ_CRINGr.enable is cleared: no further command is taken. -/
def ringDisable (r : RingId) : Act :=
  act [.fld (Fld.reqCringEnable r) 0, .ring r fun x => { x with stopped := false, entry := none }]

/-- A read of a tail line ends (Table 12.4). -/
def tailRead (r : RingId) (res : HostResult) : Act :=
  match res with
  | .ok b => tailSeen r (fieldAt b 0 4)
  | .failed _ => act [.ring r fun x => { x with tailFailed := true }]

/-- A read of a completion ring's line 0 ends (Table 12.4). -/
def cplHeadRead (r : RingId) (res : HostResult) : Act :=
  match res with
  | .ok b => cplHeadSeen r (fieldAt b 0 4)
  | .failed _ => act [.ring r fun x => { x with headFailed := true }]

/-! ## End records (R245) -/

/-- The end record of an ENDING request, when a credit is free; its slot becomes FREE. Without a credit the head line is
read again, as at admission (R285; log entry 52). -/
def endRecord (slot : SlotId) : Act := fun s =>
  let r := s.req slot
  if r.state ≠ Rq.ending ∨ !s.hostUp then []
  else if r.credits = 0 then askHost (.headLine slot) (r.pf 0x40 8) 64 s
  else seqA [pourRecord slot r.endStatus 0 r.position 1, freeSlot slot] s

/-- ENDING requests of a context that find no credit are freed without the record (R245). -/
def freeUnwritten (c : Nat) : Act := fun s =>
  forA (s.slotsOf c) (fun k => fun t =>
    if (t.req k).state = Rq.ending ∧ (t.req k).credits = 0 then seqA [act [.inc Fld.reqCnt2EndUnwritten 1], freeSlot k] t else []) s

end Sys2Proof.Machine
end

