-- ==== Sys2Proof/Machine/Periods.lean ====
section
/-! DEFINITION. Serving periods: admission, the batch table, the step program, commit and drop, the period end, the
ranking of promotions. R13 to R15, R234 to R241, R244, R251, R271, R398, R415. -/

namespace Sys2Proof.Machine

open Sys2Proof

/-! ## Commit and drop -/

/-- A step of a period is neither committed nor dropped, and its request still runs. -/
def State.stepOpen (s : State) (st : Step) : Bool := !st.committed && !st.dropped && (s.req st.slot).state == Rq.running

/-- The first step of the current period of a context with an index changes. -/
def setStep (c i : Nat) (f : Step → Step) : Act :=
  act [.period c fun p => { p with steps := p.steps.zipIdx.map fun (x, j) => if j = i then f x else x }]

/-- Batch groups that a step's columns lie in. -/
def Step.groups (st : Step) : List Nat :=
  (List.range ((st.first + st.count - 1) / 64 - st.first / 64 + 1)).map (· + st.first / 64)

/-- Sampling jobs of steps that pass a test are abandoned. -/
def abandonJobs (p : SampleJob → Bool) : Act := fun s =>
  [.sampler fun m =>
    { queue := m.queue.filter (fun j => !p j)
      unit0 := if (m.unit0.map p).getD false then none else m.unit0
      unit1 := if (m.unit1.map p).getD false then none else m.unit1 }] ++
  (if (s.sampler.unit0.map p).getD false then [.fld (Fld.smpStatusBusy.item 0) 0] else []) ++
  (if (s.sampler.unit1.map p).getD false then [.fld (Fld.smpStatusBusy.item 1) 0] else [])

/-- The pending rows of a slot become undefined data (R270). -/
def undefPending (slot : Nat) : Act := fun s =>
  let r := s.req slot
  seqA [forA r.pendingRows (fun (_, va, n) => undefVa (engineAgent r.ctx) va n), act [.req slot fun r => { r with pendingRows := [] }]] s

/-- A dropped request: CANCELLED when a cancel is pending, FAULT after too many fault drops (R398), otherwise READY with
its stamp (Table 10.3). `counts` says that the drop adds to the count of fault drops. -/
def dropRequest (slot : Nat) (fault counts : Bool) : Act := fun s =>
  let r := s.req slot
  if r.state ≠ Rq.running then []
  else seqA [undefPending slot,
    if r.cancelPending then endRequest slot End.cancelled
    else if fault ∧ counts ∧ s.fget Fld.fltPolicyRetry ≤ r.faultDrops then endRequest slot End.fault
    else setReq slot (fun r => { r with state := Rq.ready, faultDrops := r.faultDrops + b2n (fault && counts) })] s

/-- The open steps of the current period that pass a test, by index. -/
def State.openSteps (s : State) (c : Nat) (p : Step → Bool) : List (Nat × Step) :=
  ((s.period c).steps.zipIdx.filter fun (x, _) => s.stepOpen x && p x).map fun (x, i) => (i, x)

/-- Uncommitted steps that pass a test are dropped (R13, R240). -/
def dropSteps (c : Nat) (fault counts : Bool) (p : Step → Bool) : Act := fun s =>
  let xs := s.openSteps c p
  seqA [forA xs fun (i, x) => seqA [setStep c i (fun y => { y with dropped := true }), act [.inc Fld.reqCntDropped 1],
      dropRequest x.slot fault counts],
    abandonJobs fun j => j.ctx == c && xs.any (fun (i, _) => i == j.step)] s

/-- A command of the context carries the tag of its current period. -/
def State.tagged (s : State) (c : Nat) (q : QCmd) : Bool :=
  q.ctx == c && q.periodTag == s.fget (Fld.reqPeriodNowTag c) && (match q.origin with
    | .period _ => true
    | .issue _ _ => false)

/-- A tag's successor: 1 to 65,535, then 1 again (R240). -/
def nextTag (t : Nat) : Nat := t % 65535 + 1

/-- The end of the current period of a context (R240). -/
def endPeriod (c : Nat) : Act := fun s =>
  if !(s.period c).running then []
  else seqA [cancelCmds (s.tagged c), dropSteps c false false (fun _ => true), abandonJobs (fun j => j.ctx == c),
    forA (s.slotsOf c) (fun k => fun t =>
      let r := t.req k
      if r.newParams.isSome ∨ r.newTree.isSome ∨ r.deferred ≠ [] then setReq k applyDeferred t else []),
    act [.fld (Fld.reqPeriodNowTag c) (nextTag (s.fget (Fld.reqPeriodNowTag c))),
      .period c fun p => { p with running := false, columns := [], steps := [], decodeGroups := 0, prefillGroups := 0,
                                  progIdx := 0, due := [], droppedGroups := [], dropPending := true }]] s

/-- A program error, or a fault on the engine's own accesses, ends the period at once (R235, R415). -/
def programError (c : Nat) : Act :=
  seqA [endPeriod c, act [.fld (Fld.reqPeriodNowProgError c) 1], periodEvent c 1]

/-- The period of every serving context ends (R283, R397). -/
def endPeriods : Act := forA (List.range 16) endPeriod

/-- A request whose step commits: READY with a fresh stamp, or ENDING on an end condition or when a cancel is pending
(Table 10.3). `e` is the end status that a condition of R244 gives, or 0. -/
def commitRequest (slot e : Nat) (f : Request → Request) : Act := fun s =>
  seqA [setReq slot (fun r =>
      let r := f r
      { r with state := Rq.ready, stamp := s.stampNext % 2 ^ 32, faultDrops := 0, pendingRows := r.pendingRows.filter (r.position ≤ ·.1) }),
    act [.stamp],
    if e ≠ 0 then endRequest slot e else if (s.req slot).cancelPending then endRequest slot End.cancelled else nothing] s

/-- Step `i` of the current period commits. -/
def commitStep (c i : Nat) (st : Step) (e : Nat) (f : Request → Request) : Act :=
  seqA [setStep c i (fun y => { y with committed := true }), act [.inc Fld.reqCntCommitted 1], commitRequest st.slot e f]

/-- The program of the current period has been walked. -/
def State.walked (s : State) (c : Nat) : Bool :=
  (s.period c).running && (s.period c).columns != [] && (s.period c).progEntries ≤ (s.period c).progIdx

/-- A command issued for batch group `g`, or for a ONCE entry, of the context's current period has not ended: a ONCE entry
is an earlier entry of every group (DEDUCED, log entry 16). -/
def State.groupBusy (s : State) (c g before : Nat) : Bool :=
  s.liveCmds.any fun q => q.ctx == c && (q.origin == .period (some g) || q.origin == .period none) && q.id < before

/-- Prefill chunks that do not end their prompt commit whole once the program has been walked and the commands of their
groups have completed (R15; log entry 15). -/
def commitChunks (c : Nat) : Act := fun s =>
  if !s.walked c then []
  else forA (s.openSteps c fun x => x.prefill) (fun (i, x) => fun t =>
    let r := t.req x.slot
    if r.promptDone + x.count < r.promptLen ∧ x.groups.all (fun g => !t.groupBusy c g t.hub.nextId) then
      commitStep c i x 0 (fun r => { r with position := r.position + x.count, promptDone := r.promptDone + x.count }) t
    else []) s

/-! ## Admission (R237, R238) -/

/-- Order of admission: priority, highest first, then ascending stamp. -/
def admitBefore (a b : Nat × Request) : Bool :=
  b.2.pf 0x3C 1 < a.2.pf 0x3C 1 || (a.2.pf 0x3C 1 == b.2.pf 0x3C 1 && a.2.stamp < b.2.stamp)

/-- READY requests of a context in admission order. -/
def State.ranked (s : State) (c : Nat) : List (Nat × Request) :=
  sortBy admitBefore (s.reqs.filter fun (_, r) => r.state == Rq.ready && r.ctx == c)

/-- Every promotion of the request has ended OK or MISMATCH (R239). -/
def Request.promoted (r : Request) : Bool := r.promotes.all (· == .ended)

/-- The nodes of a tree as (token, parent), with the depth of each, or none when it breaks a rule of R251. -/
def treeNodes (b : Bytes) : Option (List (Nat × Nat × Nat)) :=
  let n := fieldAt b 0 2
  if n = 0 ∨ 128 < n ∨ fieldAt b 2 6 ≠ 0 ∨ b.length < 8 + 8 * n then none
  else (List.range n).foldl (fun acc i =>
    match acc with
    | none => none
    | some xs =>
      let tok := fieldAt b (8 + 8 * i) 4
      let par := fieldAt b (12 + 8 * i) 2
      if fieldAt b (14 + 8 * i) 2 ≠ 0 ∨ (i ≠ 0 ∧ 2 ^ 20 ≤ tok) then none
      else if i = 0 then (if par = 0xFFFF then some [(tok, par, 0)] else none)
      else if i ≤ par then none
      else match xs[par]? with
        | none => none
        | some (_, _, d) => if 16 < d + 1 then none else some (xs ++ [(tok, par, d + 1)])) (some [])

/-- The nodes no deeper than `depth`, with parents renumbered among those kept. -/
def pruneTree (depth : Nat) (xs : List (Nat × Nat × Nat)) : List (Nat × Nat) :=
  let kept := xs.zipIdx.filter fun (x, _) => x.2.2 ≤ depth
  kept.map fun (x, _) => (x.1, if x.2.1 = 0xFFFF then 0xFFFF else ((findIdx (fun (y : (Nat × Nat × Nat) × Nat) => y.2 == x.2.1) kept 0).map (·.1)).getD 0)

/-- What admission has formed so far. -/
structure Adm where
  decodeLeft : Nat
  prefillLeft : Nat
  admitted : List Nat := []
  decodes : List Step := []
  chunks : List Step := []
  deriving DecidableEq, Repr

/-- What admission finds for one request beside its descriptor. -/
inductive Look where
  | skip
  | pause
  | ringError
  | go (nodes : List (Nat × Nat)) (rejected : Bool)
  deriving DecidableEq, Repr

/-- The result listed for a slot among the reads of an event; a read that is not listed failed (log entry 14). -/
def resultFor (xs : List (SlotId × HostResult)) (slot : Nat) : HostResult :=
  ((xs.find? fun p => p.1.val == slot).map (·.2)).getD (.failed false)

/-- The credits of a request after the head line is re-read when the stored value is too low (R285, R287). -/
def lookHead (r : Request) (need : Nat) (heads : List (SlotId × HostResult)) (slot : Nat) : Option Request :=
  if need ≤ r.credits then some r
  else match resultFor heads slot with
    | .failed _ => if (heads.any fun p => p.1.val == slot) then none else some r
    | .ok b => if headValid r (fieldAt b 0 4) then some { r with head := fieldAt b 0 4 } else none

/-- The tree of a request, or its root alone (R251): nodes with depths, and whether the tree was rejected. -/
def lookTree (r : Request) (trees : List (SlotId × HostResult)) (slot : Nat) : List (Nat × Nat × Nat) × Bool :=
  if r.treeHa = 0 then ([], false)
  else match resultFor trees slot with
    | .failed _ => ([(0, 0xFFFF, 0)], true)
    | .ok b => match treeNodes b with
      | none => ([(0, 0xFFFF, 0)], true)
      | some xs => (xs, false)

/-- A compaction of the slot is in flight (R271). -/
def State.compacting (s : State) (slot : Nat) : Bool := s.pages.compactions.any (·.slot == slot)

/-- One request at admission (R238, R239, R251, R271). -/
def lookAt (r : Request) (busy : Bool) (heads trees : List (SlotId × HostResult)) (slot : Nat) : Look × Nat :=
  if !r.promoted ∨ busy then (.skip, r.head)
  else
    let (xs, bad) := if r.promptDone = r.promptLen then lookTree r trees slot else ([], false)
    let need := xs.foldl (fun m x => max m (x.2.2 + 1)) 1
    match lookHead r need heads slot with
    | none => (.ringError, r.head)
    | some q =>
      if q.credits = 0 then (.pause, q.head)
      else (.go (pruneTree (q.credits - 1) xs) bad, q.head)

/-- A decode candidate is admitted while its cost fits and the period holds fewer than max_sequences sequences. -/
def admitDecode (maxSeq slot : Nat) (nodes : List (Nat × Nat)) (bad : Bool) (a : Adm) : Adm :=
  let cost := max 1 nodes.length
  if cost ≤ a.decodeLeft ∧ a.admitted.length < maxSeq then
    { a with decodeLeft := a.decodeLeft - cost, admitted := a.admitted ++ [slot]
             decodes := a.decodes ++ [{ slot := slot, prefill := false, first := 0, count := cost, nodes := nodes, treeRejected := bad }] }
  else a

/-- A prefill chunk: min of what is left, max_chunk and the capacity, a multiple of 64 unless it ends the prompt. -/
def admitChunk (maxSeq maxChunk slot : Nat) (r : Request) (a : Adm) : Adm :=
  let left := r.promptLen - r.promptDone
  let n := min left (min maxChunk a.prefillLeft)
  let n := if n = left then n else n / 64 * 64
  if n = 0 ∨ maxSeq ≤ a.admitted.length then a
  else { a with prefillLeft := a.prefillLeft - n, admitted := a.admitted ++ [slot]
                chunks := a.chunks ++ [{ slot := slot, prefill := true, first := 0, count := n }] }

/-- One round of admission over the candidates of one kind. -/
def admitRound (ps : PeriodSettings) (prefill : Bool) (xs : List (Nat × Request × Look)) (a : Adm) : Adm :=
  xs.foldl (fun a (slot, r, l) =>
    match l with
    | .go nodes bad =>
      if a.admitted.contains slot ∨ decide (r.promptDone < r.promptLen) ≠ prefill then a
      else if prefill then admitChunk ps.maxSequences ps.maxChunk slot r a
      else admitDecode ps.maxSequences slot nodes bad a
    | _ => a) a

/-- Both rounds of R238: the second offers the capacity left over by either kind to the other. -/
def admitAll (ps : PeriodSettings) (budget : Nat) (xs : List (Nat × Request × Look)) : Adm :=
  let p := budget * ps.prefillShare / 1000
  let a := admitRound ps false xs { decodeLeft := budget - p, prefillLeft := p }
  let a := admitRound ps true xs a
  let a := admitRound ps false xs { a with decodeLeft := a.decodeLeft + a.prefillLeft }
  admitRound ps true xs { a with prefillLeft := a.decodeLeft }

/-- Steps placed one after another from a column. -/
def placeSteps : Nat → List Step → List Step
  | _, [] => []
  | c, x :: t => { x with first := c } :: placeSteps (c + x.count) t

/-- The columns of a step (R236, Table 10.9). `prompt` holds the chunk's tokens, read from prompt_ha + 4 × prompt_done. -/
def stepColumns (r : Request) (prompt : Bytes) (x : Step) : List Column :=
  if x.prefill then
    (List.range x.count).map fun i =>
      ⟨x.slot, r.position + i, fieldAt prompt (4 * i) 4 % 2 ^ 20, none, r.promptDone + i + 1 == r.promptLen, false, true⟩
  else if x.nodes = [] then [⟨x.slot, r.position, r.lastToken % 2 ^ 20, none, true, false, false⟩]
  else
    let depth (i : Nat) : Nat := (List.range 17).findIdx fun d =>
      Nat.repeat (fun j => ((x.nodes[j]?).map (·.2)).getD 0xFFFF) (d + 1) i == 0xFFFF
    x.nodes.zipIdx.map fun (n, i) =>
      ⟨x.slot, r.position + depth i, if i = 0 then r.lastToken % 2 ^ 20 else n.1,
        if n.2 = 0xFFFF then none else some (x.first + n.2), true, true, false⟩

/-- A batch column entry (Table 10.9); padding is all ones (R236). -/
def columnBytes : Option Column → Bytes
  | none => List.replicate 16 0xFF
  | some k => leBytes 4 (k.slot + b2n k.sample * 2 ^ 29 + b2n k.tree * 2 ^ 30 + b2n k.prefill * 2 ^ 31) ++
      leBytes 4 k.position ++ leBytes 4 k.token ++ leBytes 4 (k.parent.getD 0xFFFF_FFFF)

/-- The batch table of a period (R236). -/
def batchBytes (tag : Nat) (p : Period) : Bytes :=
  leBytes 2 tag ++ zeros 2 ++ leBytes 4 (p.columns.filter (·.isSome)).length ++ leBytes 4 p.decodeGroups ++
  leBytes 4 p.prefillGroups ++ zeros 48 ++ p.columns.flatMap columnBytes

/-- Bytes of a half of the batch area (R236). -/
def batchHalf (budget : Nat) : Nat := 64 + 16 * (budget + 63)

/-- Address of the batch table of period `serial`: its half of the batch area by the period's parity (R236). -/
def State.batchVaOf (s : State) (c serial budget : Nat) : Nat :=
  s.fget (Fld.reqBatchVa c) * 64 + (serial + Config.batchPhase) % 2 * batchHalf budget

/-- Address of the batch table of the current period. -/
def State.batchVa (s : State) (c : Nat) : Nat := s.batchVaOf c (s.period c).serial (s.period c).budget

/-- A slice boundary switches a cluster only while its target is ON: a GATED one keeps its context, its state and the commands it holds,
and one in OFF holds no context (R416). -/
def State.switchable (s : State) (k : Nat) : Bool := s.fget (Fld.pwrClusterTarget k) == 0

/-- The context is running on every cluster of its grant (R241). DESIGN CHOICE: of these, clusters that a boundary does not switch are
left out, so that a gated cluster holds up no period (log entry 22). -/
def State.runningAll (s : State) (c : Nat) : Bool :=
  s.granted c != [] && (s.granted c).all fun k => !s.switchable k || ((s.cluster k).ctx == some c && (s.cluster k).taken)

/-- The requests that admission looks at, with what it finds. -/
def State.looks (s : State) (c : Nat) (heads trees : List (SlotId × HostResult)) : List (Nat × Request × Look × Nat) :=
  (s.ranked c).map fun (slot, r) => (slot, r, lookAt r (s.compacting slot) heads trees slot)

/-- A request pauses; a watched head line is read (R284, R285). -/
def pauseRequest (slot head : Nat) : Act :=
  seqA [setReq slot (fun r => { r with head := head, state := Rq.paused }),
    act [.port fun p => { p with paused := p.paused.filter (· != slot) ++ [slot] }],
    fun s => if h : slot < 262144 then (if s.headWatched slot then askHead ⟨slot, h⟩ s else []) else []]

/-- What admission changes in a request that it turns away: a new head value, PAUSED, or RING_ERROR. -/
def settleLook (slot : Nat) (l : Look) (head : Nat) : Act :=
  match l with
  | .ringError => endRequest slot End.ringError
  | .pause => pauseRequest slot head
  | _ => setReq slot fun r => { r with head := head }

/-- The period that admission forms, with the prompts that were read. -/
def formPeriod (s : State) (budget entries vocab : Nat) (a : Adm) (prompts : List (SlotId × HostResult)) : Period :=
  let ok := a.chunks.filter fun x => resOk (resultFor prompts x.slot)
  let dec := placeSteps 0 a.decodes
  let used := (dec.map (·.count)).sum
  let start := alignUp used 64
  let pre := placeSteps start ok
  let cols (x : Step) : List (Option Column) := (stepColumns (s.req x.slot) (resData (resultFor prompts x.slot)) x).map some
  let columns := dec.flatMap cols ++ List.replicate (start - used) none ++ pre.flatMap cols
  { running := true
    columns := columns
    steps := dec ++ pre
    decodeGroups := start / 64
    prefillGroups := ceilDiv ((pre.map (·.count)).sum) 64
    budget := budget
    progEntries := entries
    vocab := vocab }

/-- An admitted request: RUNNING; a rejected tree is counted; the tree of the step is used up. -/
def runRequest (x : Step) : Act :=
  seqA [setReq x.slot (fun r => { r with state := Rq.running, treeHa := if x.prefill then r.treeHa else 0 }),
    if x.treeRejected then act [.inc Fld.reqCnt2BadTree 1] else nothing]

/-! ## The step program (R234, R235) -/

/-- Address of a program entry. -/
def State.progAddr (s : State) (c i : Nat) : Nat := s.fget (Fld.reqProgVa c) * 128 + 128 * i

/-- Kinds of program entries (Table 10.7). -/
def Prog.once : Nat := 1
/-- GROUP. -/
def Prog.group : Nat := 2
/-- SAMPLE. -/
def Prog.sample : Nat := 3

/-- Batch groups that an entry applies to (Table 10.7), without those whose steps have been dropped. -/
def State.applies (s : State) (c : Nat) (b : Bytes) : List Nat :=
  let p := s.period c
  let a := fieldAt b 0x41 1
  (List.range (p.decodeGroups + p.prefillGroups)).filter fun g =>
    (if g < p.decodeGroups then bitOf a 0 else bitOf a 1) && !p.droppedGroups.contains g

/-- Offsets of the address fields that patch bits 1 to 5 name. -/
def patchOffs (patch : Nat) : List Nat :=
  ([(1, 0x10), (2, 0x18), (3, 0x20), (4, 0x28), (5, 0x30)].filter fun p => bitOf patch p.1).map (·.2)

/-- No patched address passes bit 56 for the groups given (R235). -/
def patchOk (b : Bytes) (gs : List Nat) : Bool :=
  let stride := fieldAt b 0x48 8
  (patchOffs (fieldAt b 0x42 1)).all fun o => gs.all fun g => fieldAt b o 8 + g * stride < 2 ^ 57

/-- Opcodes whose byte 0x05 is a column count (R234). -/
def hasColumns (op : Nat) : Bool := (1 ≤ op && op ≤ 7) || op == 0x0F

/-- The checks of R235 on a program entry. -/
def entryOk (b : Bytes) (gs : List Nat) : Bool :=
  let kind := fieldAt b 0x40 1
  let op := fieldAt b 0 1
  let patch := fieldAt b 0x42 1
  1 ≤ kind && kind ≤ 3 && fieldAt b 0x41 1 < 4 && patch < 64 && fieldAt b 0x43 5 == 0 && allZero (slice b 0x50 48) &&
  patchOk b gs &&
  (if kind = Prog.sample then
    fieldAt b 0 4 == 0 && fieldAt b 7 1 == 0 && allZero (slice b 0x28 24) && fieldAt b 6 1 ≤ 1 && 1 ≤ fieldAt b 4 2 &&
    fieldAt b 4 2 ≤ 1024 && fieldAt b 8 8 % 64 == 0 && fieldAt b 4 2 * 8 ≤ fieldAt b 8 8 && fieldAt b 0x20 8 % 64 == 0
  else 1 ≤ op && op ≤ 0x0F && (!bitOf patch 0 || hasColumns op))

/-- A program entry as read through the context, or the stop it met. -/
def State.progEntry (s : State) (c : Nat) : Except Stop Bytes :=
  s.readVa (engineAgent c) (s.progAddr c (s.period c).progIdx) 128

/-- Where the entry at the walk's place lies in memory. -/
def State.progPlaces (s : State) (c : Nat) : List (Nat × Nat) :=
  s.physPieces (engineAgent c) (s.progAddr c (s.period c).progIdx) 128

/-- The columns of a group that are not padding. -/
def State.groupColumns (s : State) (c g : Nat) : Nat :=
  (((s.period c).columns.drop (64 * g)).take 64 |>.filter (·.isSome)).length

/-- The command that an entry issues: the period's tag, and for a group its patches (Table 10.7). -/
def patched (s : State) (c : Nat) (b : Bytes) (g : Option Nat) : Bytes :=
  let cmd := putAt (slice b 0 64) 0x0C (leBytes 2 (s.fget (Fld.reqPeriodNowTag c)))
  match g with
  | none => cmd
  | some g =>
    let cmd := if bitOf (fieldAt b 0x42 1) 0 then putAt cmd 5 (leBytes 1 (s.groupColumns c g)) else cmd
    (patchOffs (fieldAt b 0x42 1)).foldl (fun x o => putAt x o (leBytes 8 (fieldAt b o 8 + g * fieldAt b 0x48 8))) cmd

/-- The fields of a SAMPLE entry. -/
def sampleInfo (b : Bytes) : SampleInfo :=
  ⟨fieldAt b 4 2, fieldAt b 6 1, fieldAt b 8 8, fieldAt b 0x10 8, fieldAt b 0x18 8, fieldAt b 0x20 8, fieldAt b 0x48 8,
    bitOf (fieldAt b 0x42 1) 1, bitOf (fieldAt b 0x42 1) 2⟩

/-- The walk moves past its entry. -/
def nextEntry (c : Nat) : Act := act [.period c fun p => { p with progIdx := p.progIdx + 1 }]

/-- SAMPLE entries issue nothing: the walk passes them and their groups wait to be handed over (R234). -/
def passSamples (c : Nat) : Nat → Act
  | 0 => nothing
  | fuel + 1 => fun s =>
    let p := s.period c
    if !p.running ∨ p.columns = [] ∨ p.progEntries ≤ p.progIdx then []
    else withHost (·.progPlaces c) (match s.progEntry c with
      | .error e => seqA [noteAccess (engineAgent c) (s.progAddr c p.progIdx) 128 0 (some e), programError c]
      | .ok b =>
        if !entryOk b (s.applies c b) then programError c
        else if fieldAt b 0x40 1 ≠ Prog.sample then nothing
        else seqA [noteAccess (engineAgent c) (s.progAddr c p.progIdx) 128 0 none,
          act [.period c fun p => { p with
            due := p.due ++ (s.applies c b).map fun g => ⟨p.progIdx, g, s.hub.nextId, sampleInfo b⟩ }],
          nextEntry c, passSamples c fuel]) s

/-- The walk looks at the next entries: SAMPLE entries are passed, and chunks may commit at the program's end. -/
def walkOn (c : Nat) : Act := fun s => seqA [passSamples c ((s.period c).progEntries + 1), commitChunks c] s

/-- The entry at the walk's place is issued when it is of the kind asked for (R234). A walk that stands at a SAMPLE entry has waited
for the host, and goes on (R291). -/
def issueEntry (c kind : Nat) : Act := fun s =>
  let p := s.period c
  if !p.running ∨ p.columns = [] ∨ p.progEntries ≤ p.progIdx then []
  else withHost (·.progPlaces c) (match s.progEntry c with
    | .error e => seqA [noteAccess (engineAgent c) (s.progAddr c p.progIdx) 128 0 (some e), programError c]
    | .ok b =>
      if !entryOk b (s.applies c b) then programError c
      else if fieldAt b 0x40 1 = Prog.sample then walkOn c
      else if fieldAt b 0x40 1 ≠ kind then nothing
      else seqA [noteAccess (engineAgent c) (s.progAddr c p.progIdx) 128 0 none,
        if kind = Prog.once then hubAdd c (.period none) [patched s c b none]
        else forA (s.applies c b) fun g => hubAdd c (.period (some g)) [patched s c b (some g)],
        nextEntry c, walkOn c]) s

/-- A column feeds SAMPLE entries. -/
def State.samples (s : State) (c k : Nat) : Bool := ((((s.period c).columns[k]?).join).map (·.sample)).getD false

/-- The sampled columns of a step, by their number in the batch. -/
def State.sampledOf (s : State) (c : Nat) (x : Step) : List Nat :=
  ((List.range x.count).map (x.first + ·)).filter (s.samples c)

/-- The first group due at a group number whose earlier commands have completed. -/
def State.dueGroup (s : State) (c g : Nat) : Option SampleDue :=
  (s.period c).due.find? fun d => d.group == g && !s.groupBusy c g d.before

/-- A group's sampled columns are handed to the sampling units (R234, R247). One job for each column. -/
def handGroup (c g : Nat) : Act := fun s =>
  match s.dueGroup c g with
  | none => []
  | some d =>
    let jobs := (s.openSteps c fun _ => true).flatMap fun (i, x) => ((s.sampledOf c x).filter (· / 64 == g)).map
      fun k => (⟨c, s.fget (Fld.reqPeriodNowTag c), i, k, d.info⟩ : SampleJob)
    [.period c fun p => { p with due := eraseFirst (· == d) p.due },
     .sampler fun m => { m with queue := m.queue ++ jobs }]

/-! ## Period start (R236, R238, R241) -/

/-- A period of the context may start. -/
def State.canStart (s : State) (c : Nat) : Bool :=
  (s.image c).period.isSome && s.flag Fld.reqStatusReady && s.hostUp && !s.basic && !s.stopped c && s.ctxState c == 3 &&
  s.runningAll c && !(s.period c).running

/-- The batch table is written, or the period ends (R415). -/
def writeBatch (c : Nat) : Act := fun s =>
  let va := s.batchVa c
  let d := batchBytes (s.fget (Fld.reqPeriodNowTag c)) (s.period c)
  match s.checkVa (engineAgent c) va d.length with
  | some e => seqA [noteAccess (engineAgent c) va d.length 1 (some e), programError c] s
  | none => seqA [noteAccess (engineAgent c) va d.length 1 none, storeVa (engineAgent c) va d] s

/-- Where the batch table of the next period may lie in memory. -/
def State.nextBatch (s : State) (c : Nat) : List (Nat × Nat) :=
  let b := s.fget (Fld.reqCtxBudget c)
  s.physPieces (engineAgent c) (s.batchVaOf c ((s.period c).serial + 1) b) (batchHalf b)

/-- The start of a serving period: admission, the batch table, and the first look at the program. -/
def startPeriod (c : Nat) (heads trees prompts : List (SlotId × HostResult)) : Act := fun s =>
  match (s.image c).period with
  | none => []
  | some ps =>
    if !s.canStart c then []
    else withHost (·.nextBatch c) (fun s =>
      let looks := s.looks c heads trees
      let budget := s.fget (Fld.reqCtxBudget c)
      let a := admitAll ps budget (looks.map fun (k, r, l, _) => (k, r, l))
      let bad := a.chunks.filter fun x => !resOk (resultFor prompts x.slot)
      let serial := (s.period c).serial + 1
      seqA [noteTimeouts (heads.map (fun p => (.headLine p.1, p.2)) ++ trees.map (fun p => (.tree p.1, p.2)) ++
          prompts.map fun p => (.prompt p.1, p.2)), act [.period c (fun p => { p with serial := serial }), .fld (Fld.reqPeriodNowCount c) serial,
          .fld (Fld.reqPeriodNowTag c) (max 1 (s.fget (Fld.reqPeriodNowTag c)))],
        forA looks (fun (k, r, l, h) => if h = r.head ∧ l ≠ .pause ∧ l ≠ .ringError then nothing else settleLook k l h),
        forA bad (fun x => endRequest x.slot End.ringError),
        fun t =>
          let p := formPeriod t budget (t.fget (Fld.reqCtxProgEntries c)) (t.fget (Fld.reqCtxVocab c)) a prompts
          seqA [act [.period c fun q => { p with dropPending := q.dropPending, serial := q.serial }],
            forA p.steps runRequest, writeBatch c, walkOn c] t] s) s

/-- The drop of a period is complete: the period_end event (R293). -/
def dropComplete (c : Nat) : Act := fun s =>
  if (s.period c).dropPending then seqA [act [.period c fun p => { p with dropPending := false }], periodEvent c 0] s else []

/-! ## Ranking (R239) -/

/-- The addresses of a request's promote list. -/
def State.promoteList (s : State) (r : Request) : Except Stop Bytes :=
  if r.pf 0x64 1 = 0 then .ok [] else s.readVa (engineAgent r.ctx) (r.pf 0x70 8) (8 * r.pf 0x64 1)

/-- The promotions of one ranked request are posted as far as the internal queue of 256 entries has room. -/
def postPromotes (slot : Nat) : Act := fun s =>
  let r := s.req slot
  let want := r.promotes.zipIdx.filter fun (p, _) => p == .idle || p == .failed
  if want = [] then []
  else withHost (fun t => t.physPieces (engineAgent r.ctx) (r.pf 0x70 8) (8 * r.pf 0x64 1)) (fun s => match s.promoteList r with
    | .error e => seqA [noteAccess (engineAgent r.ctx) (r.pf 0x70 8) (8 * r.pf 0x64 1) 0 (some e),
        endRequest slot (match e with | .poison _ => End.poison | _ => End.fault)] s
    | .ok b =>
      let post := (want.take (256 - s.mig.internal.length)).map (·.2)
      seqA [noteAccess (engineAgent r.ctx) (r.pf 0x70 8) (8 * r.pf 0x64 1) 0 none,
        act [.mig fun m => { m with internal := m.internal ++ post.map fun i => (r.ctx, slot, fieldAt b (8 * i) 8, i) }],
        setReq slot fun r => { r with promotes := r.promotes.zipIdx.map fun (p, i) => if post.contains i then .inFlight else p }] s) s

/-- A promotion of a request has ended (R239): when all ended OK or MISMATCH, promote_count becomes 0. -/
def promoteEnded (slot i : Nat) (ok : Bool) : Act := fun s =>
  let r := s.req slot
  if r.state = 0 ∨ r.promotes.length ≤ i then []
  else
    let ps := r.promotes.zipIdx.map fun (p, j) => if j = i then (if ok then .ended else .failed) else p
    setReq slot (fun r => if ps.all (· == .ended) then { r with promotes := [], params := putAt r.params 0x44 [0] }
      else { r with promotes := ps }) s

/-- The ranking point: head lines of requests without a watch entry are read, and promotions are posted (R239, R285). -/
def rankPromotes (c : Nat) (heads : List (SlotId × HostResult)) : Act :=
  seqA [noteTimeouts (heads.map fun p => (.headLine p.1, p.2)), forA heads (fun (k, res) => fun s =>
      if (s.req k).ctx ≠ c ∨ (s.req k).state ≠ Rq.paused ∨ s.headWatched k then []
      else seqA [act [.inc Fld.cxlCntPolls 1], match res with
        | .ok b => headSeen k (fieldAt b 0 4)
        | .failed _ => endRequest k End.ringError] s),
    fun s =>
      let xs := s.ranked c
      forA ((xs.filter (fun x => x.2.promptDone == x.2.promptLen) ++ xs.filter (fun x => x.2.promptDone != x.2.promptLen)).map
        (·.1)) postPromotes s]

/-! ## Faults of a period's commands (R398) -/

/-- A fault in a command of a period: the uncommitted steps of its group, or of the period for a ONCE entry, are dropped
at once, and the commands of the group are cancelled (R240, R398, log entry 15). -/
def faultDrop (c : Nat) (group : Option Nat) (counts : Bool) (unit detail : Nat) : Act := fun s =>
  let hit (x : Step) : Bool := match group with
    | none => true
    | some g => x.groups.contains g
  let n := (s.openSteps c hit).length
  let all := List.range ((s.period c).decodeGroups + (s.period c).prefillGroups)
  seqA [dropSteps c true counts hit,
    cancelCmds (match group with
      | none => s.tagged c
      | some g => fun q => s.tagged c q && q.origin == .period (some g)),
    act [.period c fun p => { p with droppedGroups := p.droppedGroups ++ (match group with
      | none => all
      | some g => [g]) }],
    if n = 0 then nothing
    else seqA [faultRecord 0x01 11 c unit detail n 0 false, act [.inc Fld.fltCntStepsDropped n]]] s

/-! ## Meanings -/

/-- REQUEST_ENGINE_ENABLE: the driver sets REQ_CTRL.enable (R228). -/
def execRequestEngineEnable (s : State) : Host.Outcome State Fault Refusal :=
  done (fun s => if s.bound3 then engineEnable true s else []) s

/-- REQUEST_TABLE_READY (R228). -/
def execRequestTableReady (s : State) : Host.Outcome State Fault Refusal := done tableReady s

/-- COMMAND_RING_ENABLE, with the two line-0 reads that it makes (R232, R284). -/
def execCommandRingEnable (ring : RingId) (tail head : HostResult) (s : State) : Host.Outcome State Fault Refusal :=
  done (fun s => if !s.bound3 ∨ s.ringBusy ring ∨ s.flag (Fld.reqCringEnable ring) then []
    else seqA [ringEnable ring, noteTimeouts [(.tailLine ring, tail), (.completionLine ring, head)], hostReadOver (.tailLine ring), hostReadOver (.completionLine ring),
      cplHeadRead ring head, tailRead ring tail] s) s

/-- COMMAND_RING_DISABLE (R232). -/
def execCommandRingDisable (ring : RingId) (s : State) : Host.Outcome State Fault Refusal :=
  done (fun s => if s.bound3 then ringDisable ring s else []) s

/-- SUBMIT (R233, Table 10.5). -/
def execSubmit (ring : RingId) (cmd : RingCmd) (block : HostResult) (s : State) : Host.Outcome State Fault Refusal :=
  done (takeCommand ring .submit cmd block) s

/-- CANCEL (R231, Table 10.3). -/
def execCancel (ring : RingId) (cmd : RingCmd) (s : State) : Host.Outcome State Fault Refusal :=
  done (takeCommand ring .cancel cmd (.ok [])) s

/-- UPDATE (Table 10.5). -/
def execUpdate (ring : RingId) (cmd : RingCmd) (block : HostResult) (s : State) : Host.Outcome State Fault Refusal :=
  done (takeCommand ring .update cmd block) s

/-- SET_TREE (R251). -/
def execSetTree (ring : RingId) (cmd : RingCmd) (s : State) : Host.Outcome State Fault Refusal :=
  done (takeCommand ring .setTree cmd (.ok [])) s

/-- ISSUE (R233). -/
def execIssue (ring : RingId) (cmd : RingCmd) (tiles : HostResult) (s : State) : Host.Outcome State Fault Refusal :=
  done (takeCommand ring .issue cmd tiles) s

/-- ISSUE_COMPLETE (R233). -/
def execIssueComplete (ring : RingId) (index : Nat) (s : State) : Host.Outcome State Fault Refusal :=
  done (issueDone ring index) s

/-- NOP (Table 10.5). -/
def execNop (ring : RingId) (cmd : RingCmd) (s : State) : Host.Outcome State Fault Refusal :=
  done (takeCommand ring .nop cmd (.ok [])) s

/-- NOP_COMPLETE (Table 10.5). -/
def execNopComplete (ring : RingId) (index : Nat) (s : State) : Host.Outcome State Fault Refusal :=
  done (nopDone ring index) s

/-- UNKNOWN_RING_COMMAND: an opcode not in Table 10.5 completes with BAD_COMMAND. -/
def execUnknownRingCommand (ring : RingId) (opcode : Byte) (cmd : RingCmd) (s : State) : Host.Outcome State Fault Refusal :=
  done (if (RingOp.ofCode opcode.toNat).isNone then takeUnknown ring opcode.toNat cmd else nothing) s

/-- PERIOD_START (R238). -/
def execPeriodStart (ctx : Ctx) (heads trees prompts : List (SlotId × HostResult)) (s : State) :
    Host.Outcome State Fault Refusal := done (startPeriod ctx heads trees prompts) s

/-- ONCE_ENTRY (R234). -/
def execOnceEntry (ctx : Ctx) (s : State) : Host.Outcome State Fault Refusal := done (issueEntry ctx Prog.once) s

/-- GROUP_ENTRY (R234). -/
def execGroupEntry (ctx : Ctx) (s : State) : Host.Outcome State Fault Refusal := done (issueEntry ctx Prog.group) s

/-- SAMPLE_ENTRY (R234). -/
def execSampleEntry (ctx : Ctx) (group : Nat) (s : State) : Host.Outcome State Fault Refusal := done (handGroup ctx group) s

/-- PROMOTE_RANKING (R239). -/
def execPromoteRanking (ctx : Ctx) (heads : List (SlotId × HostResult)) (s : State) : Host.Outcome State Fault Refusal :=
  done (rankPromotes ctx heads) s

/-- END_RECORD_WRITE (R245). -/
def execEndRecordWrite (slot : SlotId) (s : State) : Host.Outcome State Fault Refusal := done (endRecord slot) s

/-- UNLOAD_END_RECORD_TIMEOUT: 1 ms after DRAINING begins (R245). -/
def execUnloadEndRecordTimeout (ctx : Ctx) (s : State) : Host.Outcome State Fault Refusal :=
  done (fun s => if s.ctxState ctx = 4 then freeUnwritten ctx s else []) s

end Sys2Proof.Machine
end

