-- ==== Sys2Proof/Machine/Pool.lean ====
section
/-! DEFINITION. Pool banks: ownership and handover, power states, release, and the march test engine; the debugger's access
to galleys. R160, R166 to R180, R359. -/

namespace Sys2Proof.Machine

open Sys2Proof

/-! ## Ownership (R168) -/

/-- A value names an owner that the bank's context may have: the die DMA engine, or a core of one of its groups. -/
def State.ownerAllowed (s : State) (c o : Nat) : Bool := o == 0xFFFE || (s.groupOfCore c o).isSome

/-- A write of POOL_OWNER.owner (R168; a write that would be refused is judged before one that names the present owner,
log entry 21). -/
def poolOwner (b o : Nat) : Act := fun s =>
  if !s.flag (Fld.poolOwnerValid b) ∨ s.flag (Fld.poolOwnerBusy b) ∨ !s.ownerAllowed (s.fget (Fld.poolOwnerContext b)) o then
    [.fld (Fld.poolOwnerReject b) 1]
  else if o = s.fget (Fld.poolOwnerOwner b) then []
  else [.fld (Fld.poolOwnerBusy b) 1, .bank b fun x => { x with handover := some o }]

/-- Step 3 of Table 7.4. -/
def poolHandover (b : Nat) : Act := fun s =>
  match (s.bank b).handover with
  | none => []
  | some o => [.fld (Fld.poolOwnerOwner b) o, .fld (Fld.poolOwnerBusy b) 0, .bank b fun x => { x with handover := none }]

/-! ## Power states (R171 to R174) -/

/-- POOL_STATE.status while no test runs: PENDING when ON is asked of a bank that shuts down, TRANSITION in any other
move, else STABLE (R173). -/
def State.bankStatus (s : State) (b : Nat) : Nat :=
  match (s.bank b).goal with
  | none => 0
  | some g => if g ≠ 0 ∧ s.fget (Fld.poolStateTarget b) = 0 then 2 else 1

/-- The status field follows the move in progress; a test shows as TEST. -/
def bankShow (b : Nat) : Act := fun s =>
  if s.fget (Fld.poolStateStatus b) = 3 then [] else [.fld (Fld.poolStateStatus b) (s.bankStatus b)]

/-- A move towards the target starts when the bank is not there and neither moves nor is under test. -/
def bankMove (b : Nat) : Act := fun s =>
  let t := s.fget (Fld.poolStateTarget b)
  if (s.bank b).goal = none ∧ s.fget (Fld.poolStateStatus b) ≠ 3 ∧ s.fget (Fld.poolStateCurrent b) ≠ t then
    [.bank b fun x => { x with goal := some t }]
  else []

/-- A write of POOL_STATE.target; 3 has no effect. -/
def poolTarget (b t : Nat) : Act :=
  if t = 3 then nothing
  else seqA [act [.fld (Fld.poolStateTarget b) t], bankMove b, bankShow b]

/-- What a bank's contents become when it reaches a state: lost in OFF; after a wake from OFF cleared under clear_on_wake, else
undefined (R171, R172). -/
def bankContents (b g : Nat) : Act := fun s =>
  if g ≠ 2 ∧ s.fget (Fld.poolStateCurrent b) ≠ 2 then []
  else if g ≠ 2 ∧ s.flag Fld.poolCtrlClearOnWake then [.clear (bankOf b) Config.bankBytes, .sound (bankOf b) Config.bankBytes]
  else [.undef (bankOf b) Config.bankBytes, .sound (bankOf b) Config.bankBytes]

/-- The end of a release: the bank is cleared, belongs to the die DMA engine and to no context (R174). -/
def bankReleased (b : Nat) : Act := fun s =>
  if (s.bank b).releasing then
    [.clear (bankOf b) Config.bankBytes, .sound (bankOf b) Config.bankBytes,
     .fld (Fld.poolOwnerOwner b) 0xFFFE, .fld (Fld.poolOwnerValid b) 0, .fld (Fld.poolOwnerContext b) 0,
     .fld (Fld.poolOwnerBusy b) 0, .bank b fun x => { x with handover := none, releasing := false }]
  else []

/-- A bank comes to a context with the owner and the initial state of its POOL_OWNERS entry (R168). -/
def giveBank (c : Nat) (p : PoolEntry) : Act :=
  seqA [act [.fld (Fld.poolOwnerOwner p.bank) p.owner, .fld (Fld.poolOwnerContext p.bank) c, .fld (Fld.poolOwnerValid p.bank) 1,
    .fld (Fld.poolOwnerBusy p.bank) 0, .bank p.bank fun x => { x with handover := none, claim := none }],
    poolTarget p.bank p.state]

/-- A claim made while the bank was being released takes effect (log entry 22). -/
def giveWaiting (b : Nat) : Act := fun s => match (s.bank b).claim with
  | some (c, p) => if (s.bank b).releasing then [] else giveBank c p s
  | none => []

/-- A bank reaches the state it moves to; the next move starts when another state has been asked (R173). -/
def poolReached (b : Nat) : Act := fun s =>
  match (s.bank b).goal with
  | none => []
  | some g => seqA [bankReleased b, bankContents b g,
      act [.fld (Fld.poolStateCurrent b) g, .bank b fun x => { x with goal := none }], bankMove b, bankShow b, giveWaiting b] s

/-- A context releases a bank (R174): it goes through clearing to OFF, whatever state it has. -/
def releaseBank (b : Nat) : Act :=
  seqA [act [.bank b fun x => { x with releasing := true, goal := some 2, handover := none, claim := none }, .fld (Fld.poolOwnerBusy b) 0,
    .fld (Fld.poolStateTarget b) 2], bankShow b]

/-- The release of a bank runs to its end. -/
def finishRelease (b : Nat) : Act := fun s => if (s.bank b).releasing then poolReached b s else []

/-- A context claims a bank (R30, R168). One that is still being released comes to it when the release is over (R173). -/
def claimBank (c : Nat) (p : PoolEntry) : Act := fun s =>
  if (s.bank p.bank).releasing then [.bank p.bank fun x => { x with claim := some (c, p) }] else giveBank c p s

/-! ## March test (R175 to R178) -/

/-- The banks of the dies of a mask. -/
def banksOf (mask : Nat) : List Nat := (List.range 256).filter fun b => mask.testBit (b / 64)

/-- The turns of a run. -/
def March.turns (m : March) : Nat := if m.preserve then 33 else 8

/-- The banks under test in a turn: group `turn` of eight, or pair `turn - 1`, of every selected die (Table 7.7, R176). -/
def March.under (m : March) : List Nat := (banksOf m.dies).filter fun b =>
  if m.preserve then decide (b % 64 / 2 + 1 = m.turn) else decide (b % 64 / 8 = m.turn)

/-- The banks whose turn has not ended. -/
def March.left (m : March) : List Nat := (banksOf m.dies).filter fun b =>
  if m.preserve then decide (m.turn ≤ b % 64 / 2 + 1) else decide (m.turn ≤ b % 64 / 8)

/-- The length of a turn in ticks of 10 ns: 273.07 µs, or 286.72 µs for a pair with its save and restore. -/
def March.length (m : March) : Nat := if m.preserve ∧ m.turn ≠ 0 then 28672 else 27307

/-- A turn begins: its banks are under test, and the finished groups or pairs are counted. -/
def marchTurn (m : March) : Act := fun s =>
  [.march (some { m with since := s.ticks }), .fld Fld.poolMarchStatusProgress (m.turn - b2n m.preserve)] ++
  m.under.map fun b => .fld (Fld.poolStateStatus b) 3

/-- A run begins. -/
def marchGo (m : March) : Act := seqA [act [.fld Fld.poolMarchStatusBusy 1], marchTurn m]

/-- A write of POOL_MARCH_CTRL.start (R177). -/
def marchBegin (mask : Nat) (preserve : Bool) : Act := fun s =>
  seqA [act [.fld Fld.poolMarchCtrlDieMask mask, .fld Fld.poolMarchCtrlPreserve (b2n preserve)],
    if s.flag Fld.poolMarchStatusBusy ∨ (!preserve ∧ (banksOf mask).any fun b => s.flag (Fld.poolOwnerValid b)) then
      act [.fld Fld.poolMarchStatusRefused 1]
    else marchGo { dies := mask, preserve := preserve }] s

/-- A bank in which the test found a failed cell (R178); its record is written once, when it is found. -/
def bankFailed (b : Nat) : Act := fun s =>
  if s.flag (Fld.poolStateFailed b) then []
  else
    let held := s.flag (Fld.poolOwnerValid b)
    seqA [act [.fld ((Fld.poolMarchFailBanks (b / 64)).item (b % 64)) 1, .fld (Fld.poolStateFailed b) 1],
      faultRecord 0x08 0 (if held then s.fget (Fld.poolOwnerContext b) else 0xFF) b 1 0 0 false,
      if held then nothing else act [.fld (Fld.poolStateTarget b) 2]] s

/-- The test of a bank is over: a destructive run leaves zeros, and the bank follows its target again. A bank in OFF stays OFF, its
contents lost. -/
def bankTested (preserve : Bool) (b : Nat) : Act := fun s =>
  seqA [if !preserve ∧ s.fget (Fld.poolStateCurrent b) ≠ 2 then
      act [.clear (bankOf b) Config.bankBytes, .sound (bankOf b) Config.bankBytes] else nothing,
    act [.fld (Fld.poolStateStatus b) 0], bankMove b, bankShow b] s

/-- A turn ends when its time is over, and the next begins; after the last the run waits for its end (log entry 22). -/
def marchTick : Act := fun s => match s.march with
  | none => []
  | some m => if m.turns ≤ m.turn ∨ s.ticks < m.since + m.length then []
      else seqA [forA m.under (bankTested m.preserve), marchTurn { m with turn := m.turn + 1 }] s

/-- A march run ends, whatever turn it has reached: failures are recorded, the banks not yet given back are, and the completion
event is raised (R175, R176, R178). -/
def marchEnd (failed : List Nat) : Act := fun s => match s.march with
  | none => []
  | some m =>
    let bad := failed.filter (banksOf m.dies).contains
    seqA [forA bad bankFailed,
      act [.march none, .fld Fld.poolMarchStatusProgress (m.turns - b2n m.preserve), .fld Fld.poolMarchStatusBusy 0,
        .fld Fld.poolMarchStatusDone 1,
        .fld Fld.poolMarchStatusFailed (b2n (s.flag Fld.poolMarchStatusFailed || bad.any fun b => !s.flag (Fld.poolStateFailed b)))],
      forA m.left (bankTested m.preserve), raise Vec.selfTest] s

/-- A reset ends a run; its banks follow their targets again. -/
def marchDrop : Act := fun s => match s.march with
  | none => []
  | some m => seqA [act [.march none], forA m.under fun b => seqA [act [.fld (Fld.poolStateStatus b) 0], bankShow b]] s

/-! ## The debugger's access to galleys (R160, R179, R359) -/

/-- The wheel pattern of a core gives engine `e` a slot. -/
def State.engineTurn (s : State) (n e : Nat) : Bool :=
  let p := s.fget (Fld.galWheelSlotOwner n)
  (List.range 16).any fun i => bitsOf p (4 * i) 4 == e

/-- A GAL_DBG_SEL operation; it exists in debug mode, and needs a turn of engine 8. -/
def galleyDebug (write : Bool) (n line : Nat) : Act := fun s =>
  if !s.debug then []
  else
    let sel : List Upd := [.fld Fld.galDbgSelCore n, .fld Fld.galDbgSelLine line]
    let a := galleyOf n + line * 64
    if !s.engineTurn n 8 then sel ++ [.fld Fld.galDbgSelStatus 2, .inc (Fld.galCntRefused n) 1]
    else if write then
      sel ++ [.sound a 64, .store a ((List.range 8).flatMap fun i => leBytes 8 (s.fget (Fld.galDbgDataData i))),
        .fld Fld.galDbgSelStatus 1]
    else sel ++ ((List.range 8).map fun i => .fld (Fld.galDbgDataData i) (s.peekNat (a + 8 * i) 8)) ++ [.fld Fld.galDbgSelStatus 1]

/-! ## The commands -/

/-- GALLEY_DEBUG_READ: a GAL_DBG_SEL read copies a galley line into GAL_DBG_DATA (R179). -/
def execGalleyDebugRead (core : CoreId) (line : Fin 4096) (s : State) : Host.Outcome State Fault Refusal :=
  done (whenA State.bound (galleyDebug false core line)) s

/-- GALLEY_DEBUG_WRITE: a GAL_DBG_SEL write stores GAL_DBG_DATA into a galley line (R179). -/
def execGalleyDebugWrite (core : CoreId) (line : Fin 4096) (s : State) : Host.Outcome State Fault Refusal :=
  done (whenA State.bound (galleyDebug true core line)) s

/-- POOL_OWNER_WRITE: a write of POOL_OWNER.owner (R168). -/
def execPoolOwnerWrite (bank : BankId) (owner : BitVec 16) (s : State) : Host.Outcome State Fault Refusal :=
  done (whenA State.bound (poolOwner bank owner.toNat)) s

/-- POOL_HANDOVER_COMPLETE: the new owner takes the bank (Table 7.4). -/
def execPoolHandoverComplete (bank : BankId) (s : State) : Host.Outcome State Fault Refusal := done (poolHandover bank) s

/-- POOL_STATE_WRITE: a write of POOL_STATE.target (R171, R173). -/
def execPoolStateWrite (bank : BankId) (target : BitVec 2) (s : State) : Host.Outcome State Fault Refusal :=
  done (whenA State.bound (poolTarget bank target.toNat)) s

/-- MARCH_START: a write of POOL_MARCH_CTRL.start (R175 to R177). -/
def execMarchStart (dieMask : BitVec 4) (preserve : Bool) (s : State) : Host.Outcome State Fault Refusal :=
  done (whenA State.bound (marchBegin dieMask.toNat preserve)) s

end Sys2Proof.Machine
end

