-- ==== Sys2Proof/Machine/Contexts.lean ====
section
/-! DEFINITION. Contexts on clusters: slice boundaries, context switches, the application of a replacement, re-fitting and
stopping, confidential mode. R16, R27, R39, R40, R114, R159, R163, R241, R353, R354, R360, R394. -/

namespace Sys2Proof.Machine

open Sys2Proof

/-! ## Stochastic-rounding counters (R114) -/

/-- Place of the counter of lane `l` of core `n` for context `c`: counters are kept by context. -/
def srKey (c n l : Nat) : Nat := (c * 2048 + n) * 64 + l

/-- Every counter of a context is set to 0. -/
def srZero (c : Nat) : Upd := .srClear (c * 131072) 131072

/-- The stochastic-rounding lanes of a core in a context, ascending (R31). -/
def State.srLanes (s : State) (c n : Nat) : List LaneRole :=
  sortBy (fun a b => a.lane < b.lane) ((s.image c).lanes.filter (·.core == n))

/-! ## Wheels (R159) -/

/-- The pattern of a core that runs no context. -/
def wheelDefault : Nat := 0x7654321076543210

/-- The pattern of core `n` under context `c`. -/
def State.wheelFor (s : State) (c n : Nat) : Nat :=
  match s.groupOfCore c n with
  | none => wheelDefault
  | some g => (s.image c).patterns.getD g.pattern wheelDefault

/-- The pattern of a core becomes that of the context its cluster holds, or the default. -/
def setWheel (n : Nat) : Act := fun s =>
  [.fld (Fld.galWheelSlotOwner n) (match (s.cluster (clusterOf n)).ctx with
    | none => wheelDefault
    | some c => s.wheelFor c n)]

/-! ## The switch of a cluster (R354, Table 14.10) -/

/-- The period of the context that cluster `k` runs ends when the cluster is switched (R241; a switch of a context to
itself ends it too, log entry 22). -/
def endOutgoing (k : Nat) : Act := fun s =>
  match (s.cluster k).ctx with
  | none => []
  | some o => endPeriod o s

/-- The steps of Table 14.10 on one cluster: the outgoing commands return, the state of R354 is cleared, and the incoming
context's settings apply. -/
def switchCluster (c k : Nat) : Act :=
  seqA [endOutgoing k, returnToCluster k (coresOf k), clearCluster k, act [.cluster k fun x => { x with ctx := some c }],
    forA (coresOf k) setWheel]

/-- A taken cluster runs: its clock restarts on demand (R353, R374). -/
def runCluster (k : Nat) : Act := fun s =>
  seqA [act [.cluster k fun x => { x with taken := true }],
    if s.fget (Fld.pwrClusterTarget k) = 0 ∧ s.fget (Fld.pwrClusterCurrent k) = 1 then
      seqA [demandDie (k / 16), act [.fld (Fld.pwrClusterCurrent k) 0]] else nothing] s

/-- A cluster that no context takes is clock-gated and keeps its context (R353, R416). -/
def idleCluster (k : Nat) : Act := fun s =>
  [.cluster k fun x => { x with taken := false }] ++
  (if s.fget (Fld.pwrClusterTarget k) = 0 ∧ s.fget (Fld.pwrClusterCurrent k) = 0 then [.fld (Fld.pwrClusterCurrent k) 1] else [])

/-- A RESIDENT or ACTIVE context is ACTIVE while it runs on a granted cluster (Table 2.18). -/
def showActive : Act := fun s =>
  (List.range 16).filterMap fun c =>
    let st := if (s.granted c).any (fun k => (s.cluster k).ctx == some c && (s.cluster k).taken) then 3 else 2
    if s.ctxLive c ∧ s.ctxState c ≠ st then some (.fld (Fld.impCtxStateOf c) st) else none

/-! ## Confidential mode (R359, R360) -/

/-- The profiling counters of R79, R128, R154, R179 and R227 are cleared. -/
def clearProfiles : Act :=
  seqA [forA (List.range 2048) fun n => act [.reg (Reg.coreCntSteal n) 0, .reg (Reg.coreCntStall n) 0,
      .reg (Reg.coreCntPlane n) 0, .reg (Reg.coreCntNum n) 0, .reg (Reg.coreCntSparse n) 0,
      .reg (Reg.coreCntPreflight n) 0, .reg (Reg.coreCntActwait n) 0, .fld (Fld.galCntNarrow n) 0],
    forA (List.range 64) fun k => act [.reg (Reg.cmpCnt k) 0],
    act [.reg Reg.cmpCntBlocks 0]]

/-- Debug mode ends (R359). -/
def debugOff : Act := act [.fld Fld.secDbgEnable 0, .fld Fld.secStatusDebug 0]

/-- The module is in confidential mode while a slot has a confidential image in force (R360). -/
def showConfidential : Act := fun s =>
  let on := (List.range 16).any fun c => (s.image c).confidential
  if on = s.confidential then []
  else if on then seqA [debugOff, clearProfiles, act [.fld Fld.secStatusConfidential 1]] s
  else [.fld Fld.secStatusConfidential 0]

/-! ## Loss of a cluster (R394) -/

/-- Commands of a context are cancelled, its period and its requests end, its ISSUE commands end as faulted. -/
def stopWork (c status : Nat) : Act := fun s =>
  seqA [endPeriod c, cancelCmds (·.ctx == c), forA (s.slotsOf c) (endRequest · status)] s

/-- A context that loses cluster `k` is re-fitted or stopped. -/
def loseCluster (c k : Nat) : Act := fun s =>
  if (s.image c).refitOk ∧ s.granted c ≠ [] then faultRecord 0x0B 3 c c 2 k 0 false s
  else seqA [faultRecord 0x0B 4 c c 1 k 0 false, act [.fld (Fld.fltCtxStopContexts.item c) 1], stopWork c End.fault] s

/-! ## Applying a replacement (R39, R40) -/

/-- Entries of a context in the queue of a cluster that it no longer holds return to the hub, with what its cores hold
(log entry 22). -/
def dropCluster (c k : Nat) : Act := seqA [returnToCluster k (coresOf k), fun s =>
  let qs := (s.cluster k).queue.filter (·.ctx == c)
  if qs = [] then [] else
    [.hub (hubInsert (qs.map QCmd.restart)), .cluster k fun x => { x with queue := x.queue.filter (·.ctx != c) }]]

/-- The context table entry of a slot takes its flags and generation, and its package identifier (Table 14.9). -/
def writeCtxEntry (c : Nat) : Act := fun s =>
  let x := s.ctx c
  storePlain (s.ctxEntry c + 8) (leBytes 4 (b2n (s.image c).confidential + 2 * b2n (x.keyContent != 0)) ++
    leBytes 4 x.generation ++ leBytes 16 x.packageId) s

/-- Banks, windows and settings of an image take force in slot `c` in place of those of `old` (R39, R168, R174, R317). -/
def installImage (c : Nat) (old : Image) : Act := fun s =>
  let img := s.image c
  seqA [forA ((old.pools.map (·.bank)).filter fun b => !img.pools.any (·.bank == b)) releaseBank,
    forA (img.pools.filter fun p => !old.pools.any (·.bank == p.bank)) (claimBank c),
    act [.windows fun ws => ws.filter (·.ctx != c) ++ img.windows, srZero c],
    writeCtxEntry c, showConfidential, reviewModes] s

/-- A waiting replacement takes effect (R40). -/
def applyReplacement (c : Nat) : Act := fun s =>
  match (s.ctx c).held with
  | none => []
  | some img =>
    let old := s.image c
    seqA [endPeriod c, act [.ctx c fun x => { x with image := some img, held := none }, .fld (Fld.fltCtxStopContexts.item c) 0],
      installImage c old,
      forA ((List.range 64).filter fun k => (s.cluster k).ctx == some c && !bitOf img.clusterMap k) (dropCluster c),
      forA ((List.range 64).filter fun k => bitOf img.clusterMap k && !s.inService k) (loseCluster c)] s

/-! ## Slices (R353) -/

/-- Context `c` is taken: a waiting replacement applies, and every in-service granted cluster that holds another context,
or the context with its old image, is switched. -/
def takeContext (c : Nat) : Act := fun s =>
  let again := (s.ctx c).held.isSome
  seqA [applyReplacement c, fun s =>
    if s.stopped c then []
    else seqA [forA ((s.granted c).filter fun k => s.switchable k && (again || (s.cluster k).ctx != some c)) (switchCluster c),
      forA (s.granted c) runCluster] s] s

/-- Context `c` may be taken when the clusters in `taken` are: it is RESIDENT or ACTIVE, has work, and none of its in-service
granted clusters is taken. While a replacement waits, the grant of the image in force decides (log entry 22). -/
def State.takeable (s : State) (taken : List Nat) (c : Nat) : Bool :=
  s.ctxLive c && s.hasWork c && !s.basic && s.granted c != [] && !(s.granted c).any taken.contains

/-- The contexts that a boundary takes, in slot order from the rotation start, with the clusters taken before each. -/
def State.planFrom (s : State) : List Nat → List Nat → List Nat
  | [], _ => []
  | c :: t, taken => if s.takeable taken c then c :: s.planFrom t (taken ++ s.granted c) else s.planFrom t taken

/-- Slot order from a rotation start. -/
def slotOrder (start : Nat) : List Nat := (List.range 16).map fun i => (start + i) % 16

/-- The contexts that a boundary with rotation start `r` takes. -/
def State.plan (s : State) (r : Nat) : List Nat := s.planFrom (slotOrder r) []

/-- A boundary waits: it would switch a cluster away from a context whose period runs (R353, R40, log entry 22). -/
def State.boundaryWaits (s : State) (r : Nat) : Bool :=
  s.flag Fld.secSlicePeriodAlign && (s.plan r).any fun c => (s.granted c).any fun k => s.switchable k &&
    match (s.cluster k).ctx with
    | none => false
    | some o => (s.period o).running && (o != c || (s.ctx c).held.isSome)

/-- Stopped contexts, which are never taken, take a waiting replacement at a boundary (R394; log entry 22). -/
def replaceStopped : Act := fun s => forA ((List.range 16).filter fun c => s.stopped c && (s.ctx c).held.isSome) applyReplacement s

/-- A slice boundary: the rotation advances, and contexts are taken. -/
def sliceBoundary : Act := fun s =>
  let r := (s.rotation + 1) % 16
  if s.boundaryWaits r then [.sliceLate true]
  else
    let cs := s.plan r
    seqA [act [.rotation r, .sliceLate false],
      forA ((List.range 64).filter fun k => !cs.any fun c => (s.granted c).contains k) idleCluster,
      replaceStopped, forA cs takeContext, showActive] s

/-- A boundary that waited for the end of a period comes about. -/
def lateBoundary : Act := fun s => if s.sliceLate then sliceBoundary s else []

/-- A context that comes to have work between boundaries is taken at once. -/
def takeOnWork (c : Nat) : Act := fun s =>
  if s.takeable ((List.range 64).filter fun k => (s.cluster k).taken) c then seqA [takeContext c, showActive] s else []

/-! ## The commands -/

/-- SLICE_BOUNDARY: the rotation advances and contexts with work are taken (R353). -/
def execSliceBoundary (s : State) : Host.Outcome State Fault Refusal := done sliceBoundary s

/-- CONTEXT_TAKEN_ON_WORK: a context with new work is taken on clusters that no context took (R353). -/
def execContextTakenOnWork (ctx : Ctx) (s : State) : Host.Outcome State Fault Refusal := done (takeOnWork ctx) s

/-- PERIOD_END: at P + T the period of a context ends (R240); a boundary that waited for it follows (R353). -/
def execPeriodEnd (ctx : Ctx) (s : State) : Host.Outcome State Fault Refusal := done (seqA [endPeriod ctx, lateBoundary]) s

/-- PERIOD_DROP_COMPLETE: the drop of a period is complete (R293); a boundary that waited for a period that ended early
follows (R353). -/
def execPeriodDropComplete (ctx : Ctx) (s : State) : Host.Outcome State Fault Refusal :=
  done (seqA [dropComplete ctx, lateBoundary]) s

end Sys2Proof.Machine
end

