-- ==== Sys2Proof/Machine/Cores.lean ====
section
/-! DEFINITION. Tile commands from the hub to a core and to their end: dispatch, fences, taking, stealing, completion,
faults. R62, R63, R70 to R79, R148, R150, R152, R398. -/

namespace Sys2Proof.Machine

open Sys2Proof

/-! ## The hub (R62, R70, R74) -/

/-- The oldest command at the hub for a group of a context. -/
def State.hubHead (s : State) (c g : Nat) : Option QCmd := s.hub.queue.find? fun q => q.ctx == c && q.group == g

/-- A TAA command whose list block the hub reads: the conditions of R147 hold. -/
def QCmd.needsList (q : QCmd) : Bool :=
  let t := taaOf q.bytes
  q.rowList && (q.opcode == 1 || q.opcode == 5) && t.splitLog2 == 0 && !t.aSparse && t.aVa % 64 == 0

/-- A command leaves the hub queue. -/
def leaveHub (q : QCmd) : Act := act [.hub fun h => { h with queue := eraseFirst (· == q) h.queue }]

/-- The batch group of a command of a period; none for a ONCE entry. -/
def QCmd.batchGroup (q : QCmd) : Option Nat :=
  match q.origin with
  | .period g => g
  | .issue _ _ => none

/-- What a fault does to the step that issued the command (R398). -/
def faultEffect (q : QCmd) (counts : Bool) (unit cause : Nat) : Act := fun s =>
  match q.origin with
  | .period g => if s.tagged q.ctx q then faultDrop q.ctx g counts unit cause s else []
  | .issue _ _ => []

/-- A COMMAND fault at the hub: never dispatched, no CORE_FAULT (R62). -/
def hubFault (q : QCmd) : Act :=
  seqA [faultRecord 0x01 0 q.ctx 0xFFFF Cmd.command q.tileTag 0 false, countEnd q true, leaveHub q,
    faultEffect q true 0xFFFF Cmd.command, commitChunks q.ctx]

/-- The hub dispatches the oldest command of a group to a cluster queue, or faults it (R62, R70). It waits behind a fence,
for its list block, and for a free entry. -/
def hubDispatch (c g : Nat) : Act := fun s =>
  match s.hubHead c g with
  | none => []
  | some q =>
    if (s.groupWith c g).isNone then hubFault q s
    else if q.opcode = opFence ∨ (q.needsList ∧ !q.listed) then []
    else match (s.servedBy c g).bind (s.bestTarget c) with
      | none => []
      | some k =>
        if 1024 ≤ (s.cluster k).used then []
        else seqA [leaveHub q, act [.cluster k fun x => { x with queue := x.queue ++ [q] }]] s

/-- A GROUP_FENCE reaches the front of its group: it is checked and held, or it faults (R62, R74). -/
def groupFence (c g : Nat) : Act := fun s =>
  match s.hubHead c g with
  | none => []
  | some q =>
    if q.opcode ≠ opFence ∨ q.run ≠ .waiting then []
    else if (s.groupWith c g).isNone ∨ !fenceFieldsOk q.bytes then hubFault q s
    else [.hub fun h => { h with queue := modFirst (· == q) (fun x => { x with run := .done }) h.queue }]

/-- A held fence opens when every command issued to the group before it has ended (R74). -/
def fenceRelease (c g : Nat) : Act := fun s =>
  match s.hubHead c g with
  | none => []
  | some q =>
    if q.opcode ≠ opFence ∨ q.run ≠ .done ∨ s.liveCmds.any (fun o => o.ctx == c && o.group == g && o.id < q.id) then []
    else seqA [countEnd q false, leaveHub q, commitChunks c] s

/-! ## Taking and stealing (R71 to R73) -/

/-- A core reset of core `n` is in progress. -/
def State.coreReset (s : State) (n : Nat) : Bool :=
  s.flag Fld.pwrResetStatusBusy && s.fget Fld.pwrResetStatusKind == 1 && s.fget Fld.pwrResetStatusTarget == n

/-- A core runs commands: in service, awake, its cluster on and taken, not under reset, not quiesced, and with a free entry. -/
def State.coreTakes (s : State) (n : Nat) : Bool :=
  let k := clusterOf n
  !s.basic && s.inService k && !s.flt.noCore.contains n && s.fget (Fld.coreStatePower n) == 0 &&
  s.fget (Fld.pwrClusterTarget k) == 0 && s.fget (Fld.pwrClusterCurrent k) == 0 && !(s.cluster k).pendingOn && !s.underReset k && (s.cluster k).taken &&
  !s.coreReset n && !s.flag (Fld.coreCtrlQuiesce n) && (s.core n).queue.length < 8

/-- An entry may run on core `n`: of the context that its cluster runs, and for the core's own group (R71, R394). -/
def State.eligible (s : State) (n : Nat) (q : QCmd) : Bool :=
  (s.cluster (clusterOf n)).ctx == some q.ctx &&
  (match s.servedBy q.ctx q.group, s.groupOfCore q.ctx n with
    | some a, some b => a.id == b.id
    | _, _ => false)

/-- The oldest entry of a cluster queue that core `n` may take. -/
def State.entryFor (s : State) (n k : Nat) : Option QCmd := (s.cluster k).queue.find? (s.eligible n)

/-- Stage lines of a command (Table 3.5): every body has the two fields at the same place. -/
def QCmd.stage (q : QCmd) : Nat × Nat := (fieldAt q.bytes 0x3C 2, fieldAt q.bytes 0x3E 2)

/-- The staging region of a command holds operands, drained rows or nothing: undefined data to anyone else (R161). -/
def stageUndef (n : Nat) (q : QCmd) : Act :=
  let (b, l) := q.stage
  if stageOk b l then act [.undef (galleyOf n + 64 * b) (64 * l)] else nothing

/-- The staging regions of every command that a core holds: what overlaps them is undefined data (R161). -/
def stagesUndef (n : Nat) : Act := fun s => forA (s.core n).queue (stageUndef n) s

/-- An entry moves from a cluster queue to a core. -/
def moveToCore (n k : Nat) (q : QCmd) : Act :=
  seqA [act [.cluster k fun x => { x with queue := eraseFirst (· == q) x.queue },
    .core n fun x => { x with queue := x.queue ++ [{ q with inReturn := false }] }], stageUndef n q]

/-- A core takes the oldest entry of its group from its own cluster queue. -/
def coreTake (n : Nat) : Act := fun s =>
  if !s.coreTakes n then []
  else match s.entryFor n (clusterOf n) with
    | none => []
    | some q => moveToCore n (clusterOf n) q s

/-- The places of Table 3.7 beside the own cluster queue, in order, for a group's steal scope. -/
def stealPlaces (n scope : Nat) : List Nat :=
  let k := clusterOf n
  let d := dieOf n
  let near := (clustersOf d).filter (· != k)
  (if 1 ≤ scope then sortBy (fun a b => Config.meshHops k a < Config.meshHops k b ∨
      (Config.meshHops k a = Config.meshHops k b ∧ a < b)) near else []) ++
  (if 2 ≤ scope then [1, 2, 3].flatMap fun i => clustersOf ((d + i) % 4) else [])

/-- The first place with an eligible entry, and the entry. -/
def State.stealFrom (s : State) (n : Nat) : List Nat → Option (Nat × QCmd)
  | [] => none
  | k :: t => match s.entryFor n k with
    | some q => some (k, q)
    | none => s.stealFrom n t

/-- A core whose own queue and cluster queue hold nothing of its group steals one command. -/
def coreSteal (n : Nat) : Act := fun s =>
  match (s.cluster (clusterOf n)).ctx.bind (s.groupOfCore · n) with
  | none => []
  | some g =>
    if !s.coreTakes n ∨ (s.core n).queue ≠ [] ∨ (s.entryFor n (clusterOf n)).isSome then []
    else match s.stealFrom n (stealPlaces n g.scope) with
      | none => []
      | some (k, q) => seqA [moveToCore n k q,
          profile (if dieOf n = k / 16 then Fld.coreCntStealSameDie n else Fld.coreCntStealOtherDie n) 1] s

/-! ## The command that a core runs next -/

/-- The first command of a core that has neither finished nor faulted, if it may run now: commands run in the order taken,
and wait behind one that reprints or that waits for a page (R69, R71). -/
def State.nextRun (s : State) (n : Nat) : Option QCmd :=
  match (s.core n).queue.find? fun q => match q.run with
      | .done => false
      | .faulted _ _ _ _ _ => false
      | _ => true with
  | none => none
  | some q => if q.run = .waiting then some q else none

/-- The command that a core runs next, when its opcode is `op`. -/
def State.nextOf (s : State) (n op : Nat) : Option QCmd :=
  match s.nextRun n with
  | none => none
  | some q => if q.opcode = op then some q else none

/-- A held command changes. -/
def setCmd (n : Nat) (q : QCmd) (f : QCmd → QCmd) : Act := act [.core n fun x => { x with queue := modFirst (· == q) f x.queue }]

/-- A core as an agent for a command; it works through its TLBs. -/
def tileAgent (n : Nat) (q : QCmd) : Agent :=
  { code := 0, ctx := q.ctx, core := n, tag := q.tileTag, onDie := true, tlb := true, dma := q.opcode == 0x0D }

/-- The attention walker of a core as an agent for a command: it reaches the tiers alone (R200). -/
def walkerAgent (n : Nat) (q : QCmd) : Agent := { code := 1, ctx := q.ctx, core := n, tag := q.tileTag, tlb := true }

/-- Where the output region of a command lies that its core may write: undefined data after a fault (R78, R167). -/
def State.outPlaces (s : State) (n : Nat) (q : QCmd) : List (Nat × Nat) :=
  q.region.flatMap fun (va, len) => s.writePieces (tileAgent n q) va len

/-- A held command stops with a fault. -/
def stopCmd (n : Nat) (q : QCmd) (cause addr : Nat) (virtual : Bool) (detail off : Nat) : Act := fun s =>
  setCmd n q (fun x => { x with run := .faulted cause addr virtual detail off, wrote := x.wrote ++ s.outPlaces n q }) s

/-- A held command stops at a check that has no address. -/
def failCmd (n : Nat) (q : QCmd) (cause : Nat) : Act := stopCmd n q cause 0 false 0 0

/-! ## The end of a command (R71, R78, R148, R150, R152, R266) -/

/-- The first held command that has finished. -/
def State.finished (s : State) (n : Nat) : Option QCmd := (s.core n).queue.find? (·.run == .done)

/-- A command completes. -/
def cmdComplete (n : Nat) : Act := fun s =>
  match s.finished n with
  | none => []
  | some q => seqA [act [.inc (Fld.coreCntTilesCompleted n) 1],
      profile (Fld.coreCntPreflightIdle n) q.idle, profile (Fld.coreCntPreflightMisses n) q.misses,
      unpinAll q.pins, countEnd q false, leaveCore n q, commitChunks q.ctx] s

/-- A line is under weight repair, or waits for one (R398, R401, R402). -/
def State.underRepair (s : State) (a : Nat) : Bool := (s.flt.repairs ++ s.flt.repairWait).any (·.line == a / 64)

/-- The repair of a line is in state REFETCH or VERIFY: a drop on it adds nothing to the fault drops of a request (R398). -/
def State.refetching (s : State) (a : Nat) : Bool := s.flt.repairs.any fun r => r.line == a / 64 && r.state != .stuck

/-- The record of a SPARSE fault (R151, CORE_SPARSE_LOG). -/
def sparseLog (n : Nat) (q : QCmd) (detail off : Nat) : Act := fun s =>
  if s.flag (Fld.coreSparseLogValid n) then [.fld (Fld.coreSparseLogOverflow n) 1]
  else [.fld (Fld.coreSparseLogTileTag n) q.tileTag, .fld (Fld.coreSparseLogDetail n) detail,
    .fld (Fld.coreSparseLogOffset n) off, .fld (Fld.coreSparseLogValid n) 1]

/-- The first held command that has faulted. -/
def State.faultedCmd (s : State) (n : Nat) : Option (QCmd × Nat × Nat × Bool × Nat × Nat) :=
  (s.core n).queue.findSome? fun q => match q.run with
    | .faulted cause addr virtual detail off => some (q, cause, addr, virtual, detail, off)
    | _ => none

/-- A command faults (R78, R398): it is recorded, posts no completion, and its output is undefined. A tag-0 command stopped
by a line under weight repair goes to the hub, which holds it. -/
def cmdFault (n : Nat) : Act := fun s =>
  match s.faultedCmd n with
  | none => []
  | some (q, cause, addr, virtual, detail, off) =>
    let poison := cause == Cmd.poison
    seqA [setCoreFault n q cause, if cause = Cmd.sparse then sparseLog n q detail off else nothing,
      if cause = Cmd.numeric then profile (Fld.coreCntNumNumericFaults n) 1 else nothing,
      act [.inc (Fld.coreCntTilesFaulted n) 1], faultRecord 0x01 0 q.ctx n cause q.tileTag addr virtual,
      undefOutput q, unpinAll q.pins, leaveCore n q,
      if poison ∧ s.underRepair addr ∧ q.periodTag = 0 then act [.hub fun h => { h with repairHeld := h.repairHeld ++ [{ q.restart with heldFor := addr / 64 }] }]
      else seqA [cancelWith false (fun o => q.parent && o.id == q.id), countWhole q true,
        faultEffect q (!(poison && s.refetching addr)) n cause],
      commitChunks q.ctx] s

/-- The head command's opcode is reserved: a COMMAND fault (R63). -/
def reservedOp (n : Nat) : Act := fun s =>
  match s.nextRun n with
  | none => []
  | some q => if q.opcode = 0 ∨ 0x0F < q.opcode then failCmd n q Cmd.command s else []

/-! ## The commands -/

/-- HUB_DISPATCH (R62, R70). -/
def execHubDispatch (ctx : Ctx) (group : Byte) (s : State) : Host.Outcome State Fault Refusal :=
  done (hubDispatch ctx group.toNat) s

/-- GROUP_FENCE (R62, R74). -/
def execGroupFence (ctx : Ctx) (group : Byte) (s : State) : Host.Outcome State Fault Refusal :=
  done (groupFence ctx group.toNat) s

/-- FENCE_RELEASE (R74). -/
def execFenceRelease (ctx : Ctx) (group : GroupId) (s : State) : Host.Outcome State Fault Refusal := done (fenceRelease ctx group) s

/-- CORE_TAKE_COMMAND (R71, R73). -/
def execCoreTakeCommand (core : CoreId) (s : State) : Host.Outcome State Fault Refusal := done (coreTake core) s

/-- CORE_STEAL (R71, R72). -/
def execCoreSteal (core : CoreId) (s : State) : Host.Outcome State Fault Refusal := done (coreSteal core) s

/-- TILE_COMMAND_COMPLETE (R71, R15, R266). -/
def execTileCommandComplete (core : CoreId) (s : State) : Host.Outcome State Fault Refusal := done (cmdComplete core) s

/-- COMMAND_FAULT (R78, R152, R398). -/
def execCommandFault (core : CoreId) (s : State) : Host.Outcome State Fault Refusal := done (cmdFault core) s

/-- RESERVED_OPCODE (R63). -/
def execReservedOpcode (core : CoreId) (s : State) : Host.Outcome State Fault Refusal := done (reservedOp core) s

/-- CORE_QUIESCE: a write of CORE_CTRL.quiesce (R79). -/
def execCoreQuiesce (core : CoreId) (quiesce : Bool) (s : State) : Host.Outcome State Fault Refusal :=
  done (whenA State.bound (act [.fld (Fld.coreCtrlQuiesce core) (b2n quiesce)])) s

end Sys2Proof.Machine
end

