-- ==== Sys2Proof/Machine/Clusters.lean ====
section
/-! DEFINITION. The power states of clusters and cores, BASIC mode, and the loss of a cluster.
R10, R374 to R376, R391, R393, R394, R399, R416. -/

namespace Sys2Proof.Machine

open Sys2Proof

/-! ## Cores (R375) -/

/-- A core comes back from NAP or OFF: a marked core is cleared first. -/
def wakeCore (n : Nat) : Act := fun s =>
  seqA [act [.fld (Fld.coreStatePower n) 0],
    if (s.core n).mustClear then
      seqA [act [.core n fun x => { x with mustClear := false }], clearGalley n, clearUnits n] else nothing] s

/-- A core is unpowered: what it held is lost, and it is cleared at its next wake. -/
def coreOff (n : Nat) : Act :=
  act [.fld (Fld.coreStatePower n) 3,
    .core n (fun x => { x with acc := [], matchUnit := [], weights := [], tables := [], quantClip := [], mustClear := true }),
    dropPlaces (· == .micro n)]

/-- A core is IDLE: awake, holding nothing, and nothing for its group in its cluster queue. -/
def State.coreIdle (s : State) (n : Nat) : Bool :=
  s.fget (Fld.coreStatePower n) == 0 && (s.core n).queue.isEmpty && (s.entryFor n (clusterOf n)).isNone

/-- An IDLE core goes to NAP after PWR_CORE_POL.nap_us. -/
def napCore (n : Nat) : Act := fun s =>
  if s.coreIdle n ∧ s.fget Fld.pwrCorePolNapUs ≠ 0 then [.fld (Fld.coreStatePower n) 2] else []

/-- A core in NAP wakes; a core in OFF wakes where its cluster is ON and it has a slot. -/
def wakeEvent (n : Nat) : Act := fun s =>
  let p := s.fget (Fld.coreStatePower n)
  if p = 2 ∨ (p = 3 ∧ s.fget (Fld.pwrClusterTarget (clusterOf n)) = 0 ∧ s.fget (Fld.pwrClusterCurrent (clusterOf n)) ≠ 2 ∧
      s.inService (clusterOf n) ∧ !s.flt.noCore.contains n) then wakeCore n s
  else []

/-! ## Clusters (R376, R416) -/

/-- A shut-down of the cluster is in progress. -/
def State.clusterShutting (s : State) (k : Nat) : Bool :=
  (s.cluster k).pendingOn || (s.fget (Fld.pwrClusterStatus k) == 1 && s.fget (Fld.pwrClusterTarget k) == 2)

/-- A cluster in OFF starts towards its target: its cores that have a slot wake. -/
def startCluster (k : Nat) : Act := fun s =>
  seqA [demandDie (k / 16), act [.fld (Fld.pwrClusterCurrent k) 0, .fld (Fld.pwrClusterStatus k) (b2n (s.fget (Fld.pwrClusterTarget k) == 1))],
    forA ((coresOf k).filter fun n => !s.flt.noCore.contains n) wakeCore] s

/-- A core reset of a core of the cluster is in progress: an enable of the core is held PENDING (Table 15.5). -/
def State.coreShutting (s : State) (k : Nat) : Bool :=
  s.flag Fld.pwrResetStatusBusy && s.fget Fld.pwrResetStatusKind == 1 && s.fget Fld.pwrResetStatusTarget / 32 == k

/-- The status of a cluster that runs or will be gated, while no shut-down of it is in progress. -/
def State.runStatus (s : State) (k st : Nat) : Nat := if s.coreShutting k then 2 else st

/-- PWR_CLUSTER.target = ON. -/
def targetOn (k : Nat) : Act := fun s =>
  if s.fget (Fld.pwrClusterStatus k) = 3 then []
  else
    let shutting := s.clusterShutting k
    seqA [act [.fld (Fld.pwrClusterTarget k) 0],
      if shutting then act [.fld (Fld.pwrClusterStatus k) 2, .cluster k fun x => { x with pendingOn := true }]
      else if s.fget (Fld.pwrClusterCurrent k) = 2 then startCluster k
      else seqA [act [.fld (Fld.pwrClusterStatus k) (s.runStatus k 0)],
        if (s.cluster k).taken then seqA [demandDie (k / 16), act [.fld (Fld.pwrClusterCurrent k) 0]] else nothing]] s

/-- PWR_CLUSTER.target = GATED. -/
def targetGated (k : Nat) : Act := fun s =>
  if s.fget (Fld.pwrClusterStatus k) = 3 then []
  else
    let shutting := s.clusterShutting k
    seqA [act [.fld (Fld.pwrClusterTarget k) 1],
      if shutting then act [.fld (Fld.pwrClusterStatus k) 2, .cluster k fun x => { x with pendingOn := true }]
      else if s.fget (Fld.pwrClusterCurrent k) = 2 then startCluster k
      else if s.fget (Fld.pwrClusterCurrent k) = 1 then queueToHub k
      else seqA [act [.fld (Fld.pwrClusterStatus k) (s.runStatus k 1)], queueToHub k]] s

/-- PWR_CLUSTER.target = OFF: the shut-down starts, or withdraws an enable held PENDING. -/
def targetOff (k : Nat) : Act := fun s =>
  if s.fget (Fld.pwrClusterStatus k) = 3 then []
  else if (s.cluster k).pendingOn then
    [.fld (Fld.pwrClusterTarget k) 2, .fld (Fld.pwrClusterStatus k) 1, .cluster k fun x => { x with pendingOn := false }]
  else
    seqA [act [.fld (Fld.pwrClusterTarget k) 2],
      if s.fget (Fld.pwrClusterCurrent k) = 2 then nothing
      else seqA [clusterToHub k, act [.fld (Fld.pwrClusterStatus k) 1]]] s

/-- A cluster whose target is GATED and whose cores hold nothing is clock-gated. -/
def clockGated (k : Nat) : Act := fun s =>
  if s.fget (Fld.pwrClusterTarget k) = 1 ∧ s.fget (Fld.pwrClusterCurrent k) = 0 ∧ !s.clusterShutting k ∧
      (coresOf k).all (fun n => (s.core n).queue.isEmpty) then
    [.fld (Fld.pwrClusterCurrent k) 1, .fld (Fld.pwrClusterStatus k) 0]
  else []

/-- A cluster is OFF: its state is cleared, its cores are unpowered, no context is on it. -/
def clusterOff (k : Nat) : Act :=
  seqA [clearCluster k, forA (coresOf k) coreOff,
    act [.cluster k (fun x => { x with ctx := none, taken := false }), .fld (Fld.pwrClusterCurrent k) 2, dropPlaces (· == .cluster k)],
    forA (coresOf k) setWheel, showActive]

/-- The shut-down of a cluster is complete; an enable held PENDING takes effect. -/
def clusterShut (k : Nat) : Act := fun s =>
  if !s.clusterShutting k then []
  else seqA [clusterOff k, act [.fld (Fld.pwrClusterStatus k) 0, .cluster k fun x => { x with pendingOn := false }],
    if (s.cluster k).pendingOn then startCluster k else nothing] s

/-! ## Logical numbers served (R10, R399) -/

/-- Logical numbers that a cluster serves. -/
def State.servedIn (s : State) (k : Nat) : Nat :=
  if s.inService k then ((coresOf k).filter fun n => !s.flt.noCore.contains n).length else 0

/-- Logical numbers that the module serves (FLT_STATUS.in_service). -/
def State.servedAll (s : State) : Nat := ((List.range 64).map s.servedIn).sum

/-- Logical numbers of the clusters in service, as CLUSTER and BASIC records give them (Table 16.7a). -/
def State.servedClusters (s : State) : Nat := 32 * ((List.range 64).filter s.inService).length

/-! ## BASIC mode (R399) -/

/-- Entry into BASIC mode. Causes 4 and 5 find the request engine out of service, and no end record is written. -/
def enterBasic (cause : Nat) : Act := fun s =>
  if s.basic then []
  else
    let engine := cause ≠ 4 ∧ cause ≠ 5
    let slots := (s.reqs.filter fun p => p.2.state != 0).map (·.1)
    seqA [endPeriods, cancelCmds (fun _ => true),
      forA (List.range 64) (fun k => seqA [clusterOff k, act ([.fld (Fld.pwrClusterTarget k) 2,
          .cluster k fun x => { x with pendingOn := false }] ++
          (if s.fget (Fld.pwrClusterStatus k) = 3 then [] else [.fld (Fld.pwrClusterStatus k) 0]))]),
      forA slots (endRequest · End.fault),
      if engine then nothing else forA slots freeSlot,
      act [.windows fun _ => [], .flt fun f => { f with
        running := none, takeoverAwake := false, waiting := [], basicTick := if engine then some s.ticks else none }],
      faultRecord 0x0F 5 0xFF 0 cause s.servedClusters 0 false,
      act [.fld Fld.fltStatusBasic 1, .fld Fld.fltStatusBasicCause cause], reviewModes] s

/-- BASIC mode is entered when fewer than 1,920 logical numbers are served (Table 16.7). -/
def basicBelow : Act := fun s => if s.servedClusters < 1920 then enterBasic 1 s else []

/-! ## Removal of a cluster (R393, R394) -/

/-- A cluster leaves service: steps 2 to 4 of Table 16.6. -/
def dropService (k detail : Nat) : Act := fun s =>
  let owners := (List.range 16).filter fun c => s.ctxState c != 0 && bitOf (s.image c).clusterMap k
  seqA [clusterToHub k, clusterOff k,
    act [.fld (Fld.pwrClusterStatus k) 3, .fld (Fld.pwrClusterTarget k) 2, .cluster k fun x => { x with pendingOn := false },
      .fld (Fld.fltOutClusters.item k) 1, .fld (Fld.fltSpareClusters.item k) 0],
    fun s => faultRecord 0x04 2 0xFF k detail s.servedClusters 0 false s,
    forA owners (loseCluster · k)] s

/-- A cluster leaves service, and BASIC mode is entered when too few logical numbers are left (Table 16.6). -/
def removeCluster (k detail : Nat) : Act := seqA [dropService k detail, basicBelow]

/-! ## The commands -/

/-- CORE_NAP (R375). -/
def execCoreNap (core : CoreId) (s : State) : Host.Outcome State Fault Refusal := done (napCore core) s

/-- CORE_WAKE (R375). -/
def execCoreWake (core : CoreId) (s : State) : Host.Outcome State Fault Refusal := done (wakeEvent core) s

/-- CLUSTER_TARGET_ON: a write of PWR_CLUSTER.target = 0 (R376, R416). -/
def execClusterTargetOn (cluster : ClusterId) (s : State) : Host.Outcome State Fault Refusal :=
  done (whenA State.bound (targetOn cluster)) s

/-- CLUSTER_TARGET_GATED: a write of PWR_CLUSTER.target = 1 (R416). -/
def execClusterTargetGated (cluster : ClusterId) (s : State) : Host.Outcome State Fault Refusal :=
  done (whenA State.bound (targetGated cluster)) s

/-- CLUSTER_TARGET_OFF: a write of PWR_CLUSTER.target = 2 (R376, R416). -/
def execClusterTargetOff (cluster : ClusterId) (s : State) : Host.Outcome State Fault Refusal :=
  done (whenA State.bound (targetOff cluster)) s

/-- CLUSTER_CLOCK_GATED (R416). -/
def execClusterClockGated (cluster : ClusterId) (s : State) : Host.Outcome State Fault Refusal := done (clockGated cluster) s

/-- CLUSTER_SHUTDOWN_COMPLETE (R376). -/
def execClusterShutdownComplete (cluster : ClusterId) (s : State) : Host.Outcome State Fault Refusal :=
  done (clusterShut cluster) s

end Sys2Proof.Machine
end

