-- ==== Sys2Proof/Machine/DevRing.lean ====
section
/-! DEFINITION. The descriptor rings of the device in the fast tier, with their completion rings. R192, R222, R273, R362, R388. -/

namespace Sys2Proof.Machine

open Sys2Proof

/-- Where a device ring stands: its number, base and size and enable of the ring and of its completion ring, bytes of a record,
operations in flight at most, and the vector raised when a record is written. -/
structure RingPlace where
  idx : Nat
  base : Fld
  size : Fld
  enable : Fld
  cplBase : Fld
  cplSize : Fld
  cplEnable : Fld
  record : Nat
  limit : Nat
  vector : Option Nat
  deriving DecidableEq, Repr

/-- The migration ring (R192). -/
def migPlace : RingPlace :=
  ⟨0, Fld.memsMigRingBase, Fld.memsMigRingSizeCode, Fld.memsMigRingEnable, Fld.memsMigCplBase, Fld.memsMigCplSizeCode,
    Fld.memsMigCplEnable, 16, 64, some Vec.migration⟩
/-- The packer ring (R222). -/
def packPlace : RingPlace :=
  ⟨1, Fld.cmpJobRingBase, Fld.cmpJobRingSizeCode, Fld.cmpJobRingEnable, Fld.cmpJobCplBase, Fld.cmpJobCplSizeCode,
    Fld.cmpJobCplEnable, 16, 16, some Vec.packers⟩
/-- The page operation ring (R273). -/
def pagePlace : RingPlace :=
  ⟨2, Fld.attOpRingBase, Fld.attOpRingSizeCode, Fld.attOpRingEnable, Fld.attOpCplBase, Fld.attOpCplSizeCode,
    Fld.attOpCplEnable, 16, 8, some Vec.pages⟩
/-- The security operation ring (R362). -/
def secPlace : RingPlace :=
  ⟨3, Fld.secOpRingBase, Fld.secOpRingSizeCode, Fld.secOpRingEnable, Fld.secOpCplBase, Fld.secOpCplSizeCode,
    Fld.secOpCplEnable, 16, 4, none⟩

/-- The place of a ring with descriptors; the fault ring has none. -/
def ringPlace : DeviceRing → Option RingPlace
  | .migration => some migPlace
  | .packer => some packPlace
  | .pageOp => some pagePlace
  | .security => some secPlace
  | .fault => none

/-- Address of the index line of a ring from its base field. -/
def State.lineOf (s : State) (f : Fld) : Nat := s.fget f * 64

/-- The count in an index line; a line that gives no data, and an address outside the map, leave the last count in force (log
entry 29). -/
def State.indexAt (s : State) (a old : Nat) : Nat :=
  if s.outside a ∨ s.unreadable a then old else leNat (s.seenN 0 a 4)

/-- Code of a ring's engine in the memory error log and in ADDRESS records. -/
def RingPlace.agent (p : RingPlace) : Nat := if p.idx = 0 then 3 else 1

/-- Both index lines of a ring are read again while it is enabled. -/
def pollRing (p : RingPlace) : Act := fun s =>
  let d := s.devRing p.idx
  seqA [act [.devRing p.idx fun x => { x with
      tail := if s.flag p.enable then s.indexAt (s.lineOf p.base) d.tail else x.tail
      head := if s.flag p.cplEnable then s.indexAt (s.lineOf p.cplBase) d.head else x.head }],
    if s.flag p.enable then noteDev p.agent (s.lineOf p.base) 4 else nothing,
    if s.flag p.cplEnable then noteDev p.agent (s.lineOf p.cplBase) 4 else nothing] s

/-- The driver's consumed count of the fault ring is read again (R388). -/
def pollFaults : Act := fun s =>
  if s.flag Fld.fltRingEnable then
    let d := s.devRing 4
    seqA [act [.devRing 4 fun x => { x with head := s.indexAt (s.lineOf Fld.fltRingBase) d.head }],
      noteDev 1 (s.lineOf Fld.fltRingBase) 4] s
  else []

/-- Completion entries that are neither written nor held by `held` operations. -/
def State.cplFree (s : State) (p : RingPlace) (held : Nat) : Bool :=
  let d := s.devRing p.idx
  s.flag p.cplEnable && decide (countDiff d.produced d.head + held < ringEntries (s.fget p.cplSize))

/-- The descriptor that a ring gives next, when one waits and a completion entry is free for it. -/
def State.nextDesc (s : State) (p : RingPlace) (held : Nat) : Option Bytes :=
  let d := s.devRing p.idx
  if !s.tiersUp ∨ !s.flag p.enable ∨ d.taken = d.tail ∨ p.limit ≤ held ∨ !s.cplFree p held then none
  else some (s.devBytes (ringSlot (s.lineOf p.base) (s.fget p.size) 32 d.taken) 32)

/-- The next descriptor is taken; what its read meets is noted. -/
def takeDesc (p : RingPlace) : Act := fun s =>
  seqA [noteDev p.agent (ringSlot (s.lineOf p.base) (s.fget p.size) 32 (s.devRing p.idx).taken) 32,
    act [.devRing p.idx fun x => { x with taken := countUp x.taken }]] s

/-- A completion record is written. -/
def writeCpl (p : RingPlace) (r : Bytes) : Act := fun s =>
  let d := s.devRing p.idx
  seqA [storePlain (ringSlot (s.lineOf p.cplBase) (s.fget p.cplSize) p.record d.produced) (padTo p.record r),
    act ([.devRing p.idx fun x => { x with produced := countUp x.produced }] ++
      (match p.vector with | some v => [.msix v] | none => []))] s

end Sys2Proof.Machine
end

