-- ==== Sys2Proof/Machine/MemEvents.lean ====
section
/-! DEFINITION. Events of the memory tiers and of translation: bring-up, scrubbing, repairs of weights, the error logs,
invalidation, page retirement, records of the migration engine. R185 to R190, R192, R203 to R210, R398, R402. -/

namespace Sys2Proof.Machine

open Sys2Proof

/-! ## Repairs (R398, R402) -/

/-- One REPAIR record for each context of the mask and one with context 0xFF (Table 16.10). -/
def repairRecords (r : Repair) (action : Nat) : Act :=
  forA (setBits 16 (fieldAt r.entry 24 2) ++ [0xFF]) fun c => faultRecord 0x0A action c r.index r.attempts 0 (r.line * 64) false

/-- Commands that the hub holds for a line are dispatched again (R398). -/
def releaseHeld (line : Nat) : Act :=
  act [.hub fun h => hubInsert ((h.repairHeld.filter (·.heldFor == line)).map QCmd.restart)
    { h with repairHeld := h.repairHeld.filter (·.heldFor != line) }]

/-- A repair ends: its records, and the commands held for it. -/
def endRepair (r : Repair) (action : Nat) : Act :=
  seqA [repairRecords r action, act [.flt fun f => { f with repairs := f.repairs.filter (·.line != r.line) }], releaseHeld r.line]

/-! ## Patrol scrubbing (R185) -/

/-- The address of line `line` of a stack or package: the inverse of the routes of R182 and R187. -/
def scrubAddr (t : Tier) (unit line : Nat) : Nat :=
  let b := line * 64
  match t with
  | .fast => (b / 4096 * 6 + unit) * 4096 + b % 4096
  | .slow => Config.slowBase + (b / 4096 * 16 + unit) * 4096 + b % 4096

/-- The scrubber of a tier is on and the unit exists and is ready. -/
def State.scrubs (s : State) (t : Tier) (unit : Nat) : Bool :=
  match t with
  | .fast => s.flag Fld.memfScrubEnable && bitOf (s.fget Fld.memfStatusReady) unit && decide (unit < 6)
  | .slow => s.flag Fld.memsScrubEnable && s.slowPresent && bitOf (s.fget Fld.memsStatusReady) unit

/-- A new pass of a stack or package starts its page counts afresh. -/
def newPass (t unit : Nat) : Act := act [.tier t fun x => { x with
  ceCount := x.ceCount.filter (fun p => p.1 % 16 != unit)
  ceLogged := x.ceLogged.filter (· % 16 != unit) }]

/-- What a patrol read finds and does: a corrected line is written back, an uncorrectable error is treated as in R183, a poisoned
line is skipped. An error that the line holds already counts with what the read finds. -/
def scrubFound (a : Nat) (f : ScrubFinding) : Act := fun s =>
  match s.markAt a, f with
  | .poisoned, _ | .logged, _ => []
  | .uncorrectable, _ | _, .uncorrectable => lineError a 0 2 s
  | .correctable, _ | _, .correctable => seqA [corrected a 0 2, act [.mark (eccUnit a) .sound]] s
  | .sound, .clean => []

/-- One line of a patrol pass; retired pages are skipped. -/
def scrubLine (t : Tier) (unit line : Nat) (f : ScrubFinding) : Act := fun s =>
  let a := scrubAddr t unit line
  if !s.scrubs t unit ∨ !s.inTier a then []
  else seqA [if line = 0 then newPass (tierOf a) unit else nothing,
    if s.retired a then nothing else scrubFound a f] s

/-! ## Bring-up (R186, R188, R190) -/

/-- Failing lanes of group `g` of stack `k`. -/
def lanesOf (r : TrainingResult) (k g : Nat) : Nat :=
  match r.hbm[k]? with
  | some x => x.failing.getD g 0
  | none => 0

/-- Bits whose index passes a test, as a number. -/
def maskOf (n : Nat) (p : Nat → Bool) : Nat := ((List.range n).map fun i => if p i then 2 ^ i else 0).sum

/-- Memory bring-up ends, once the rails of both tiers are up (Table 15.7); a module cold reset has initialized both tiers with zeros. A failed stack puts the module in BASIC
mode, a failed package takes the slow tier out of service. -/
def bringUp (r : TrainingResult) : Act := fun s =>
  if !s.power.hubReady ∨ s.power.rails < 13 ∨ s.fget Fld.memfStatusReady ≠ 0 ∨ s.fget Fld.memfStatusFailed ≠ 0 then []
  else
    let bad (k : Nat) := (List.range 8).any fun g => 2 ≤ lanesOf r k g
    let pkgs := r.packagesFailed.map (·.val)
    seqA [demand 9, demand 10, act [.power fun p => { p with selfRefresh := false }],
      if s.power.coldReset then act [.clear 0 Config.fastEnd, .clear Config.slowBase (Config.slowEnd - Config.slowBase),
        .sound 0 Config.slowEnd, .plainLines 0 (Config.slowEnd / 64)] else nothing,
      act ((List.range 6).flatMap fun k =>
        [.fld (Fld.memfLaneRepaired k) (maskOf 8 fun g => lanesOf r k g == 1), .fld (Fld.memfLaneFailed k) (maskOf 8 fun g => 2 ≤ lanesOf r k g)]),
      act [.fld Fld.memfStatusRepaired (maskOf 6 fun k => (List.range 8).any fun g => lanesOf r k g == 1),
        .fld Fld.memfStatusFailed (maskOf 6 bad), .fld Fld.memfStatusReady (maskOf 6 fun k => !bad k),
        .fld Fld.memsStatusFailed (maskOf 16 pkgs.contains), .fld Fld.memsStatusReady (maskOf 16 fun p => !pkgs.contains p),
        .fld Fld.memsStatusPresent (b2n pkgs.isEmpty)],
      if (List.range 6).any bad then enterBasic 2 else nothing] s

/-! ## Invalidation (R203) -/

/-- Cached entries of a context that cover a range go. -/
def dropCached (c va size : Nat) : Upd :=
  .xlt fun x => { x with cache := x.cache.filter fun (_, e) => !(e.ctx == c && rangesMeet e.va (2 ^ e.sizeLog2) va size) }

/-- Every cached entry of a context goes. -/
def dropContext (c : Nat) : Upd := .xlt fun x => { x with cache := x.cache.filter (·.2.ctx != c) }

/-- A write of XLT_INV_CTRL. -/
def invalidate (c size : Nat) : Act := fun s =>
  let va := s.fget Fld.xltInvVaVa
  if s.flag Fld.xltInvStatusBusy ∨ (1 ≤ size ∧ size ≤ 15) ∨ 58 ≤ size ∨ (size ≠ 0 ∧ va % 2 ^ size ≠ 0) then
    [.fld Fld.xltInvStatusRefused 1]
  else [.fld Fld.xltInvStatusBusy 1, .xlt fun x => { x with invalidate := some (c, va, size) }]

/-- The invalidation is complete. -/
def invalidated : Act := fun s =>
  match s.xlt.invalidate with
  | none => []
  | some (c, va, size) =>
    [if size = 0 then dropContext c else dropCached c va (2 ^ size), .xlt fun x => { x with invalidate := none },
     .fld Fld.xltInvStatusBusy 0, .fld Fld.xltInvStatusDone 1]

/-! ## Page retirement (R205 to R207) -/

/-- Bytes of a migration unit and of a pool page. -/
def unitBytes : Nat := 0x20_0000

/-- A migration between CHECK and DONE holds the page: it lies in its source or destination (R207). -/
def State.pageMigrates (s : State) (page : Nat) : Bool :=
  s.mig.inflight.any fun m => m.state != .check &&
    (rangesMeet m.src unitBytes (page * 65536) 65536 || rangesMeet m.dst unitBytes (page * 65536) 65536)

/-- A migration record is written and counted. -/
def putMigRecord (r : Bytes) (status : Nat) : Act :=
  seqA [writeCpl migPlace r, act [.inc (if status = 0 then Fld.memsMigCntOk else Fld.memsMigCntNotOk) 1]]

/-- Migration records that wait are written while entries are free (POOL_RETIRED, abandoned migrations). -/
def flushMigRecords : Act := fun s =>
  seqA (s.mig.records.map fun (r, st) => fun t =>
    if t.cplFree migPlace (t.mig.inflight.length) then
      seqA [act [.mig fun m => { m with records := m.records.drop 1 }], putMigRecord r st] t
    else []) s

/-- Pool pages that contain a retired page leave their pools, each with a record of status POOL_RETIRED as soon as an entry is
free (R207). -/
def pullPages (page : Nat) : Act := fun s =>
  let out := (s.mig.poolFast ++ s.mig.poolSlow).filter fun p => rangesMeet p unitBytes (page * 65536) 65536
  let record (p : Nat) : Bytes × Nat := (leBytes 4 0 ++ leBytes 1 7 ++ zeros 3 ++ leBytes 8 p, 7)
  seqA [act [.mig fun m => { m with
      poolFast := m.poolFast.filter (!out.contains ·)
      poolSlow := m.poolSlow.filter (!out.contains ·)
      records := m.records ++ out.map record }], flushMigRecords] s

/-- A write of XLT_RETIRE. -/
def retirePage (page : Nat) : Act := fun s =>
  let a := page * 65536
  if s.flag Fld.xltRetireStatusBusy ∨ 8192 ≤ s.xlt.retired.length ∨ !s.inTier a then [.fld Fld.xltRetireStatusRefused 1]
  else if s.xlt.retired.contains page then [.fld Fld.xltRetireStatusDup 1]
  else seqA [act [.fld Fld.xltRetireStatusBusy 1, .fld Fld.xltRetireStatusHeld (b2n (s.pageMigrates page)),
      .xlt fun x => { x with retire := some page }], pullPages page] s

/-- The retirement takes effect: the page joins the table, cached leaves that cover it go, and so do pool pages that joined a pool
meanwhile. It waits on a migration. -/
def pageRetired : Act := fun s =>
  match s.xlt.retire with
  | none => []
  | some p =>
    if s.pageMigrates p then [.fld Fld.xltRetireStatusHeld 1]
    else
      let covers (e : CacheEntry) := bitOf e.value 3 && rangesMeet (bitsOf e.value 8 44 * 256) (2 ^ e.sizeLog2) (p * 65536) 65536
      seqA [act [.xlt fun x => { x with retire := none, retired := x.retired ++ [p], cache := x.cache.filter (!covers ·.2) },
        .fld Fld.xltRetireStatusBusy 0, .fld Fld.xltRetireStatusHeld 0, .fld Fld.xltRetireStatusDone 1], pullPages p] s

/-! ## Copies between frames (R194, R274) -/

/-- The golden line of a repair in STUCK, which a migration writes in place of a poisoned line (R403). -/
def State.stuckGolden (s : State) (a : Nat) : Option Bytes :=
  if s.poisoned a then (s.flt.repairs.find? fun r => r.line == a / 64 && r.state == .stuck).map (·.golden) else none

/-- Lines copied for a context from one range to another that does not meet it: data under the keys of the frames, poison as
poison, a stuck line as its golden line. `agent` is the code of the reader in the memory error log. -/
def copyLines (agent c src dst n : Nat) : Act := fun s =>
  seqA [act ((List.range (n / 64)).flatMap fun i =>
      let a := src + 64 * i
      let b := dst + 64 * i
      match s.stuckGolden a with
      | some g => storeCtx c b g s
      | none => match s.readLine c a 64 with
        | .ok d => storeCtx c b d s
        | .error _ => [.mark (eccUnit b) .poisoned]),
    forA ((List.range (n / 64)).filter fun i => s.markAt (src + 64 * i) != .sound) fun i => noteReads c agent (src + 64 * i) 64] s

/-- A range holds a poisoned line that has no golden line to take its place. -/
def State.anyPoison (s : State) (a n : Nat) : Bool :=
  (List.range (n / 64)).any fun i => s.poisoned (a + 64 * i) && (s.stuckGolden (a + 64 * i)).isNone

/-- A frame of a range lies inside a migration between CHECK and DONE: a retag of it is held until DONE (R358). -/
def State.rangeMigrates (s : State) (a n : Nat) : Bool :=
  s.mig.inflight.any fun m => m.state != .check && (rangesMeet m.src unitBytes a n || rangesMeet m.dst unitBytes a n)

/-- The key tag of a frame takes a value (R358). -/
def setTag (a t : Nat) : Act := fun s => storePlain (s.tagAddr a) [BitVec.ofNat 8 t] s

/-! ## The commands -/

/-- MEMORY_BRING_UP_COMPLETE (R186, R188, R190). -/
def execMemoryBringUpComplete (training : TrainingResult) (s : State) : Host.Outcome State Fault Refusal :=
  done (bringUp training) s

/-- RING_INDEX_POLL: the index lines of a device ring are read again, and migration records that waited for a free entry are
written (R192, R207, R222, R273, R362, R388). -/
def execRingIndexPoll (ring : DeviceRing) (s : State) : Host.Outcome State Fault Refusal :=
  done (match ringPlace ring with
    | some p => seqA [pollRing p, if ring = .migration then flushMigRecords else nothing]
    | none => pollFaults) s

/-- PATROL_SCRUB_READ (R183, R185). -/
def execPatrolScrubRead (tier : Tier) (unit : Fin 16) (line : Nat) (finding : ScrubFinding) (s : State) :
    Host.Outcome State Fault Refusal := done (scrubLine tier unit line finding) s

/-- ERR_LOG_POP: a write of 1 to MEMF_ERR_LOG0.valid or MEMS_ERR_LOG0.valid (R208). -/
def execErrLogPop (tier : Tier) (s : State) : Host.Outcome State Fault Refusal :=
  done (whenA State.bound (act [.tier (match tier with | .fast => 0 | .slow => 1) fun x => { x with log := x.log.drop 1 }])) s

/-- XLT_FAULT_LOG_POP: a write of 1 to XLT_FAULT_LOG0.valid (R210). -/
def execXltFaultLogPop (s : State) : Host.Outcome State Fault Refusal :=
  done (whenA State.bound (act [.xlt fun x => { x with log := x.log.drop 1 }])) s

/-- XLT_INVALIDATE: a write of XLT_INV_CTRL (R203, R210). -/
def execXltInvalidate (ctx : Ctx) (sizeLog2 : BitVec 6) (s : State) : Host.Outcome State Fault Refusal :=
  done (whenA State.bound (invalidate ctx sizeLog2.toNat)) s

/-- XLT_INVALIDATE_DONE (R203). -/
def execXltInvalidateDone (s : State) : Host.Outcome State Fault Refusal := done invalidated s

/-- PAGE_RETIRE: a write of XLT_RETIRE (R206, R207). -/
def execPageRetire (page : BitVec 36) (s : State) : Host.Outcome State Fault Refusal :=
  done (whenA State.bound (retirePage page.toNat)) s

/-- PAGE_RETIRE_DONE (R205 to R207). -/
def execPageRetireDone (s : State) : Host.Outcome State Fault Refusal := done pageRetired s

end Sys2Proof.Machine
end

