-- ==== Sys2Proof/Machine/Pages.lean ====
section
/-! DEFINITION. The page service: the ledger, free and release rings, allocation, copy-on-write, compaction, SHARE and FREE.
R255 to R260, R265, R271 to R275, R358. Log entry 41. -/

namespace Sys2Proof.Machine

open Sys2Proof

/-! ## Leaves -/

/-- The page service as an agent of a context. -/
def pageAgent (c : Nat) : Agent := { code := 1, ctx := c }

/-- First address of the KV page that holds an address. -/
def State.pageStart (s : State) (c va : Nat) : Nat := va / s.pageBytes c * s.pageBytes c

/-- Offsets of the 64 KiB frames of a KV page of a context. -/
def State.pageFrames (s : State) (c : Nat) : List Nat := (List.range (s.pageBytes c / 65536)).map (65536 * ·)

/-- The geometry of a context keeps to R255. -/
def State.pageSizeOk (s : State) (c : Nat) : Bool := 65536 ≤ s.pageBytes c && s.pageBytes c ≤ 2097152

/-- Address of the level-1 entry below a table, when every table above it exists (R199). -/
def State.l1From (s : State) (ag : Agent) (va : Nat) : Nat → Nat → Option Nat
  | 0, _ => none
  | lv + 1, table =>
    let shift := if lv = 0 then 16 else 12 + 9 * lv
    let ea := table + 8 * (va / 2 ^ shift % (if lv = 0 then 32 else 512))
    if !s.tableReadable ea then none
    else if lv = 0 then some ea
    else match s.entryValue ag ea with
      | none => none
      | some e => if !bitOf e 0 ∨ bitOf e 3 then none else s.l1From ag va lv (bitsOf e 8 44 * 256)

/-- Address of the level-1 entry of a virtual address. -/
def State.leafSlot (s : State) (c va : Nat) : Option Nat :=
  match s.rootOf c with
  | none => none
  | some root => if bitOf root 0 then s.l1From (pageAgent c) (va % 2 ^ 57) 5 (bitsOf root 12 40 * 4096) else none

/-- The 64 KiB leaf of an address takes a value (R258). -/
def putLeaf (c va v : Nat) : Act := fun s =>
  match s.leafSlot c va with
  | none => []
  | some ea => storePlain ea (leBytes 8 v) s

/-- The leaves of a KV page map a physical page with the given flags, and cached translations of the range go. -/
def mapPage (c va page flags : Nat) : Act := fun s =>
  seqA [forA (s.pageFrames c) fun o => putLeaf c (va + o) (page + o + flags), act [dropCached c va (s.pageBytes c)]] s

/-- Flags of a leaf that is valid, readable and writable (R265), and of a shared one (R273). -/
def leafRw : Nat := 0x0F
/-- A shared leaf. -/
def leafCow : Nat := 0x1F

/-! ## The free ring (R260) -/

/-- The private key tag of a context (R356). -/
def privateTag (c : Nat) : Nat := 1 + 2 * c

/-- A free-ring entry that may be used: aligned, in a tier, outside the host-managed region, not retired. -/
def State.freeOk (s : State) (c a : Nat) : Bool :=
  a % s.pageBytes c == 0 && s.rangeInTier a (s.pageBytes c) && !s.meetsHdm a (s.pageBytes c) && !s.rangeRetired a (s.pageBytes c)

/-- Entries of a context's free ring that the driver has produced and the device has not taken. -/
def State.freeWaiting (s : State) (c : Nat) : Nat :=
  if s.flag (Fld.attFreeEnable c) then
    min (ringEntries (s.fget (Fld.attFreeSizeCode c)))
      (countDiff (leNat (s.devBytes (s.fget (Fld.attFreeBase c) * 64) 4)) (tabGet (fun _ => 0) s.pages.freeTaken c))
  else 0

/-- Entry `i` of a free ring. -/
def State.freeEntry (s : State) (c i : Nat) : Nat :=
  leNat (s.devBytes (ringSlot (s.fget (Fld.attFreeBase c) * 64) (s.fget (Fld.attFreeSizeCode c)) 8 i) 8)

/-- The entries taken until one may be used: those rejected, and the one found. -/
def State.freeScan (s : State) (c : Nat) : Nat → Nat → List Nat × Option Nat
  | 0, _ => ([], none)
  | n + 1, i =>
    let a := s.freeEntry c i
    if s.freeOk c a then ([], some a)
    else
      let (bad, p) := s.freeScan c n (countUp i)
      (a :: bad, p)

/-- The consumed count of a free ring moves on, in the device and in line 0. -/
def consumeFree (c n : Nat) : Act := fun s =>
  let k := (tabGet (fun _ => 0) s.pages.freeTaken c + n) % 2 ^ 32
  seqA [act [.pages fun p => { p with freeTaken := tabSet (fun _ => 0) p.freeTaken c k }],
    storePlain (s.fget (Fld.attFreeBase c) * 64 + 4) (leBytes 4 k)] s

/-- A page is taken from the free ring of a context for `k`, or the ring is empty. Rejected entries go to the release ring
with reason 1. A page that a migration still works on holds the request (R358). -/
def takePage (c : Nat) (k : Nat → Act) (empty : Act) : Act := fun s =>
  let (bad, page) := s.freeScan c (s.freeWaiting c) (tabGet (fun _ => 0) s.pages.freeTaken c)
  let n := bad.length + b2n page.isSome
  if page.any fun p => s.rangeMigrates p (s.pageBytes c) then []
  else seqA [if n = 0 then nothing else consumeFree c n, forA bad fun a => releaseEntry c (a % 2 ^ 52) 1,
    match page with
    | some p => k p
    | none => empty] s

/-- A page becomes LIVE for a context: its ledger entry, and the key tags of its frames (R265, R358). -/
def setLive (c page : Nat) : Act := fun s =>
  seqA [ledgerPut page { refcount := 1, pins := 0, ctx := c, state := 1 },
    forA (s.pageFrames c) fun o => setTag (page + o) (privateTag c)] s

/-! ## Allocation and copy-on-write (R265, R274) -/

/-- What a write to a row meets: it may go on, a page must be allocated, or copied. Other faults are not the service's. -/
inductive PageNeed where
  | none
  | alloc
  | cow
  | fault
  deriving DecidableEq, Repr

/-- What a write to an address needs, by its leaf. -/
def State.pageNeed (s : State) (c va : Nat) : PageNeed :=
  match s.walk (pageAgent c) va 1 with
  | .ok w => if bitOf w.leaf 4 then .cow else .none
  | .error (l, r) => if l = 1 ∧ r = Reason.invalid then .alloc else .fault

/-- The engine's walks of a KV page's frames at an address, for a look-up. -/
def notePages (c va : Nat) : Act := fun s => forA (s.pageFrames c) (fun o => noteWalk (pageAgent c) (va + o) 2) s

/-- A new page is mapped at an address, then `k`. -/
def allocPage (c va : Nat) (k empty : Act) : Act :=
  takePage c (fun p => fun s => seqA [setLive c p, mapPage c (s.pageStart c va) p leafRw, act [.inc Fld.attCntAllocs 1], k] s) empty

/-- A write through a cow leaf takes the page, or a copy of it (Table 11.8), then `k`. -/
def copyPage (c va : Nat) (k empty : Act) : Act := fun s =>
  let a := s.pageStart c va
  match s.walk (pageAgent c) a 2 with
  | .error _ => k s
  | .ok w =>
    if (s.ledger w.pa).refcount = 1 then seqA [mapPage c a w.pa leafRw, act [.inc Fld.attCnt3Ownership 1], k] s
    else takePage c (fun p => seqA [setLive c p, copyLines 1 c w.pa p (s.pageBytes c), mapPage c a p leafRw,
      act [.inc Fld.attCntCowCopies 1], dropRef w.pa, k]) empty s

/-- Every page of a list is made ready for a write, then `ok`; an empty free ring stops at `empty`. -/
def readyPages (c : Nat) (ok empty : Act) : List Nat → Act
  | [] => ok
  | va :: t => fun s =>
    match s.pageNeed c va with
    | .alloc => allocPage c va (readyPages c ok empty t) empty s
    | .cow => copyPage c va (readyPages c ok empty t) empty s
    | _ => readyPages c ok empty t s

/-- A wait on an empty free ring is counted and announced (R265, R293). -/
def emptyRing (c : Nat) : Act :=
  seqA [act [.inc Fld.attCnt3NopageWaits 1, .fld (Fld.attStatusFreeEmpty.item c) 1], periodEvent c 2]

/-- The page service works: its ledger is enabled, memory has come up, and the module is not in BASIC mode (R190, R278, R400). -/
def State.pagesRun (s : State) : Bool := s.pagesReady && s.tiersUp && !s.basic

/-- The command of a request still waits for it. -/
def State.reqStands (s : State) (r : PageReq) : Bool := (s.core r.core).queue.any fun q => q.id == r.cmd && q.run == .needsPage

/-- A request is over, and its command runs again. -/
def endReq (r : PageReq) : Act :=
  act [.pages fun p => { p with reqs := eraseFirst (· == r) p.reqs },
    .core r.core fun x => { x with queue := x.queue.map fun q =>
      if q.id = r.cmd ∧ q.run = .needsPage then { q with run := .waiting } else q }]

/-- A request meets an empty free ring. -/
def waitReq (r : PageReq) : Act :=
  if r.waited then nothing
  else seqA [act [.pages fun p => { p with reqs := modFirst (· == r) (fun x => { x with waited := true }) p.reqs }], emptyRing r.ctx]

/-- The page service serves the oldest request of a kind; one that waits on an empty ring does not stop those after it. -/
def serveReq (cow : Bool) : Act := fun s =>
  if !s.pagesRun then []
  else match s.pages.reqs.find? fun r => r.cow == cow && (!s.reqStands r || !r.waited || s.freeWaiting r.ctx != 0) with
    | none => []
    | some r => if s.reqStands r then readyPages r.ctx (endReq r) (waitReq r) [r.va] s else endReq r s

/-! ## Compaction (R271) -/

/-- Addresses of the K half and the V half of position `pos` of a layer (R257). -/
def State.rowVas (s : State) (c slot layer pos : Nat) : Nat × Nat :=
  let k := s.rowBytes c / 2
  let a := s.pageVa c slot layer pos + pos % s.pageTokens c * k
  (a, a + s.pageTokens c * k)

/-- One accepted scratch row of a layer is copied to its position; a row that cannot be read leaves poison. -/
def compactRow (m : Compaction) (layer row pos : Nat) : Act := fun s =>
  let ag := pageAgent m.ctx
  let k := s.rowBytes m.ctx / 2
  let (ka, va) := s.rowVas m.ctx m.slot layer pos
  match s.readVa ag (s.scratchVa m.ctx m.slot layer row) (2 * k) with
  | .ok d => seqA [noteWalks ag (s.scratchVa m.ctx m.slot layer row) (2 * k) 0, storeVa ag ka (slice d 0 k), storeVa ag va (slice d k k)] s
  | .error _ => seqA [noteWalks ag (s.scratchVa m.ctx m.slot layer row) (2 * k) 0, act ((s.physPieces ag ka k ++ s.physPieces ag va k).flatMap
      fun (a, n) => (linePieces a n).map fun (l, _) => .mark (eccUnit l) .poisoned)] s

/-- Every row of a compaction, as (layer, scratch row, position). -/
def State.compactRows (s : State) (m : Compaction) : List (Nat × Nat × Nat) :=
  (List.range (s.fget (Fld.attGeomLayers m.ctx))).flatMap fun l => m.rows.zipIdx.map fun (r, i) => (l, r, m.start + i)

/-- A compaction changes. -/
def setCompaction (slot : Nat) (f : Compaction → Compaction) : Act :=
  act [.pages fun p => { p with compactions := modFirst (·.slot == slot) f p.compactions }]

/-- Where the rows of a compaction lie. -/
def State.compactPlaces (s : State) (m : Compaction) : List (Nat × Nat) :=
  let ag := pageAgent m.ctx
  let k := s.rowBytes m.ctx / 2
  (s.compactRows m).flatMap fun (l, r, pos) =>
    let (ka, va) := s.rowVas m.ctx m.slot l pos
    s.physPieces ag (s.scratchVa m.ctx m.slot l r) (2 * k) ++ s.physPieces ag ka k ++ s.physPieces ag va k

/-- The page service runs a compaction: the pages are made ready, the rows copied. -/
def compact (slot : Nat) : Act := fun s =>
  if !s.pagesRun then []
  else match s.pages.compactions.find? (·.slot == slot) with
    | none => []
    | some m =>
      if m.copied then []
      else
        let rows := s.compactRows m
        withHost (·.compactPlaces m) (readyPages m.ctx
          (seqA [forA rows fun (l, r, pos) => compactRow m l r pos, setCompaction slot fun x => { x with copied := true }])
          (if m.waited then nothing else seqA [setCompaction slot fun x => { x with waited := true }, emptyRing m.ctx])
          (rows.map fun (l, _, pos) => (s.rowVas m.ctx slot l pos).1)) s

/-- A compaction finishes. -/
def compactDone (slot : Nat) : Act := fun s =>
  match s.pages.compactions.find? (·.slot == slot) with
  | none => []
  | some m =>
    if !m.copied then []
    else [.pages fun p => { p with compactions := eraseFirst (·.slot == slot) p.compactions }, .inc Fld.attCnt2Compactions 1]

/-! ## SHARE and FREE (R273) -/

/-- Status codes of Table 11.7. -/
def Ps.badDesc : Nat := 1
/-- TRANSLATION. -/
def Ps.translation : Nat := 2
/-- DST_MAPPED. -/
def Ps.dstMapped : Nat := 3
/-- LEAF_SIZE. -/
def Ps.leafSize : Nat := 4
/-- REFCOUNT_FULL. -/
def Ps.refcountFull : Nat := 5
/-- NOT_LIVE. -/
def Ps.notLive : Nat := 6

/-- The record of an operation (Table 11.7). -/
def pageRecord (tag status pages released : Nat) : Bytes :=
  leBytes 4 tag ++ leBytes 1 status ++ zeros 3 ++ leBytes 4 pages ++ leBytes 4 released

/-- How far an operation has come: its updates, the state after them, the pages processed and released, its status. -/
structure OpSum where
  ups : List Upd := []
  state : State
  pages : Nat := 0
  released : Nat := 0
  status : Nat := 0

/-- One piece of an operation: a check, then an action over `n` pages, `gone` of which are sent to release. -/
structure OpPiece where
  status : Nat := 0
  effect : Act := nothing
  pages : Nat := 1
  released : Nat := 0

/-- An operation goes on with the page at number `i`, unless a page has failed or is already done. -/
def opNext (piece : State → Nat → OpPiece) (o : OpSum) (i : Nat) : OpSum :=
  if o.status ≠ 0 ∨ i < o.pages then o
  else
    let x := piece o.state i
    if x.status ≠ 0 then { o with status := x.status }
    else
      let us := x.effect o.state
      { o with ups := o.ups ++ us, state := o.state.run us, pages := o.pages + x.pages, released := o.released + x.released }

/-- An operation over `n` pages in ascending order. -/
def opRun (piece : State → Nat → OpPiece) (n : Nat) (s : State) : OpSum :=
  (List.range n).foldl (opNext piece) { state := s }

/-- Fields that Table 11.6 fixes, with the context and the page size. -/
def State.pageDescOk (s : State) (d : Bytes) : Bool :=
  let c := fieldAt d 2 1
  fieldAt d 1 1 == 0 && fieldAt d 3 1 == 0 && fieldAt d 0x1C 4 == 0 && c < 16 && s.ctxLive c && s.pageSizeOk c &&
  fieldAt d 8 8 < 2 ^ 57 && fieldAt d 0x10 8 < 2 ^ 57 && fieldAt d 8 8 % s.pageBytes c == 0 && fieldAt d 0x10 8 % s.pageBytes c == 0 &&
  1 ≤ fieldAt d 0x18 4 && fieldAt d 0x18 4 ≤ 65536 && (fieldAt d 0 1 == 1 || fieldAt d 8 8 == 0)

/-- The walks of a page's frames. -/
def State.pageWalks (s : State) (c va : Nat) : List (Except (Nat × Nat) Walk) :=
  (s.pageFrames c).map fun o => s.walk (pageAgent c) (va + o) 2

/-- A walk that succeeded. -/
def walkOf : Except (Nat × Nat) Walk → Option Walk
  | .ok w => some w
  | .error _ => none

/-- The leaf entry below a table that a walk comes to, whatever its checks say; none where no valid one stands. -/
def State.validLeaf (s : State) (ag : Agent) (va : Nat) : Nat → Nat → Bool
  | 0, _ => false
  | lv + 1, table =>
    let shift := if lv = 0 then 16 else 12 + 9 * lv
    match s.entryValue ag (table + 8 * (va / 2 ^ shift % (if lv = 0 then 32 else 512))) with
    | none => false
    | some e => bitOf e 0 && (lv == 0 || bitOf e 3 || s.validLeaf ag va lv (bitsOf e 8 44 * 256))

/-- A valid leaf stands at an address of a context. -/
def State.leafStands (s : State) (c va : Nat) : Bool :=
  match s.rootOf c with
  | none => false
  | some root => bitOf root 0 && s.validLeaf (pageAgent c) (va % 2 ^ 57) 5 (bitsOf root 12 40 * 4096)

/-- SHARE of the page at `src` to `dst`. -/
def sharePiece (c src dst : Nat) (s : State) (i : Nat) : OpPiece :=
  let a := src + i * s.pageBytes c
  let b := dst + i * s.pageBytes c
  let from_ := (s.pageWalks c a).filterMap walkOf
  let page := (from_.head?.map (·.pa)).getD 0
  let e := s.ledger page
  if from_.length ≠ (s.pageFrames c).length then { status := Ps.translation }
  else if from_.any (·.sizeLog2 != 16) then { status := Ps.leafSize }
  else if (s.pageFrames c).any fun o => s.leafStands c (b + o) then { status := Ps.dstMapped }
  else if (s.pageFrames c).any fun o => (s.leafSlot c (b + o)).isNone then { status := Ps.translation }
  else if e.state ≠ 1 then { status := Ps.notLive }
  else if e.refcount = 65535 then { status := Ps.refcountFull }
  else { effect := seqA [notePages c a, forA from_ fun w => storePlain w.leafAddr (leBytes 8 (w.leaf ||| 0x10)),
      forA ((s.pageFrames c).zip from_) fun (o, w) => putLeaf c (b + o) (w.pa / 65536 * 65536 + leafCow),
      ledgerPut page { e with refcount := e.refcount + 1 }, act [dropCached c a (s.pageBytes c)]] }

/-- A page whose only mapping goes is sent to release at once when it has no pins. -/
def State.freesAt (s : State) (page : Nat) : Nat := b2n ((s.ledger page).refcount == 1 && (s.ledger page).pins == 0)

/-- FREE of the page at `va`, or of every page of a 2 MiB leaf that lies in the range. -/
def freePiece (c va n : Nat) (s : State) (i : Nat) : OpPiece :=
  let size := s.pageBytes c
  let a := va + i * size
  match s.walk (pageAgent c) a 2 with
  | .error _ => { status := Ps.translation }
  | .ok w =>
    if w.sizeLog2 = 16 then
      let ws := (s.pageWalks c a).filterMap walkOf
      if ws.length ≠ (s.pageFrames c).length ∨ ws.any (·.sizeLog2 != 16) then { status := Ps.translation }
      else if (s.ledger w.pa).state ≠ 1 then { status := Ps.notLive }
      else { released := s.freesAt w.pa
             effect := seqA [notePages c a, forA (s.pageFrames c) fun o => putLeaf c (a + o) 0, act [dropCached c a size], dropRef w.pa] }
    else if w.sizeLog2 ≠ 21 ∨ a % unitBytes ≠ 0 ∨ va + n * size < a + unitBytes then { status := Ps.translation }
    else
      let pages := (List.range (unitBytes / size)).map fun j => w.pa + j * size
      if pages.any fun p => (s.ledger p).state != 1 then { status := Ps.notLive }
      else { pages := pages.length, released := (pages.map s.freesAt).sum
             effect := seqA [noteWalk (pageAgent c) a 2, storePlain w.leafAddr (zeros 8), act [dropCached c a unitBytes], forA pages dropRef] }

/-- The next page operation, when the page service works and its kind passes a test. -/
def pageDesc (kind : Nat → Bool) (f : Bytes → Act) : Act := fun s =>
  if !s.pagesRun then []
  else match s.nextDesc pagePlace 0 with
    | some d => if kind (fieldAt d 0 1) then f d s else []
    | none => []

/-- An operation ends with its record. -/
def endPageOp (d : Bytes) (status pages released : Nat) : Act :=
  seqA [takeDesc pagePlace, writeCpl pagePlace (pageRecord (fieldAt d 4 4) status pages released)]

/-- A page operation of a good descriptor runs to its end. -/
def pageOp (kind : Nat) (piece : Bytes → State → Nat → OpPiece) : Act := pageDesc (· == kind) fun d => fun s =>
  if !s.pageDescOk d then endPageOp d Ps.badDesc 0 0 s
  else
    let o := opRun (piece d) (fieldAt d 0x18 4) s
    seqA [act o.ups, endPageOp d o.status o.pages o.released] s

/-! ## The ledger and the release rings (R259, R260, R278) -/

/-- Some ledger entry is LIVE, WAIT or HELD. -/
def State.ledgerBusy (s : State) : Bool :=
  let b := s.fget Fld.attLedgerBase * 65536
  s.mem.any fun (a, v) => b ≤ a && a < b + 8 * 26214400 && a % 8 == 0 && v &&& 0x0F != 0

/-- A write of ATT_LEDGER. -/
def ledgerWrite (base : Nat) (on : Bool) : Act := fun s =>
  if s.flag Fld.attLedgerEnable then
    (if on ∨ s.ledgerBusy then [] else [.fld Fld.attLedgerEnable 0, .fld Fld.attStatusReady 0])
  else [.fld Fld.attLedgerBase base, .fld Fld.attLedgerEnable (b2n on), .fld Fld.attStatusReady (b2n on)]

/-- The oldest entry of a context that waits for its release ring is written once an entry of the ring is free. -/
def heldWrite (c : Nat) : Act := fun s =>
  match s.pages.held.find? (·.1 == c) with
  | none => []
  | some (_, page, reason) =>
    if !s.releaseRoom c then []
    else seqA [act [.pages fun p => { p with held := eraseFirst (·.1 == c) p.held }], releaseWrite c page reason,
      heldLedger page reason false,
      fun t => if t.pages.held.any fun x => x.1 == c then [] else [.fld (Fld.attStatusHeld.item c) 0]] s

/-! ## The commands -/

/-- LEDGER_ENABLE: a write of ATT_LEDGER (R259, R278). -/
def execLedgerEnable (base : BitVec 24) (enable : Bool) (s : State) : Host.Outcome State Fault Refusal :=
  done (whenA State.bound3 (ledgerWrite base.toNat enable)) s

/-- PAGE_ALLOCATE (R265, R260, R358). -/
def execPageAllocate (s : State) : Host.Outcome State Fault Refusal := done (serveReq false) s

/-- COPY_ON_WRITE (R274). -/
def execCopyOnWrite (s : State) : Host.Outcome State Fault Refusal := done (serveReq true) s

/-- SHARE (R273). -/
def execShare (s : State) : Host.Outcome State Fault Refusal :=
  done (pageOp 1 fun d => sharePiece (fieldAt d 2 1) (fieldAt d 8 8) (fieldAt d 0x10 8)) s

/-- FREE (R273, R275). -/
def execFree (s : State) : Host.Outcome State Fault Refusal :=
  done (pageOp 2 fun d => freePiece (fieldAt d 2 1) (fieldAt d 0x10 8) (fieldAt d 0x18 4)) s

/-- RESERVED_PAGE_OP_KIND (R273). -/
def execReservedPageOpKind (s : State) : Host.Outcome State Fault Refusal :=
  done (pageDesc (fun k => k == 0 || 3 ≤ k) fun d => endPageOp d Ps.badDesc 0 0) s

/-- HELD_PAGE_WRITE (R260, R275). -/
def execHeldPageWrite (ctx : Ctx) (s : State) : Host.Outcome State Fault Refusal := done (heldWrite ctx) s

/-- COMPACTION (R271). -/
def execCompaction (slot : SlotId) (s : State) : Host.Outcome State Fault Refusal := done (compact slot) s

/-- COMPACTION_COMPLETE (R271). -/
def execCompactionComplete (slot : SlotId) (s : State) : Host.Outcome State Fault Refusal := done (compactDone slot) s

/-- ATT_ERR_LOG_POP: a write of 1 to ATT_ERR_LOG0.valid (R278). -/
def execAttErrLogPop (s : State) : Host.Outcome State Fault Refusal :=
  done (whenA State.bound (act [.attErrs fun l => l.drop 1])) s

end Sys2Proof.Machine
end

