-- ==== Sys2Proof/Machine/Codec.lean ====
section
/-! DEFINITION. The lossless code: code tables, blocks and segments, decoding with the errors of Table 9.4, and encoding.
R214 to R220. -/

namespace Sys2Proof.Machine

open Sys2Proof

/-! ## Code tables (R216, R219) -/

/-- The 256 code lengths of a stored table. -/
def tableLengths (b : Bytes) : List Nat := (b.take 128).flatMap fun x => [x.toNat % 16, x.toNat / 16]

/-- The stored form of 256 code lengths. -/
def tableBytes (ls : List Nat) : Bytes :=
  (List.range 128).map fun j => BitVec.ofNat 8 (ls.getD (2 * j) 0 + 16 * ls.getD (2 * j + 1) 0)

/-- A table is valid when it has a code and its Kraft sum is at most 1. -/
def tableValid (ls : List Nat) : Bool :=
  ls.any (· != 0) && ls.all (· ≤ 15) && decide ((ls.map fun l => if l = 0 then 0 else 2 ^ (15 - l)).sum ≤ 2 ^ 15)

/-- Number of base-3 digits equal to 1 among the five digits of a T5B byte. -/
def onesOf (x : Nat) : Nat := ((List.range 5).filter fun i => x / 3 ^ i % 3 == 1).length

/-- The code length that house table `t` gives a byte (Table 9.5). -/
def houseLength (t x : Nat) : Nat :=
  let z := onesOf x
  let v := if x < 128 then x else 256 - x
  match t with
  | 1 => if 243 ≤ x then 0 else if z = 5 then 3 else if z = 4 then 6 else if z = 3 then 7 else 9
  | 2 => if 243 ≤ x then 0 else if z = 5 then 1 else if z = 4 then 6 else if z = 3 then 8 else if z = 2 then 10 else 12
  | 3 => if v = 0 then 3 else if v ≤ 3 then 5 else if v ≤ 15 then 7 else if v ≤ 63 then 9 else 10
  | _ => if (0x38 ≤ x ∧ x ≤ 0x3F) ∨ (0xB8 ≤ x ∧ x ≤ 0xBF) then 5 else 9

/-- House table `t`. -/
def houseTable (t : Nat) : List Nat := (List.range 256).map (houseLength t)

/-- The symbols of each code length 1 to 15, ascending: the canonical order. -/
def symbolsByLength (ls : List Nat) : List (List Nat) :=
  (List.range 15).map fun i => (List.range 256).filter fun s => ls.getD s 0 == i + 1

/-- The canonical codes of RFC 1951 as (symbol, code, length), from the symbols of each length. -/
def canonFrom : List (List Nat) → Nat → Nat → List (Nat × Nat × Nat)
  | [], _, _ => []
  | ss :: t, len, code => (ss.zipIdx.map fun (s, i) => (s, code + i, len)) ++ canonFrom t (len + 1) (2 * (code + ss.length))

/-- The code and length of every symbol. -/
def canonCodes (ls : List Nat) : List (Nat × Nat × Nat) := canonFrom (symbolsByLength ls) 1 0

/-! ## Bits -/

/-- The bits of a string, each byte from bit 0 upward. -/
def bitsOfBytes (b : Bytes) : List Bool := b.flatMap fun x => (List.range 8).map fun i => x.toNat.testBit i

/-- A byte from its first eight bits. -/
def byteOfBits (b : List Bool) : Byte :=
  BitVec.ofNat 8 (((List.range 8).map fun i => if b.getD i false then 2 ^ i else 0).sum)

/-- Bytes that hold a list of bits, padded with zero bits; `fuel` bounds the bytes. -/
def bytesOfBits : Nat → List Bool → Bytes
  | 0, _ => []
  | _, [] => []
  | n + 1, b => byteOfBits b :: bytesOfBits n (b.drop 8)

/-- The bits of a code, most significant first. -/
def codeBits (code len : Nat) : List Bool := (List.range len).map fun i => code.testBit (len - 1 - i)

/-! ## Decoding (R215 to R217) -/

/-- Details of Table 9.4. -/
def Dec.kind : Nat := 1
/-- Directory entry. -/
def Dec.directory : Nat := 2
/-- Segment header. -/
def Dec.header : Nat := 3
/-- Block offsets. -/
def Dec.offsets : Nat := 4
/-- Table. -/
def Dec.table : Nat := 5
/-- Code not in the table. -/
def Dec.code : Nat := 6
/-- Substreams. -/
def Dec.stream : Nat := 7
/-- Raw block, or a rsvd bit of a block header. -/
def Dec.raw : Nat := 8
/-- Write to a raw view. -/
def Dec.write : Nat := 9

/-- One symbol: the levels of the canonical code are tried from the shortest. -/
def decodeSym : List (List Nat) → Nat → Nat → List Bool → Except Nat (Nat × List Bool)
  | [], _, _, _ => .error Dec.code
  | _, _, _, [] => .error Dec.stream
  | ss :: t, code, first, b :: bs =>
    let code := 2 * code + b2n b
    if code < first + ss.length ∧ first ≤ code then .ok (ss.getD (code - first) 0, bs)
    else decodeSym t code (2 * (first + ss.length)) bs

/-- `n` symbols and the bits that remain. -/
def decodeSyms (ss : List (List Nat)) : Nat → List Bool → Except Nat (List Nat × List Bool)
  | 0, bs => .ok ([], bs)
  | n + 1, bs => do
    let (s, rest) ← decodeSym ss 0 0 bs
    let (t, rest) ← decodeSyms ss n rest
    return (s :: t, rest)

/-- A substream of 512 codes; `last` admits fewer than 16 zero bytes after it (log entry 23). -/
def decodeStream (ss : List (List Nat)) (pad : Bool) (b : Bytes) : Except Nat (List Nat) := do
  let (xs, rest) ← decodeSyms ss 512 (bitsOfBytes b)
  if rest.any (·) ∨ (if pad then 128 else 8) ≤ rest.length then .error Dec.stream else return xs

/-- The substreams of a coded block, given the lengths of the first seven. -/
def decodeStreams (ss : List (List Nat)) (pad : Bool) : List Nat → Bytes → Except Nat (List (List Nat))
  | [], b => do return [← decodeStream ss pad b]
  | l :: t, b =>
    if b.length < l then .error Dec.stream
    else do
      let x ← decodeStream ss false (b.take l)
      let r ← decodeStreams ss pad t (b.drop l)
      return x :: r

/-- The raw bytes of a block: the stored block and the segment table, if any. `last` is the segment's last block, behind which no
alignment puts zeros. -/
def decodeBlock (segTable : Option (List Nat)) (last : Bool) (b : Bytes) : Except Nat Bytes :=
  let h := fieldAt b 0 1
  let table := bitsOf h 1 3
  if bitOf h 0 then
    if b.length ≠ 4112 ∨ h / 16 ≠ 0 ∨ !allZero (slice b 1 15) then .error Dec.raw else .ok (slice b 16 4096)
  else if b.length < 16 then .error Dec.stream
  else if h / 16 ≠ 0 ∨ fieldAt b 1 1 ≠ 0 then .error Dec.raw
  else
    match (if table = 0 then segTable else if table ≤ 4 then some (houseTable table) else none) with
    | none => .error Dec.table
    | some ls =>
      if !tableValid ls then .error Dec.table
      else do
        let xs ← decodeStreams (symbolsByLength ls) (!last) ((List.range 7).map fun i => fieldAt b (2 + 2 * i) 2) (b.drop 16)
        return (List.range 4096).map fun k => BitVec.ofNat 8 ((xs.getD (k % 8) []).getD (k / 8) 0)

/-- Bytes of a segment header. -/
def segHeaderBytes : Nat := 64

/-- A segment header is right; `blocks` is the count that the view gives, none where only the bound holds (Table 9.3). -/
def segHeaderOk (h : Bytes) (blocks : Option Nat) : Bool :=
  let n := fieldAt h 4 2
  fieldAt h 0 2 == 0x4753 && fieldAt h 2 1 == 1 && fieldAt h 3 1 < 2 && fieldAt h 6 2 == 0 && allZero (slice h 12 52) &&
  decide (1 ≤ n ∧ n ≤ 256) && (match blocks with | none => true | some k => n == k) &&
  decide (segHeaderBytes + 128 * fieldAt h 3 1 + 4 * n ≤ fieldAt h 8 4)

/-- The end of the offset array of a segment. -/
def segArrayEnd (h : Bytes) : Nat := segHeaderBytes + 128 * fieldAt h 3 1 + 4 * fieldAt h 4 2

/-- The place of block `k`: its offset and length, from the offset array. -/
def blockPlace (h offs : Bytes) (k : Nat) : Except Nat (Nat × Nat) :=
  let n := fieldAt h 4 2
  let a := fieldAt offs (4 * k) 4
  let e := if k + 1 < n then fieldAt offs (4 * (k + 1)) 4 else fieldAt h 8 4
  if a % 16 ≠ 0 ∨ (k + 1 < n ∧ e % 16 ≠ 0) ∨ a < segArrayEnd h ∨ e ≤ a ∨ fieldAt h 8 4 < e then .error Dec.offsets
  else .ok (a, e - a)

/-- The blocks of a segment whose bytes are at hand. -/
def decodeSegment (b : Bytes) : Except Nat Bytes :=
  if !segHeaderOk (b.take 64) none ∨ b.length < fieldAt b 8 4 then .error Dec.header
  else
    let offs := b.drop (segHeaderBytes + 128 * fieldAt b 3 1)
    let table := if fieldAt b 3 1 = 1 then some (tableLengths (b.drop 64)) else none
    (List.range (fieldAt b 4 2)).foldlM (fun acc k => do
      let (a, n) ← blockPlace (b.take 64) offs k
      let x ← decodeBlock table (k + 1 == fieldAt b 4 2) (slice b a n)
      return acc ++ x) []

/-! ## Encoding (R215, R218, R220) -/

/-- The body of a block under a table, with the lengths of its substreams; none when a byte has no code. -/
def encodeBody (ls : List Nat) (raw : Bytes) : Option (List Bytes) :=
  let codes := canonCodes ls
  if raw.all fun x => ls.getD x.toNat 0 != 0 then
    some ((List.range 8).map fun i =>
      let bits := (List.range 512).flatMap fun m =>
        match codes.find? (·.1 == ((raw.getD (8 * m + i) 0).toNat)) with
        | some (_, c, l) => codeBits c l
        | none => []
      bytesOfBits (bits.length / 8 + 1) bits)
  else none

/-- A coded block: header with table number and substream lengths, then the substreams. -/
def codedBlock (table : Nat) (xs : List Bytes) : Bytes :=
  leBytes 1 (2 * table) ++ [0] ++ ((List.range 7).flatMap fun i => leBytes 2 (xs.getD i []).length) ++ xs.flatten

/-- A raw block. -/
def rawBlock (raw : Bytes) : Bytes := leBytes 1 1 ++ zeros 15 ++ raw

/-- A block under the given tables (number, lengths): the smallest result, ties to the lower number, raw when it does not
shrink enough (R218, R220). -/
def encodeBlock (tables : List (Nat × List Nat)) (threshold : Nat) (raw : Bytes) : Bytes :=
  let best := tables.foldl (fun b (n, ls) => match encodeBody ls raw with
    | none => b
    | some xs =>
      let c := codedBlock n xs
      match b with
      | none => some c
      | some o => if c.length < o.length then some c else some o) (none : Option Bytes)
  match best with
  | none => rawBlock raw
  | some c => if c.length * 1000 ≤ 4096 * (1000 - threshold) then c else rawBlock raw

/-- The lengths that a proof pass gives a segment (log entry 24). -/
def proofTable (raw : Bytes) : List Nat :=
  let counts := (List.range 256).map fun x => raw.count (BitVec.ofNat 8 x)
  let ls := Config.proofLengths counts
  if ls.length = 256 ∧ tableValid ls ∧ (List.range 256).all fun x => counts.getD x 0 == 0 || ls.getD x 0 != 0 then ls
  else List.replicate 256 8

/-- Blocks laid one after another from an offset: the offsets, and the bytes with each block but the last padded to 16. -/
def layBlocks : Nat → List Bytes → List Nat × Bytes
  | _, [] => ([], [])
  | off, [b] => ([off], b)
  | off, b :: t =>
    let n := alignUp b.length 16
    let (os, rest) := layBlocks (off + n) t
    (off :: os, padTo n b ++ rest)

/-- The stored form of one segment of raw bytes (R214, R218). -/
def encodeSegment (house : Bool) (threshold : Nat) (raw : Bytes) : Bytes :=
  let n := raw.length / 4096
  let own := proofTable raw
  let tables := if house then (List.range 4).map fun t => (t + 1, houseTable (t + 1)) else [(0, own)]
  let blocks := (List.range n).map fun k => encodeBlock tables threshold (slice raw (4096 * k) 4096)
  let head := segHeaderBytes + (if house then 0 else 128) + 4 * n
  let first := alignUp head 16
  let (offs, body) := layBlocks first blocks
  leBytes 2 0x4753 ++ [1] ++ leBytes 1 (b2n (!house)) ++ leBytes 2 n ++ leBytes 2 0 ++ leBytes 4 (first + body.length) ++ zeros 52 ++
    (if house then [] else tableBytes own) ++ offs.flatMap (leBytes 4) ++ zeros (first - head) ++ body

end Sys2Proof.Machine
end

