-- ==== Sys2Proof/Machine/Fp.lean ====
section
/-! DEFINITION. Floating-point arithmetic of the vector unit, the conventional unit and the sampling units: exact values,
rounding to the formats of Table 4.4, the functions whose accuracy the manual bounds. R97, R98, R105, R113, R114, R118,
R246, R248. -/

namespace Sys2Proof.Machine

open Sys2Proof

/-! ## Exact dyadic numbers -/

/-- The number m × 2^e. -/
structure Dy where
  m : Int
  e : Int
  deriving DecidableEq, Repr

/-- Zero. -/
def Dy.zero : Dy := ⟨0, 0⟩
/-- A whole number. -/
def Dy.ofInt (x : Int) : Dy := ⟨x, 0⟩
/-- Negation. -/
def Dy.neg (a : Dy) : Dy := ⟨-a.m, a.e⟩
/-- Absolute value. -/
def Dy.abs (a : Dy) : Dy := ⟨a.m.natAbs, a.e⟩
/-- Exact sum. -/
def Dy.add (a b : Dy) : Dy :=
  if a.m = 0 then b else if b.m = 0 then a
  else if a.e ≤ b.e then ⟨a.m + b.m * 2 ^ (b.e - a.e).toNat, a.e⟩
  else ⟨a.m * 2 ^ (a.e - b.e).toNat + b.m, b.e⟩
/-- Exact difference. -/
def Dy.sub (a b : Dy) : Dy := a.add b.neg
/-- Exact product. -/
def Dy.mul (a b : Dy) : Dy := ⟨a.m * b.m, a.e + b.e⟩
/-- a < b. -/
def Dy.lt (a b : Dy) : Bool := (a.sub b).m < 0
/-- a ≤ b. -/
def Dy.le (a b : Dy) : Bool := (a.sub b).m ≤ 0
/-- The number cut to its `p` leading bits. -/
def Dy.trim (p : Nat) (a : Dy) : Dy :=
  let n := a.m.natAbs
  let l := Nat.log2 n
  if l < p then a
  else
    let d := l + 1 - p
    ⟨if a.m < 0 then -((n >>> d : Nat) : Int) else (n >>> d : Nat), a.e + d⟩
/-- Bits kept by the functions below: enough that a rounding to FP32 is correct. -/
def workBits : Nat := 192
/-- Quotient to `workBits` bits; zero when the divisor is zero. -/
def Dy.div (a b : Dy) : Dy :=
  if b.m = 0 ∨ a.m = 0 then Dy.zero
  else
    let sh := workBits + 1 + Nat.log2 b.m.natAbs - min (workBits + Nat.log2 b.m.natAbs) (Nat.log2 a.m.natAbs)
    let q := a.m.natAbs * 2 ^ sh / b.m.natAbs
    let r := a.m.natAbs * 2 ^ sh % b.m.natAbs
    let q := 2 * q + (if r = 0 then 0 else 1)
    ⟨if (a.m < 0) = (b.m < 0) then q else -q, a.e - b.e - sh - 1⟩
/-- Whole square root of a number by binary digits. -/
def isqrtFrom : Nat → Nat → Nat → Nat
  | 0, _, r => r
  | k + 1, n, r => isqrtFrom k n (if (r + 2 ^ k) * (r + 2 ^ k) ≤ n then r + 2 ^ k else r)
/-- Square root to `workBits` bits of a number that is not negative. -/
def Dy.sqrt (a : Dy) : Dy :=
  if a.m ≤ 0 then Dy.zero
  else
    let n := a.m.toNat
    let sh0 := 2 * workBits - min (2 * workBits) (Nat.log2 n)
    let sh := if (a.e - sh0) % 2 = 0 then sh0 else sh0 + 1
    let x := n * 2 ^ sh
    let r := isqrtFrom (Nat.log2 x / 2 + 1) x 0
    ⟨2 * r + (if r * r = x then 0 else 1), (a.e - sh) / 2 - 1⟩

/-! ## Formats (Table 4.4) -/

/-- A floating-point format: exponent and mantissa bits, exponent bias. -/
structure FFmt where
  exp : Nat
  man : Nat
  bias : Nat
  deriving DecidableEq, Repr

/-- FP32. -/
def fp32 : FFmt := ⟨8, 23, 127⟩
/-- BF16. -/
def bf16 : FFmt := ⟨8, 7, 127⟩
/-- FP8 E4M3. -/
def e4m3 : FFmt := ⟨4, 3, 7⟩
/-- FP8 E5M2. -/
def e5m2 : FFmt := ⟨5, 2, 15⟩

/-- The value of a floating-point code. A zero keeps its sign. -/
inductive Fv where
  | nan
  | inf (neg : Bool)
  | fin (neg : Bool) (d : Dy)
  deriving DecidableEq, Repr

/-- The value of a code of a format; E4M3 has no infinity and one NaN code (Table 4.4). -/
def Fv.decode (f : FFmt) (x : Nat) : Fv :=
  let neg := x.testBit (f.exp + f.man)
  let e := bitsOf x f.man f.exp
  let m := x % 2 ^ f.man
  let top := 2 ^ f.exp - 1
  if f = e4m3 ∧ e = top ∧ m = 7 then .nan
  else if f ≠ e4m3 ∧ e = top then (if m = 0 then .inf neg else .nan)
  else
    let v : Int := if e = 0 then m else (2 ^ f.man + m : Nat)
    .fin neg ⟨if neg then -v else v, (if e = 0 then 1 else (e : Int)) - f.bias - f.man⟩

/-- |m| × 2^e as a multiple of 2^q, rounded to nearest, ties to even. -/
def rneShift (n : Nat) (e q : Int) : Nat :=
  if q ≤ e then n * 2 ^ (e - q).toNat
  else
    let d := 2 ^ (q - e).toNat
    let k := n / d
    let r := n % d
    if 2 * r > d ∨ (2 * r = d ∧ k % 2 = 1) then k + 1 else k

/-- Round half to even to a whole number. -/
def Dy.rne (a : Dy) : Int :=
  let k := rneShift a.m.natAbs a.e 0
  if a.m < 0 then -(k : Int) else k

/-- The canonical NaN of a format (R97). -/
def nanCode (f : FFmt) : Nat :=
  if f = e4m3 then 0x7F else (2 ^ f.exp - 1) * 2 ^ f.man + 2 ^ (f.man - 1)

/-- The code for a magnitude beyond the largest finite value: infinity, or saturation for the FP8 forms (R98). -/
def overCode (f : FFmt) : Nat :=
  if f = e4m3 then 0x7E else if f = e5m2 then 0x7B else (2 ^ f.exp - 1) * 2 ^ f.man

/-- A magnitude rounded to nearest, ties to even, into a format, without sign (R98). -/
def magCode (f : FFmt) (n : Nat) (e : Int) : Nat :=
  if n = 0 then 0
  else
    let low : Int := 1 - (f.bias : Int) - f.man
    let q := max low (e + Nat.log2 n - f.man)
    let k := rneShift n e q
    let code := k + (q - low).toNat * 2 ^ f.man
    let code := if 2 ^ (f.man + 1) ≤ k then code - k + k / 2 + 2 ^ f.man else code
    if overCode f ≤ code then overCode f else code

/-- A value rounded into a format (R97, R98). -/
def Fv.encode (f : FFmt) : Fv → Nat
  | .nan => nanCode f
  | .inf neg => if f = e4m3 then nanCode f else b2n neg * 2 ^ (f.exp + f.man) + (2 ^ f.exp - 1) * 2 ^ f.man
  | .fin neg d => b2n (if d.m = 0 then neg else d.m < 0) * 2 ^ (f.exp + f.man) + magCode f d.m.natAbs d.e

/-! ## Exact operations on values -/

/-- Sign of a value. -/
def Fv.neg? : Fv → Bool
  | .nan => false
  | .inf n => n
  | .fin n d => if d.m = 0 then n else d.m < 0

/-- Negation. -/
def Fv.negate : Fv → Fv
  | .nan => .nan
  | .inf n => .inf (!n)
  | .fin n d => .fin (!n) d.neg

/-- Exact sum; an exact zero of unlike signs is +0. -/
def Fv.add : Fv → Fv → Fv
  | .nan, _ => .nan
  | _, .nan => .nan
  | .inf a, .inf b => if a = b then .inf a else .nan
  | .inf a, .fin _ _ => .inf a
  | .fin _ _, .inf b => .inf b
  | .fin n a, .fin k b => .fin ((Fv.fin n a).neg? && (Fv.fin k b).neg?) (a.add b)

/-- Exact product. -/
def Fv.mul : Fv → Fv → Fv
  | .nan, _ => .nan
  | _, .nan => .nan
  | .inf a, .inf b => .inf (a != b)
  | .inf a, .fin n d => if d.m = 0 then .nan else .inf (a != (Fv.fin n d).neg?)
  | .fin n d, .inf b => if d.m = 0 then .nan else .inf ((Fv.fin n d).neg? != b)
  | .fin n a, .fin k b => .fin ((Fv.fin n a).neg? != (Fv.fin k b).neg?) (a.mul b)

/-- Quotient, to more bits than any format holds. -/
def Fv.div : Fv → Fv → Fv
  | .nan, _ => .nan
  | _, .nan => .nan
  | .inf _, .inf _ => .nan
  | .inf a, .fin n d => .inf (a != (Fv.fin n d).neg?)
  | .fin n d, .inf b => .fin ((Fv.fin n d).neg? != b) Dy.zero
  | .fin n a, .fin k b =>
    if b.m = 0 then (if a.m = 0 then .nan else .inf ((Fv.fin n a).neg? != (Fv.fin k b).neg?))
    else .fin ((Fv.fin n a).neg? != (Fv.fin k b).neg?) (a.div b)

/-- a < b; false when either is a NaN. Zeros are equal. -/
def Fv.lt : Fv → Fv → Bool
  | .nan, _ => false
  | _, .nan => false
  | .inf a, .inf b => a && !b
  | .inf a, .fin _ _ => a
  | .fin _ _, .inf b => !b
  | .fin _ a, .fin _ b => a.lt b

/-- Neither NaN nor infinity. -/
def Fv.isFin : Fv → Bool
  | .fin _ _ => true
  | _ => false

/-- The dyadic number of a finite value, zero otherwise. -/
def Fv.dy : Fv → Dy
  | .fin _ d => d
  | _ => Dy.zero

/-! ## FP32 operations, rounded once to nearest even -/

/-- An FP32 code. -/
abbrev F32 := BitVec 32

/-- Value of an FP32 code. -/
def f32v (x : F32) : Fv := Fv.decode fp32 x.toNat
/-- A value rounded to FP32. -/
def toF32 (v : Fv) : F32 := BitVec.ofNat 32 (v.encode fp32)
/-- A dyadic number rounded to FP32. -/
def dyF32 (d : Dy) : F32 := toF32 (.fin false d)
/-- Sum. -/
def fAdd (a b : F32) : F32 := toF32 ((f32v a).add (f32v b))
/-- Difference. -/
def fSub (a b : F32) : F32 := toF32 ((f32v a).add (f32v b).negate)
/-- Product. -/
def fMul (a b : F32) : F32 := toF32 ((f32v a).mul (f32v b))
/-- Quotient. -/
def fDiv (a b : F32) : F32 := toF32 ((f32v a).div (f32v b))
/-- a < b. -/
def fLt (a b : F32) : Bool := (f32v a).lt (f32v b)
/-- The code is finite. -/
def fFin (a : F32) : Bool := (f32v a).isFin
/-- FP32 one. -/
def fOne : F32 := 0x3F800000#32
/-- A whole number rounded to FP32. -/
def fInt (x : Int) : F32 := dyF32 (Dy.ofInt x)
/-- An FP32 code rounded to BF16 (R98). -/
def toBf16 (x : F32) : Nat := (f32v x).encode bf16
/-- A BF16 code widened exactly. -/
def ofBf16 (x : Nat) : F32 := BitVec.ofNat 32 (x % 65536 * 65536)
/-- A BF16 code widened with the canonical NaN. -/
def bf16v (x : Nat) : Fv := Fv.decode bf16 (x % 65536)

/-! ## Exponential and logarithm to `workBits` bits -/

/-- ⌊ln 2 × 2^256⌋. -/
def ln2Fix : Nat := 80260960185991308862233904206310070533990667611589946606122867505419956976171

/-- ⌊√(2/π) × 2^256⌋. -/
def sqrt2PiFix : Nat := 92388720265562225100004042351473451001048276763068025688572742865826802514525

/-- Σ r^i / i! in fixed point of 256 fraction bits: `n` more terms from term `i` with value `t`. -/
def expSeries (r : Int) : Nat → Nat → Int → Int → Int
  | 0, _, _, acc => acc
  | n + 1, i, t, acc =>
    let t := t * r / 2 ^ 256 / (i : Int)
    expSeries r n (i + 1) t (acc + t)

/-- e^x; arguments beyond ±400 are answered by numbers that round alike. -/
def Dy.exp (x : Dy) : Dy :=
  if x.m = 0 then Dy.ofInt 1
  else if Dy.lt (Dy.ofInt 400) x then ⟨1, 1000⟩
  else if Dy.lt x (Dy.ofInt (-400)) then ⟨1, -1000⟩
  else
    let fx : Int := if 0 ≤ x.e + 256 then x.m * 2 ^ (x.e + 256).toNat else x.m / 2 ^ (-(x.e + 256)).toNat
    let k := (fx + ln2Fix / 2) / (ln2Fix : Int)
    let r := fx - k * ln2Fix
    ⟨expSeries r 56 1 (2 ^ 256) (2 ^ 256), k - 256⟩

/-- Σ z^(2i+1) / (2i+1) in fixed point. -/
def atanhSeries (z2 : Int) : Nat → Nat → Int → Int → Int
  | 0, _, _, acc => acc
  | n + 1, i, t, acc =>
    let t := t * z2 / 2 ^ 256
    atanhSeries z2 n (i + 2) t (acc + t / (i : Int))

/-- ln x of a number greater than 0. -/
def Dy.ln (x : Dy) : Dy :=
  if x.m ≤ 0 then Dy.zero
  else
    let n := x.m.toNat
    let l := Nat.log2 n
    let k0 : Int := x.e + l
    let m0 := n * 2 ^ 257 / 2 ^ l
    let up := decide (3 * 2 ^ 256 ≤ m0)
    let k := if up then k0 + 1 else k0
    let m : Int := if up then ((m0 / 4 : Nat) : Int) else ((m0 / 2 : Nat) : Int)
    let z := (m - 2 ^ 256) * 2 ^ 256 / (m + 2 ^ 256)
    let a := atanhSeries (z * z / 2 ^ 256) 64 3 z z
    ⟨2 * a + k * ln2Fix, -256⟩

/-- The correctly rounded FP32 value of e^x (R248). -/
def fExp (x : F32) : F32 :=
  match f32v x with
  | .nan => 0x7FC00000#32
  | .inf true => 0#32
  | .inf false => 0x7F800000#32
  | .fin _ d => dyF32 d.exp

/-- The correctly rounded FP32 value of ln x (R249). -/
def fLn (x : F32) : F32 :=
  match f32v x with
  | .nan => 0x7FC00000#32
  | .inf true => 0x7FC00000#32
  | .inf false => 0x7F800000#32
  | .fin _ d => if d.m = 0 then 0xFF800000#32 else if d.m < 0 then 0x7FC00000#32 else dyF32 d.ln

/-! ## Results whose accuracy is bounded (Tables 5.5 and 5.6; log entry 4) -/

/-- The weight of the last place of the FP32 code of a number. -/
def ulp32 (d : Dy) : Dy :=
  if d.m = 0 then ⟨1, -149⟩ else ⟨1, max (-149) (d.e + Nat.log2 d.m.natAbs - 23)⟩

/-- A result within `tol` of the exact number: the implementation's own choice where it keeps to the bound, the correctly
rounded result otherwise. -/
def bounded (op : Nat) (args : List F32) (exact tol : Dy) : F32 :=
  let c := dyF32 exact
  let v := Config.vecCandidate op args
  match f32v v, f32v c with
  | .fin _ a, .fin _ _ => if Dy.le (a.sub exact).abs tol then v else c
  | _, _ => c

/-- A result within `k` units in the last place. -/
def boundedUlp (op k : Nat) (args : List F32) (exact : Dy) : F32 :=
  bounded op args exact ((ulp32 (f32v (dyF32 exact)).dy).mul (Dy.ofInt k))

/-! ## Draws (R114, R246) -/

/-- fmix64 (R114). -/
def fmix64 (x : Word) : Word :=
  let x := x ^^^ (x >>> 33)
  let x := x * 0xFF51AFD7ED558CCD#64
  let x := x ^^^ (x >>> 33)
  let x := x * 0xC4CEB9FE1A85EC53#64
  x ^^^ (x >>> 33)

/-- The draw of a stochastic-rounding lane (R114). -/
def srDraw (seed : BitVec 32) (ctr : Word) : BitVec 32 :=
  let key := fmix64 (seed.setWidth 64 * 0x9E3779B97F4A7C15#64)
  ((fmix64 (ctr ^^^ key)) >>> 32).setWidth 32

/-- The uniform draw of a request at a token position (R246), as an exact FP32 value. -/
def smpUniform (seed : Word) (q : Nat) : F32 :=
  let key := fmix64 (seed ^^^ 0x5851F42D4C957F2D#64)
  let x := fmix64 (key ^^^ (BitVec.ofNat 64 q <<< 20))
  dyF32 ⟨((x >>> 40).toNat : Int), -24⟩

/-- Stochastic rounding of an exact value to BF16 with a draw (R113). -/
def srRound (v : Fv) (draw : BitVec 32) : Nat :=
  match v with
  | .nan => 0x7FC0
  | .inf n => (Fv.inf n).encode bf16
  | .fin n d =>
    if d.m = 0 then (Fv.fin n d).encode bf16
    else
      let q := max (-133) (d.e + Nat.log2 d.m.natAbs - 7)
      if q ≤ d.e then (Fv.fin n d).encode bf16
      else
        let sh := (q - d.e).toNat
        let lo := d.m.natAbs / 2 ^ sh
        let f := d.m.natAbs % 2 ^ sh * 65536 / 2 ^ sh
        let k := if 65536 ≤ f + (draw >>> 16).toNat then lo + 1 else lo
        b2n (d.m < 0) * 32768 + magCode bf16 k q

end Sys2Proof.Machine
end

