-- ==== Sys2Proof/Machine/Formats.lean ====
section
/-! DEFINITION. Packed operands bit for bit: ternary, shift and table-mode weights, integer activations, and the sparse forms.
R46, R47, R80 to R85, R91, R92, R130 to R133, R137, R139, R151. -/

namespace Sys2Proof.Machine

open Sys2Proof

/-! ## Raw weights (R47, R80 to R85) -/

/-- The first `n` digits of a T5B byte as trits. -/
def tritsOf (n x : Nat) : List Int := (List.range n).map fun i => ((x / 3 ^ i % 3 : Nat) : Int) - 1

/-- The 4,096 trits of a T5B tile; none when a byte is reserved (R80, R81). -/
def t5bTile (b : Bytes) : Option (List Int) :=
  if (b.take 820).any fun x => 242 < x.toNat then none else some (((b.take 820).flatMap fun x => tritsOf 5 x.toNat).take 4096)

/-- Value of an S1 nibble; none for 0xF (R83). -/
def s1Of (x : Nat) : Option Int :=
  if x % 16 = 15 then none else if x % 16 = 7 then some 0
  else some (if 8 ≤ x % 16 then -(2 ^ (x % 8) : Nat) else (2 ^ (x % 8) : Nat))

/-- Value of an S2 byte (R84). -/
def s2Of (x : Nat) : Option Int :=
  match s1Of (x / 16), s1Of (x % 16) with
  | some a, some b => some (a + b)
  | _, _ => none

/-- The 4,096 weights of an S1 tile. -/
def s1Tile (b : Bytes) : Option (List Int) := ((b.take 2048).flatMap fun x => [x.toNat % 16, x.toNat / 16]).mapM s1Of

/-- The 4,096 weights of an S2 tile. -/
def s2Tile (b : Bytes) : Option (List Int) := (b.take 4096).mapM fun x => s2Of x.toNat

/-- The four trits of a group code (R47); none for a reserved code. -/
def groupCode (x : Nat) : Option (List Int) :=
  let i := x % 64
  if 40 < i ∨ x % 128 = 0x40 then none else some (tritsOf 4 (if 64 ≤ x % 128 then 40 - i else 40 + i))

/-- The 64 × 128 trits of a table-mode code tile (R85). -/
def tableTile (b : Bytes) : Option (List Int) :=
  let x := leNat (b.take 1792)
  ((List.range 2048).mapM fun c => groupCode (bitsOf x (7 * c) 7)).map List.flatten

/-- Bytes of a raw weight tile of an opcode (R86). -/
def tileBytes (op : Nat) : Nat :=
  match op with
  | 2 => 2048
  | 3 => 4096
  | 4 => 1792
  | _ => 820

/-- The weights of a raw tile of an opcode, row by row. -/
def rawTile (op : Nat) (b : Bytes) : Option (List Int) :=
  match op with
  | 2 => s1Tile b
  | 3 => s2Tile b
  | 4 => tableTile b
  | _ => t5bTile b

/-- A list cut into rows. -/
def rowsOf (width : Nat) (xs : List Int) : List (List Int) := chunksOf width (xs.length / width + 1) xs

/-- Columns of a matrix of `width` columns as rows. -/
def transposeOf (width : Nat) (rows : List (List Int)) : List (List Int) := (List.range width).map fun j => rows.map (·.getD j 0)

/-- Five trits as a T5B byte; missing trits are 0 (R80, R81). -/
def t5bByte (ts : List Int) : Byte :=
  BitVec.ofNat 8 (((List.range 5).map fun i => (ts.getD i 0 + 1).toNat * 3 ^ i).sum)

/-- A tile of 4,096 trits as its 820 bytes. -/
def t5bPack (ts : List Int) : Bytes := (chunksOf 5 820 ts).map t5bByte

/-! ## Integer activations (Table 4.3) -/

/-- Bits of an element of an integer format, by the codes of Table 3.5: 0 A8, 1 A4, 2 A2, 3 A16. -/
def actBits (f : Nat) : Nat :=
  match f with
  | 1 => 4
  | 2 => 2
  | 3 => 16
  | _ => 8

/-- Largest value of an integer format. -/
def actMax (f : Nat) : Nat := 2 ^ (actBits f - 1) - 1

/-- An element; none for the saturation marker (R91). -/
def actOf (f x : Nat) : Option Int :=
  if x % 2 ^ actBits f = 2 ^ (actBits f - 1) then none else some (signedOf (actBits f) x)

/-- The code of an element. -/
def actCode (f : Nat) : Option Int → Nat
  | none => 2 ^ (actBits f - 1)
  | some v => twosOf (actBits f) v

/-- The elements of packed bytes, lowest bits first. -/
def actUnpack (f : Nat) (b : Bytes) : List (Option Int) :=
  if f = 3 then (List.range (b.length / 2)).map fun i => actOf 3 (fieldAt b (2 * i) 2)
  else b.flatMap fun x => (List.range (8 / actBits f)).map fun i => actOf f (bitsOf x.toNat (actBits f * i) (actBits f))

/-- Elements packed into bytes. Bits of the last byte that no element fills are 0 (log entry 39). -/
def actPack (f : Nat) (xs : List (Option Int)) : Bytes :=
  if f = 3 then xs.flatMap fun x => leBytes 2 (actCode 3 x)
  else (chunksOf (8 / actBits f) (xs.length + 1) xs).map fun g =>
    BitVec.ofNat 8 ((g.zipIdx.map fun (x, i) => actCode f x * 2 ^ (actBits f * i)).sum)

/-- Bytes of a column of `k` elements, rounded up to lines (R93). -/
def actPitch (f k : Nat) : Nat := alignUp (ceilDiv (k * actBits f) 8) 64

/-- A real value quantized with scale 1: rounded half to even and clamped; a value that is not finite gives the marker (R125). -/
def quantUnit (f : Nat) : Fv → Option Int
  | .fin _ d => some (max (-(actMax f : Int)) (min (actMax f : Int) d.rne))
  | _ => none

/-! ## Sparse weights (R130 to R133, R151) -/

/-- An index entry taken apart: format, length and body offset (R130). -/
def indexEntry (b : Bytes) : Nat × Nat × Nat := (fieldAt b 0 8 / 2 ^ 60, bitsOf (fieldAt b 0 8) 48 12, fieldAt b 0 8 % 2 ^ 48)

/-- An index entry. -/
def indexBytes (fmt len off : Nat) : Bytes := leBytes 8 (fmt * 2 ^ 60 + len * 2 ^ 48 + off % 2 ^ 48)

/-- A weight tile's index entry is valid: a detail of Table 6.8 otherwise. -/
def weightIndexOk (formats fmt len : Nat) : Except Nat Unit :=
  match fmt with
  | 0 => if len = 0 ∨ len = 820 then .ok () else .error 2
  | 1 => if !bitOf formats 0 then .error 1 else if 5 ≤ len ∧ len ≤ 2060 then .ok () else .error 2
  | 2 => if !bitOf formats 2 then .error 1 else if len = 640 then .ok () else .error 2
  | 3 => if !bitOf formats 3 then .error 1 else if len = 736 then .ok () else .error 2
  | _ => .error 1

/-- The 256 trits of one WZR block from its codes: the trits before come last first, `nz` says that one was non-zero. -/
def wzrBlock : List Nat → List Int → Bool → Except Nat (List Int × List Nat)
  | [], _, _ => .error 4
  | c :: t, acc, nz =>
    if c = 15 then (if nz then .ok (acc.reverse ++ List.replicate (256 - acc.length) 0, t) else .error 4)
    else if c = 14 then (if 256 < acc.length + 7 then .error 3 else wzrBlock t (List.replicate 7 0 ++ acc) nz)
    else
      let r := if c < 7 then c else c - 7
      if 256 ≤ acc.length + r then .error 3
      else wzrBlock t ((if c < 7 then 1 else -1) :: (List.replicate r 0 ++ acc)) true

/-- The blocks of a WZR tile in order. -/
def wzrBlocks (bitmap : Nat) : List Nat → List Nat → Except Nat (List Int × List Nat)
  | [], codes => .ok ([], codes)
  | i :: is, codes =>
    if bitOf bitmap i then
      match wzrBlock codes [] false with
      | .error e => .error e
      | .ok (ts, rest) => match wzrBlocks bitmap is rest with
        | .error e => .error e
        | .ok (us, rest) => .ok (ts ++ us, rest)
    else match wzrBlocks bitmap is codes with
      | .error e => .error e
      | .ok (us, rest) => .ok (List.replicate 256 0 ++ us, rest)

/-- The trits of a WZR tile (R131). -/
def wzrTile (b : Bytes) : Except Nat (List Int) :=
  if fieldAt b 2 2 ≠ 0 then .error 0x0C
  else match wzrBlocks (fieldAt b 0 2) (List.range 16) ((b.drop 4).flatMap fun x => [x.toNat % 16, x.toNat / 16]) with
    | .error e => .error e
    | .ok (ts, rest) => if rest.length ≤ 1 then .ok ts else .error 4

/-- Entries of a sparse group name strictly ascending positions. -/
def ascending : List Nat → Bool
  | a :: b :: t => decide (a < b) && ascending (b :: t)
  | _ => true

/-- One group of `w` trits: its entries as (position, sign), of which the first `count` count (R132, R133). -/
def sparseGroup (w most count : Nat) (entries : List (Nat × Bool)) : Except Nat (List Int) :=
  if most < count then .error 5
  else
    let es := entries.take count
    if !ascending (es.map (·.1)) then .error 6
    else .ok ((List.range w).map fun p => match es.find? (·.1 == p) with
      | some (_, neg) => if neg then -1 else 1
      | none => 0)

/-- The trits of a G2/8 tile (R132). -/
def g28Tile (b : Bytes) : Except Nat (List Int) :=
  let x := leNat b
  ((List.range 512).mapM fun j =>
    let g := bitsOf x (10 * j) 10
    sparseGroup 8 2 (g % 4) [(bitsOf g 2 3, bitOf g 5), (bitsOf g 6 3, bitOf g 9)]).map List.flatten

/-- The trits of a G4/16 tile (R133). -/
def g416Tile (b : Bytes) : Except Nat (List Int) :=
  let x := leNat b
  ((List.range 256).mapM fun j =>
    let g := bitsOf x (23 * j) 23
    sparseGroup 16 4 (g % 8) ((List.range 4).map fun e => (bitsOf g (3 + 5 * e) 4, bitOf g (7 + 5 * e)))).map List.flatten

/-! ## Sparse activations (R137, R139) -/

/-- An activation block's index entry is valid. -/
def actIndexOk (formats fmt len : Nat) : Except Nat Unit :=
  match fmt with
  | 0 => if len = 256 then .ok () else .error 2
  | 1 => if !bitOf formats 1 then .error 1 else if 3 ≤ len ∧ len ≤ 386 then .ok () else .error 2
  | 2 => if len = 0 then .ok () else .error 2
  | _ => .error 1

/-- The symbols of an AZR stream of `total` bits from bit `at_`: `left` values are to come, `acc` holds the codes so far,
last first. Answers the codes and the bits consumed. -/
def azrStream (x total : Nat) : Nat → Nat → Nat → List Nat → Except Nat (List Nat × Nat)
  | 0, _, _, _ => .error 7
  | fuel + 1, at_, left, acc =>
    if left = 0 then .ok (acc.reverse ++ List.replicate (256 - acc.length) 0, at_)
    else if total < at_ + 4 then .error 7
    else
      let r := bitsOf x at_ 4
      if r = 15 then (if 256 < acc.length + 15 then .error 7 else azrStream x total fuel (at_ + 4) left (List.replicate 15 0 ++ acc))
      else if total < at_ + 12 ∨ 255 < acc.length + r then .error 7
      else
        let v := bitsOf x (at_ + 4) 8
        if v = 0 then .error 7 else azrStream x total fuel (at_ + 12) (left - 1) (v :: (List.replicate r 0 ++ acc))

/-- The 256 codes of an AZR body (R137). -/
def azrBlock (b : Bytes) : Except Nat (List Nat) :=
  let h := fieldAt b 0 2
  if h / 512 ≠ 0 then .error 0x0C
  else match azrStream (leNat (b.drop 2)) (8 * (b.length - 2)) (4 * b.length) 0 (h % 512) [] with
    | .error e => .error e
    | .ok (cs, n) => if h % 512 ≠ 0 ∧ 2 + ceilDiv n 8 = b.length then .ok cs else .error 7

/-- Bits of the symbols of 256 codes, after `z` zeros. -/
def azrBits : List Nat → Nat → List Bool
  | [], _ => []
  | v :: t, z =>
    if v = 0 then azrBits t (z + 1)
    else (List.range (z / 15)).flatMap (fun _ => [true, true, true, true]) ++
      (List.range 4).map (fun i => (z % 15).testBit i) ++ (List.range 8).map (fun i => v.testBit i) ++ azrBits t 0

/-- The AZR body of 256 codes. -/
def azrEncode (codes : List Nat) : Bytes :=
  let bits := azrBits codes 0
  leBytes 2 (codes.filter (· != 0)).length ++ bytesOfBits (bits.length / 8 + 1) bits

end Sys2Proof.Machine
end

