-- ==== Sys2Proof/Machine/Compress.lean ====
section
/-! DEFINITION. Raw views, their region tables and caches, packer jobs, and the CMP_ log. R211 to R227. -/

namespace Sys2Proof.Machine

open Sys2Proof

/-! ## The error log (R217, R227) -/

/-- A decode error is logged while fewer than 32 entries stand: source 0 expander, 1 link expander, 2 packer. -/
def logCmp (va c source unit detail tag : Nat) : Act := fun s =>
  if s.cmpErrs.length < 32 then
    [.cmpErrs fun l => l ++ [(va % 2 ^ 57, c * 2 ^ 60 + source * 2 ^ 56 + unit * 2 ^ 48 + detail * 2 ^ 40 + tag % 65536)]]
  else []

/-! ## House tables (R218) -/

/-- A weight repair is in progress. -/
def State.repairing (s : State) : Bool := s.flt.repairs.any fun r => r.state != .stuck

/-- House tables are in force for a context's packing, given a job's flag. -/
def State.houseTables (s : State) (c : Nat) (flag : Bool) : Bool :=
  s.flag Fld.cmpStatusHouseStartup || s.basic || s.repairing || s.flag Fld.cmpCtrlHouseOnly || (s.image c).comp.houseOnly || flag

/-! ## Raw views (R213, R214) -/

/-- Bytes of a region or directory entry, given what memory holds: a cached entry may still stand (log entry 35). -/
def State.cmpSeen (s : State) (die c a : Nat) (m : Bytes) : Bytes :=
  match s.cmpCache.find? (fun e => e.die == die && e.ctx == c && e.addr == a) with
  | some e => if e.data ≠ m ∧ Config.cacheKept c a s.free then e.data else m
  | none => m

/-- An entry read by the engines of a die is cached there. -/
def cmpFill (die c a : Nat) (m : Bytes) : Upd :=
  .cmpCache fun l => l.filter (fun e => !(e.die == die && e.ctx == c && e.addr == a)) ++ [⟨die, c, a, m⟩]

/-- Entry `i` of the region table of a context: its address and its bytes as a die sees them. -/
def State.regionEntry (s : State) (die c i : Nat) : Nat × Bytes :=
  let a := s.fget (Fld.cmpRgnBase c) * 64 + 32 * i
  (a, s.cmpSeen die c a (s.devBytes a 32))

/-- A raw view: a region entry taken apart. -/
structure View where
  base : Nat
  len : Nat
  dir : Nat
  kind : Nat
  seg : Nat
  deriving DecidableEq, Repr

/-- The fields of Table 9.2. -/
def viewOf (e : Bytes) : View :=
  ⟨fieldAt e 0 8 % 2 ^ 57, fieldAt e 8 8, fieldAt e 16 8 % 2 ^ 57, fieldAt e 24 1, fieldAt e 25 1⟩

/-- The lowest-numbered entry that covers an address, with the place of its bytes. -/
def State.viewAt (s : State) (die c va : Nat) : Option (Nat × Bytes) :=
  ((List.range (s.fget (Fld.cmpRgnCount c))).map (s.regionEntry die c)).find? fun (_, e) =>
    decide ((viewOf e).base ≤ va ∧ va < (viewOf e).base + (viewOf e).len)

/-- The first piece of a range that lies in a raw view: such a range cannot be written (R213). -/
def State.viewMet (s : State) (die c va len : Nat) : Option Nat :=
  ((pieces 4096 (len / 4096 + 2) va len).find? fun (a, _) => (s.viewAt die c a).isSome).map (·.1)

/-- Why a block cannot be delivered: a stop of its accesses, or a detail of Table 9.4. -/
inductive BlockStop where
  | access (e : Stop)
  | format (detail : Nat)
  deriving DecidableEq, Repr

/-- A read on the way to a block. -/
def State.blockRead (s : State) (ag : Agent) (va n : Nat) : Except BlockStop Bytes :=
  match s.readVa ag va n with
  | .error e => .error (.access e)
  | .ok b => .ok b

/-- A check on the way to a block. -/
def fmtNeed (c : Bool) (detail : Nat) : Except BlockStop Unit := if c then .ok () else .error (.format detail)

/-- The 4,096 raw bytes of the block at `va` of a view, decoded from its stored form, which lies wherever a leaf lets the
agent read (R214 to R217, log entry 35). -/
def State.viewBlock (s : State) (die : Nat) (ag : Agent) (v : View) (va : Nat) : Except BlockStop Bytes := do
  fmtNeed (v.kind ≤ 2 && bitOf (s.image ag.ctx).comp.streams v.kind && 12 ≤ v.seg && v.seg ≤ 20 && v.base % 2 ^ v.seg == 0) Dec.kind
  let off := va - v.base
  let i := off / 2 ^ v.seg
  let k := off % 2 ^ v.seg / 4096
  let blocks := min (2 ^ v.seg) (v.len - i * 2 ^ v.seg) / 4096
  let a := v.dir + 8 * i
  let d := leNat (s.cmpSeen die ag.ctx a (← s.blockRead ag a 8))
  fmtNeed (v.dir % 8 == 0 && d < 2 ^ 57 && d % 64 == 0) Dec.directory
  let h ← s.blockRead ag d segHeaderBytes
  fmtNeed (segHeaderOk h (some blocks)) Dec.header
  let two := if k + 1 < blocks then 8 else 4
  let offs ← s.blockRead ag (segArrayEnd h - 4 * blocks + d + 4 * k) two
  let (o, n) ← match blockPlace h (zeros (4 * k) ++ offs) k with
    | .error e => .error (.format e)
    | .ok p => .ok p
  let t ← if bitOf (fieldAt h 3 1) 0 then (do .ok (some (tableLengths (← s.blockRead ag (d + 64) 128)))) else .ok none
  let b ← s.blockRead ag (d + o) n
  match decodeBlock t (k + 1 == blocks) b with
  | .error e => .error (.format e)
  | .ok r => .ok r

/-- What a look-up of a block leaves in a die's caches: its region entry and its directory entry. -/
def noteView (die : Nat) (ag : Agent) (va : Nat) : Act := fun s =>
  match s.viewAt die ag.ctx va with
  | none => []
  | some (a, e) =>
    let v := viewOf e
    let d := v.dir + 8 * ((va - v.base) / 2 ^ v.seg)
    seqA [noteDev ag.memCode a 32, act [cmpFill die ag.ctx a e], noteWalks ag d 8 0,
      match s.readVa ag d 8 with
      | .ok b => act [cmpFill die ag.ctx d (s.cmpSeen die ag.ctx d b)]
      | .error _ => nothing] s

/-- What the reads of a block's segment leave: its header, its code table, its place, and its bytes as far as the block's place can be
read (R183, R202). -/
def noteSegment (die : Nat) (ag : Agent) (v : View) (va : Nat) : Act := fun s =>
  let a := v.dir + 8 * ((va - v.base) / 2 ^ v.seg)
  match s.readVa ag a 8 with
  | .error _ => []
  | .ok b =>
    let d := leNat (s.cmpSeen die ag.ctx a b) % 2 ^ 57
    seqA [noteWalks ag d segHeaderBytes 0, match s.readVa ag d segHeaderBytes with
      | .error _ => nothing
      | .ok h =>
        let k := (va - v.base) % 2 ^ v.seg / 4096
        let blocks := fieldAt h 4 2
        let at_ := segArrayEnd h - 4 * blocks + d
        let n := if k + 1 < blocks then 8 else 4
        seqA [noteWalks ag (at_ + 4 * k) n 0, match s.readVa ag (at_ + 4 * k) n with
          | .error _ => nothing
          | .ok offs => seqA [if bitOf (fieldAt h 3 1) 0 then noteWalks ag (d + 64) 128 0 else nothing,
              match blockPlace h (zeros (4 * k) ++ offs) k with
              | .error _ => nothing
              | .ok (o, len) => noteWalks ag (d + o) len 0]]] s

/-! ## Packer jobs (R221, R222) -/

/-- Status codes of Table 9.7. -/
def Pk.ok : Nat := 0
/-- BAD_DESC. -/
def Pk.badDesc : Nat := 1
/-- TRANSLATION. -/
def Pk.translation : Nat := 2
/-- POISON. -/
def Pk.poison : Nat := 3
/-- STREAM_OFF. -/
def Pk.streamOff : Nat := 4
/-- FORMAT. -/
def Pk.format : Nat := 5

/-- A packer's completion record (Table 9.7). -/
def packRecord (d : Bytes) (status : Nat) (house : Bool) (coded : Nat) : Bytes :=
  slice d 4 4 ++ leBytes 1 status ++ leBytes 1 (b2n house) ++ zeros 2 ++ leBytes 8 (if status = Pk.ok then coded else 0)

/-- The next job descriptor. Packers are stopped in BASIC mode (Table 16.8). -/
def State.nextJob (s : State) : Option Bytes := if s.basic then none else s.nextDesc packPlace s.packs.length

/-- The fields of a descriptor that Table 9.6 fixes. -/
def State.jobOk (s : State) (d : Bytes) : Bool :=
  let va := fieldAt d 8 8
  let n := fieldAt d 0x18 4
  fieldAt d 1 1 < 8 && bitsOf (fieldAt d 1 1) 1 2 != 3 && fieldAt d 2 1 < 16 && s.ctxLive (fieldAt d 2 1) && fieldAt d 3 1 == 0 &&
  va < 2 ^ 57 && va % 4096 == 0 && fieldAt d 16 8 < 2 ^ 57 && fieldAt d 16 8 % 64 == 0 && 1 ≤ n && n ≤ 262144 && fieldAt d 0x1C 4 == 0

/-- The context's streams accept the job's kind of data (R212). -/
def State.streamOn (s : State) (d : Bytes) : Bool := bitOf (s.image (fieldAt d 2 1)).comp.streams (bitsOf (fieldAt d 1 1) 1 2)

/-- A job of a kind is taken: it is in flight, or ends at once. -/
def takeJob (kind : Nat) : Act := seqA [demand 14, fun s =>
  match s.nextJob with
  | none => []
  | some d =>
    if fieldAt d 0 1 ≠ kind then []
    else if !s.jobOk d then seqA [takeDesc packPlace, writeCpl packPlace (packRecord d Pk.badDesc false 0)] s
    else if !s.streamOn d then seqA [takeDesc packPlace, writeCpl packPlace (packRecord d Pk.streamOff false 0)] s
    else seqA [takeDesc packPlace, act [.packs fun l => l ++ [⟨s.packNext, d, []⟩], .packNext]] s]

/-- A job of a kind that is neither PACK nor UNPACK. -/
def takeBadJob : Act := seqA [demand 14, fun s =>
  match s.nextJob with
  | none => []
  | some d =>
    if fieldAt d 0 1 = 1 ∨ fieldAt d 0 1 = 2 then []
    else seqA [takeDesc packPlace, writeCpl packPlace (packRecord d Pk.badDesc false 0)] s]

/-- The packers as an agent: XLT_FAULT_LOG1 has no code for them, and their faults are counted alone (log entry 35). -/
def packAgent (c : Nat) : Agent := { code := 15, ctx := c }

/-- The bytes that a PACK job writes at `dst`: directory, then segments on 64-byte boundaries. -/
def packImage (house : Bool) (threshold segLog2 dst : Nat) (raw : Bytes) : Bytes :=
  let segs := chunksOf (2 ^ segLog2) (raw.length / 2 ^ segLog2 + 1) raw
  let start := alignUp (8 * segs.length) 64
  let (offs, body) := segs.foldl (fun (os, b) g =>
      let b := padTo (alignUp b.length 64) b
      (os ++ [dst + start + b.length], b ++ encodeSegment house threshold g)) (([] : List Nat), ([] : Bytes))
  padTo start (offs.flatMap (leBytes 8)) ++ body

/-- Blocks of a stored segment that are coded and that are raw. -/
def segCounts (b : Bytes) : Nat × Nat :=
  let n := fieldAt b 4 2
  let raws := ((List.range n).filter fun k => bitOf (fieldAt b (fieldAt b (segArrayEnd b - 4 * n + 4 * k) 4) 1) 0).length
  (n - raws, raws)

/-- Blocks of a packed image that are coded and that are raw: the numbers CMP_CNT_BLOCKS counts. -/
def packCounts (house : Bool) (threshold : Nat) (raw : Bytes) (segLog2 : Nat) : Nat × Nat :=
  let ks := (chunksOf (2 ^ segLog2) (raw.length / 2 ^ segLog2 + 1) raw).map fun g => segCounts (encodeSegment house threshold g)
  ((ks.map (·.1)).sum, (ks.map (·.2)).sum)

/-- CMP_CNT_BLOCKS counts blocks that the packers write: coded, then raw (R227). -/
def countBlocks (k : Nat × Nat) : Act := seqA [profile Fld.cmpCntBlocksCoded k.1, profile Fld.cmpCntBlocksRaw k.2]

/-- The most bytes that a PACK job of `n` blocks may write (R222). -/
def packWorst (segLog2 n : Nat) : Nat :=
  let b := 2 ^ segLog2 / 4096
  let d := ceilDiv n b
  alignUp (8 * d) 64 + d * (1216 + 4112 * b - 4 * (256 - b))

/-- Why a packer's access stopped, as a status. -/
def stopStatus : Stop → Nat
  | .poison _ => Pk.poison
  | _ => Pk.translation

/-- A job is over: it leaves the packers, and its record is written. -/
def jobEnds (j : PackJob) (status : Nat) (house : Bool) (bytes : Nat) : Act :=
  seqA [act [.packs fun l => l.filter (·.id != j.id)], writeCpl packPlace (packRecord j.desc status house bytes)]

/-- Number of the packer that works on a job. -/
def PackJob.packer (j : PackJob) : Nat := (j.id - 1) % 16

/-- A job ends with a status other than OK: its destination is undefined. -/
def jobFails (j : PackJob) (status bytes : Nat) : Act :=
  let c := fieldAt j.desc 2 1
  seqA [if status = Pk.translation then act [.inc Fld.xltCntFaults 1] else nothing,
    undefVa (packAgent c) (fieldAt j.desc 16 8) bytes, jobEnds j status false 0]

/-- A job ends OK after its bytes are stored, and `counts` with it. A destination in a raw view is not written: the job ends with
TRANSLATION, logged with detail 0x09 (R213). -/
def jobWrites (j : PackJob) (house : Bool) (b : Bytes) (counts : Act) : Act := fun s =>
  let c := fieldAt j.desc 2 1
  let ag := packAgent c
  let dst := fieldAt j.desc 16 8
  match s.viewMet 4 c dst b.length, s.checkVa ag dst b.length with
  | some va, _ => seqA [logCmp va c 2 j.packer Dec.write (fieldAt j.desc 4 4), jobEnds j Pk.translation false 0] s
  | none, some e => jobFails j (stopStatus e) b.length s
  | none, none => seqA [noteWalks ag dst b.length 1, storeVa ag dst b, counts, jobEnds j Pk.ok house b.length] s

/-- A PACK job runs to its end. -/
def packJob (j : PackJob) : Act := fun s =>
  let d := j.desc
  let c := fieldAt d 2 1
  let cs := (s.image c).comp
  let n := fieldAt d 0x18 4
  let house := s.houseTables c (bitOf (fieldAt d 1 1) 0)
  seqA [noteWalks (packAgent c) (fieldAt d 8 8) (n * 4096) 0, match s.readVa (packAgent c) (fieldAt d 8 8) (n * 4096) with
    | .error e => jobFails j (stopStatus e) (packWorst cs.segmentLog2 n)
    | .ok raw => jobWrites j house (packImage house cs.rawThreshold cs.segmentLog2 (fieldAt d 16 8) raw)
        (countBlocks (packCounts house cs.rawThreshold raw cs.segmentLog2))] s

/-- The raw bytes of `n` blocks from `va` of raw views, with the address of the block that stops. -/
def State.viewRead (s : State) (ag : Agent) (va : Nat) : Nat → Except (Nat × BlockStop) Bytes
  | 0 => .ok []
  | n + 1 => match s.viewAt 4 ag.ctx va with
    | none => .error (va, .format 0)
    | some (_, e) => match s.viewBlock 4 ag (viewOf e) va with
      | .error x => .error (va, x)
      | .ok b => match s.viewRead ag (va + 4096) n with
        | .error x => .error x
        | .ok r => .ok (b ++ r)

/-- An UNPACK job runs to its end. A source that is no segment-aligned address of a raw view ends it with BAD_DESC. -/
def unpackJob (j : PackJob) : Act := fun s =>
  let d := j.desc
  let c := fieldAt d 2 1
  let src := fieldAt d 8 8
  let n := fieldAt d 0x18 4
  let aligned := match s.viewAt 4 c src with
    | some (_, e) => (src - (viewOf e).base) % 2 ^ (viewOf e).seg == 0
    | none => false
  if !aligned then jobFails j Pk.badDesc 0 s
  else seqA [forA (List.range n) (fun i s => match s.viewAt 4 c (src + 4096 * i) with
      | none => []
      | some (_, e) => seqA [noteView 4 (packAgent c) (src + 4096 * i), noteSegment 4 (packAgent c) (viewOf e) (src + 4096 * i)] s),
    match s.viewRead (packAgent c) src n with
    | .ok raw => jobWrites j false raw nothing
    | .error (_, .format 0) => jobFails j Pk.badDesc (n * 4096)
    | .error (va, .format detail) =>
      seqA [logCmp va c 2 j.packer detail (fieldAt d 4 4), jobFails j Pk.format (n * 4096)]
    | .error (_, .access e) => jobFails j (stopStatus e) (n * 4096)] s

/-- Where a stored segment that holds a block of a view lies: its directory entry and its bytes (R215). -/
def State.segmentPlaces (s : State) (die : Nat) (ag : Agent) (v : View) (va : Nat) : List (Nat × Nat) :=
  let a := v.dir + 8 * ((va - v.base) / 2 ^ v.seg)
  s.physPieces ag a 8 ++ match s.readVa ag a 8 with
    | .error _ => []
    | .ok b =>
      let d := leNat (s.cmpSeen die ag.ctx a b) % 2 ^ 57
      match s.readVa ag d segHeaderBytes with
      | .error _ => s.physPieces ag d segHeaderBytes
      | .ok h => s.physPieces ag d (fieldAt h 8 4)

/-- Where a job reads and writes. -/
def State.jobPlaces (s : State) (j : PackJob) : List (Nat × Nat) :=
  let d := j.desc
  let c := fieldAt d 2 1
  let ag := packAgent c
  let n := fieldAt d 0x18 4
  if fieldAt d 0 1 = 1 then
    s.physPieces ag (fieldAt d 8 8) (n * 4096) ++ s.physPieces ag (fieldAt d 16 8) (packWorst (s.image c).comp.segmentLog2 n)
  else s.physPieces ag (fieldAt d 16 8) (n * 4096) ++ (List.range n).flatMap fun i =>
    match s.viewAt 4 c (fieldAt d 8 8 + 4096 * i) with
    | none => []
    | some (_, e) => s.segmentPlaces 4 ag (viewOf e) (fieldAt d 8 8 + 4096 * i)

/-- A job in flight is complete. -/
def jobDone_ (id : Nat) : Act := fun s =>
  if s.basic then []
  else match s.packs.find? (·.id == id) with
  | none => []
  | some j => withHost (·.jobPlaces j) (if fieldAt j.desc 0 1 = 1 then packJob j else unpackJob j) s

/-! ## Invalidation (R213, R227) -/

/-- A write of CMP_INV. -/
def cmpInvalidate_ (c : Nat) : Act := fun s =>
  if s.flag Fld.cmpInvStatusBusy then [.fld Fld.cmpInvStatusRefused 1]
  else [.fld Fld.cmpInvStatusBusy 1, .cmpInv (some c)]

/-- The context's cached regions and directory entries are dropped. -/
def cmpInvalidated : Act := fun s =>
  match s.cmpInvalidating with
  | none => []
  | some c => [.cmpCache fun l => l.filter (·.ctx != c), .cmpInv none, .fld Fld.cmpInvStatusBusy 0, .fld Fld.cmpInvStatusDone 1]

/-! ## The commands -/

/-- PACK (R212, R222). -/
def execPack (s : State) : Host.Outcome State Fault Refusal := done (takeJob 1) s

/-- UNPACK (R222). -/
def execUnpack (s : State) : Host.Outcome State Fault Refusal := done (takeJob 2) s

/-- RESERVED_JOB_KIND (R222). -/
def execReservedJobKind (s : State) : Host.Outcome State Fault Refusal := done takeBadJob s

/-- PACKER_JOB_COMPLETE (R217 to R222). -/
def execPackerJobComplete (id : Nat) (s : State) : Host.Outcome State Fault Refusal := done (jobDone_ id) s

/-- CMP_INVALIDATE: a write of CMP_INV.go (R213, R227). -/
def execCmpInvalidate (ctx : Ctx) (s : State) : Host.Outcome State Fault Refusal := done (whenA State.bound (cmpInvalidate_ ctx)) s

/-- CMP_INVALIDATE_DONE (R213). -/
def execCmpInvalidateDone (s : State) : Host.Outcome State Fault Refusal := done cmpInvalidated s

/-- CMP_ERR_LOG_POP: a write of 1 to CMP_ERR_LOG0.valid (R227). -/
def execCmpErrLogPop (s : State) : Host.Outcome State Fault Refusal :=
  done (whenA State.bound (act [.cmpErrs (·.drop 1)])) s

end Sys2Proof.Machine
end

