-- ==== Sys2Proof/Machine/Links.lean ====
section
/-! DEFINITION. Huras links in their states and the formation of the fabric: training, hello, credits and replay, election,
topology, routes, mode changes, fences. R306 to R312, R322 to R329. -/

namespace Sys2Proof.Machine

open Sys2Proof

/-! ## Training and presence (R307, R308) -/

/-- Training of a link ends: lanes are chosen and the link enters HELLO, or FAILED. -/
def trainingDone (l : Nat) (r : LaneResult) : Act := fun s =>
  if s.linkState l ≠ Ls.training ∨ s.fget Fld.hlFabricStage = 0 then []
  else
    let fast := (r.fail224.map (·.val)).eraseDups
    let slow := (r.fail112.map (·.val)).eraseDups
    let enter (bad : List Nat) (rate : Nat) : Act := seqA [linkTo l Ls.hello,
      act [.link l fun x => { x with shutting := false }, .fld (Fld.pwrPendingLink.item l) 0],
      act [.fld (Fld.hlLstatRate l) rate,
        .fld (Fld.hlLstatLaneSpared l) (match bad with | k :: _ => if k < 8 then k else 15 | [] => 15)],
      fun s => sendCtrl l (.hello ⟨1, 3, BitVec.ofNat 16 s.ownId, BitVec.ofNat 8 l, BitVec.ofNat 8 (s.fget Fld.secProtRackTrust), 0,
        Config.fingerprint, 0⟩) s]
    if fast.length ≤ 1 then enter fast 2 s
    else if r.partner21 ∧ slow.length ≤ 1 then enter slow 1 s
    else linkTo l Ls.failed s

/-- A link without presence, or with presence and no training, becomes ABSENT. -/
def absentLink (l : Nat) : Act := fun s =>
  if s.linkState l ≠ Ls.training then []
  else seqA [linkTo l Ls.absent, act [.fld (Fld.hlLstatFenceReason l) Hr.absent]] s

/-- Presence is seen on an ABSENT link. -/
def presenceSeen (l : Nat) : Act := whenA (fun s => s.linkState l == Ls.absent) (trainLink l)

/-! ## Hello (R309, R310) -/

/-- Every field of a hello is one that its layout admits. -/
def helloOk (m : HelloMsg) : Bool :=
  m.msg == 1 && decide (m.versions.toNat < 4) && decide (m.fabricId.toNat < 512) && decide (m.link.toNat < 12) &&
  decide (m.flags.toNat < 2) && m.rsvd06 == 0 && m.rsvd38 == 0

/-- The protocol that both ends run: 2 for 3.0, 1 for 2.1, 0 for none; a partner of 2.1 alone needs a7_allow. -/
def State.helloProto (s : State) (m : HelloMsg) : Nat :=
  if m.versions.getLsbD 1 then 2 else if m.versions.getLsbD 0 ∧ s.flag Fld.hlCtrlA7Allow then 1 else 0

/-- A hello arrives. -/
def helloIn (l : Nat) (c : CtrlSeal) (m : HelloMsg) : Act := fun s =>
  if s.linkState l = Ls.fenced ∧ (s.link l).lateHello then
    [.inc (Fld.hlLerrLate l) 1, .link l fun x => { x with lateHello := false }]
  else if s.linkState l ≠ Ls.hello ∨ s.fget (Fld.hlLstatProto l) ≠ 0 then []
  else if !helloOk m then
    recvCtrl l c (seqA [act [.inc (Fld.hlLerrCheckFail l) 1], logHl Hr.rsvd l (m.fabricId.toNat % 512) 0 0 0 0]) s
  else
    let proto := s.helloProto m
    let id := m.fabricId.toNat
    recvCtrl l c (seqA [act [.fld (Fld.hlLstatPeerId l) id],
      if proto = 0 ∨ id = s.ownId then fenceLink l Hr.fenceHello
      else seqA [act [.fld (Fld.hlLstatProto l) proto,
          .link l fun x => { x with peerFingerprint := m.fingerprint, peerLink := m.link.toNat, peerFlags := m.flags.toNat }],
        if s.flag Fld.hlCtrlForm then seqA [act [.fld (Fld.hlLstatState l) Ls.attest], raise Vec.links, stageReview] else nothing]]) s

/-- No hello within 50 ms. -/
def helloLate (l : Nat) : Act := fun s =>
  if s.linkState l ≠ Ls.hello ∨ s.fget (Fld.hlLstatProto l) ≠ 0 then []
  else seqA [fenceLink l Hr.fenceHello, act [.link l fun x => { x with lateHello := true }]] s

/-! ## Credits and replay (R306, R311) -/

/-- Credits come back, and frames that the partner holds in order leave the replay buffer. -/
def creditIn (l : Nat) (f : Frame) : Act :=
  let b := frameBytes f
  let upTo := fieldAt b 8 8
  seqA [act [.link l fun x =>
      let left := x.replay.filter (fun r => upTo < r.1)
      { x with
        gotBack := [fieldAt b 0 2, fieldAt b 2 2, fieldAt b 4 2]
        replay := left
        resends := if left.length < x.replay.length then 0 else x.resends }],
    flush l]

/-- A CREDIT frame has no field but its counts and the counter. -/
def creditOk (f : Frame) : Bool := allZero (slice (frameBytes f) 6 2) && allZero (slice (frameBytes f) 16 240)

/-- A CREDIT frame arrives. -/
def creditFrame (l : Nat) (f : Frame) : Act :=
  if (frameHead f).kind ≠ Ft.credit then nothing
  else recvFrame l f fun f => if creditOk f then creditIn l f else refuseFrame l (frameHead f) Hr.rsvd

/-- A receiver that owes credit sends a CREDIT frame. -/
def creditSend (l : Nat) : Act := fun s =>
  let x := s.link l
  if !s.linkIsUp l ∨ x.owed = x.owedSaid ∨ x.rxCounter = 0 then []
  else seqA [sendOn l (.data (mkFrame { kind := Ft.credit, vc := 0, hops := 0, src := s.ownId, dst := s.fget (Fld.hlLstatPeerId l) }
      (x.owed.flatMap (leBytes 2) ++ zeros 2 ++ leBytes 8 (x.rxCounter - 1)))),
    act [.link l fun x => { x with owedSaid := x.owed }]] s

/-- A CTRL NAK: every frame from the named counter is sent again; a third failure retrains the link as a link reset. -/
def nakIn (l : Nat) (c : CtrlSeal) (n : Nat) : Act := fun s =>
  let x := s.link l
  if !s.linkIsUp l then []
  else
    let tried := if x.resendOf = n then x.resends else 0
    recvCtrl l c (if 3 ≤ tried then seqA [countReset 5, trainLink l]
      else seqA [act [.link l fun x => { x with resendOf := n, resends := tried + 1, resending := [] }],
        forA (x.replay.filter fun r => n ≤ r.1) (resendOn l)]) s

/-! ## Formation (R326 to R329) -/

/-- A CTRL message of formation arrives: only an UP link of Huras 3.0 carries it (R310). -/
def formMsg (l : Nat) (c : CtrlSeal) (a : Act) : Act := fun s =>
  if !s.linkIsUp l then [] else recvCtrl l c (if s.linkNew l then a else nothing) s

/-- An identity is heard with a fingerprint: two for one identity exclude it, and two for the own isolate the module. -/
def heardId (id : Nat) (fp : BitVec 384) : Act := fun s =>
  if id = s.ownId ∧ fp ≠ Config.fingerprint then
    [.fld Fld.hlFabricDup 1, .fld Fld.hlFabricStage 7, .fabric fun f => { f with electing := false, excluded := id :: f.excluded }]
  else
    let clash := s.fabric.heard.any fun h => h.1 == id && h.2 != fp
    [.fabric fun f => { f with
      heard := if f.heard.contains (id, fp) then f.heard else f.heard ++ [(id, fp)]
      excluded := if clash ∧ !f.excluded.contains id then id :: f.excluded else f.excluded }]

/-- An ELECT arrives (R326); before stage 6 the lowest is kept (R328). -/
def electIn (l : Nat) (c : CtrlSeal) (id : Nat) (fp : BitVec 384) (hops : Nat) : Act := formMsg l c (seqA [heardId id fp, fun s =>
  let st := s.fget Fld.hlFabricStage
  if st = 7 then []
  else if st < 4 then
    if (match s.fabric.keptElect with | some (k, _) => decide (id < k) | none => true) then
      [.fabric fun f => { f with keptElect := some (id, fp) }] else []
  else if !s.fabric.electing ∨ s.fabric.best ≤ id then []
  else seqA [act [.fabric fun f => { f with best := id, bestFp := fp, bestTick := s.ticks }],
    if hops = 0 then nothing else flood s.fabricLinks (.elect id fp.toNat (hops - 1))] s])

/-- A COORD arrives: election stops and the message goes on; before stage 6 the first is kept (R328). -/
def coordIn (l : Nat) (c : CtrlSeal) (id hops : Nat) : Act := formMsg l c fun s =>
  let st := s.fget Fld.hlFabricStage
  if st = 7 then []
  else if st < 4 then (if s.fabric.keptCoord.isSome then [] else [.fabric fun f => { f with keptCoord := some (id, l, hops) }])
  else if s.fabric.coordKnown ∨ s.flag Fld.hlFabricCoordinator then
    [.fabric fun f => { f with coordLink := if f.coordLink.isNone ∧ id = s.fget Fld.hlFabricCoordId ∧ id ≠ s.ownId then some l else f.coordLink }]
  else learnCoord (some l) (some l) id hops s

/-- A module whose best has been its own identity for 1 s declares itself coordinator. -/
def declare_ : Act := fun s =>
  if !s.fabric.electing ∨ s.fabric.best ≠ s.ownId then []
  else seqA [act [.fld Fld.hlFabricCoordinator 1, .fabric fun f => { f with topos := [], computed := false, acks := [], late := [] }],
    learnCoord none none s.ownId 16] s

/-- A TOPO arrives: the coordinator keeps it, every other module passes it on towards the coordinator; before stage 6 it is
not relayed. A TOPO that comes after route computation has begun waits for READY (R328). -/
def topoIn (l : Nat) (c : CtrlSeal) (m : TopoMsg) : Act := formMsg l c fun s =>
  let t : Topo := ⟨m.id, m.partners.map fun (k, i) => (k.val, i.val), m.leaves.map fun (k, i) => (k.val, i.val)⟩
  if s.flag Fld.hlFabricCoordinator then
    (if s.fabric.computed ∧ !s.fabricReady then [.fabric fun f => { f with late := f.late ++ [t] }] else [.fabric (keepTopo t)])
  else if s.fget Fld.hlFabricStage < 4 ∨ s.fget Fld.hlFabricStage = 7 then []
  else match s.fabric.coordLink with
    | some k => sendCtrl k (.topo t.id t.partners t.leaves) s
    | none => []

/-! ## Routes (R327) -/

/-- The modules of the graph that routes follow, none of them excluded: those with a TOPO, joined where both ends report the
link (log entry 27), and the partners of Huras 2.1, which are leaves (R310, R326, R327). -/
def Fabric.nodes (f : Fabric) : List Topo :=
  let ts := f.topos.filter fun t => !f.excluded.contains t.id
  let names (a b : Nat) := ts.any fun t => t.id == a && t.partners.any (·.2 == b)
  let mods := ts.map fun t => { t with
    partners := t.partners.filter (fun p => names p.2 t.id) ++ t.leaves.filter fun p => !f.excluded.contains p.2 }
  let leaves := ((mods.flatMap (·.partners)).map (·.2)).eraseDups.filter fun i => !mods.any (·.id == i)
  mods ++ leaves.map fun i => ⟨i, [], []⟩

/-- One round of distances: `d` holds (identity, hops); each node takes the least of its own and one more than a partner's. -/
def relax (nodes : List Topo) (ok : Nat → Nat → Bool) (d : Tab Nat) (best : Tab Nat) : Tab Nat :=
  nodes.foldl (fun acc t =>
    let m := (t.partners.filter fun p => ok t.id p.2 && nodes.any (·.id == p.2)).foldl
      (fun m p => min m (tabGet (fun _ => 99) d p.2 + 1)) (tabGet (fun _ => 99) best t.id)
    tabSet (fun _ => 99) acc t.id m) best

/-- Distances after `n` rounds from a start. -/
def distances (nodes : List Topo) (ok : Nat → Nat → Bool) : Nat → Tab Nat → Tab Nat
  | 0, d => d
  | n + 1, d => distances nodes ok n (relax nodes ok d d)

/-- Levels of the coordinator's breadth-first tree. -/
def Fabric.levels (f : Fabric) (root : Nat) : Tab Nat := distances f.nodes (fun _ _ => true) 15 [(root, 0)]

/-- The step from `a` to `b` goes up: towards the root, or at one level to the lower identity. -/
def goesUp (lv : Tab Nat) (a b : Nat) : Bool :=
  let la := tabGet (fun _ => 99) lv a
  let lb := tabGet (fun _ => 99) lv b
  decide (lb < la ∨ (lb = la ∧ b < a))

/-- Hops to `dst` by down steps alone, and by a legal path: up steps, then down steps. -/
def Fabric.legal (f : Fabric) (lv : Tab Nat) (dst : Nat) : Tab Nat × Tab Nat :=
  let down := distances f.nodes (fun a b => !goesUp lv a b) 15 [(dst, 0)]
  (down, distances f.nodes (goesUp lv) 15 down)

/-- The route from node `t` to `dst`: the shortest legal path, ties by the lower outgoing link; none beyond 15 hops. -/
def Fabric.routeOf (f : Fabric) (lv : Tab Nat) (d : Tab Nat × Tab Nat) (t : Topo) (dst : Nat) : Option Route :=
  let n := tabGet (fun _ => 99) d.2 t.id
  if t.id = dst ∨ 15 < n then none
  else
    let first := t.partners.filter fun p => f.nodes.any (·.id == p.2) &&
      (if goesUp lv t.id p.2 then tabGet (fun _ => 99) d.2 p.2 + 1 == n else tabGet (fun _ => 99) d.1 p.2 + 1 == n)
    (first.foldl (fun m p => match m with | none => some p.1 | some k => some (min k p.1)) (none : Option Nat)).map (⟨·, n⟩)

/-- The 512 entries of a node's route table as (link, hops); hops 0 stands for no route (log entry 27). -/
def Fabric.tableOf (f : Fabric) (lv : Tab Nat) (t : Topo) : List (Nat × Nat) :=
  (List.range 512).map fun dst =>
    if f.nodes.any (·.id == dst) then
      match f.routeOf lv (f.legal lv dst) t dst with
      | some r => (r.link, r.hops)
      | none => (0, 0)
    else (0, 0)

/-- A route table applied. -/
def applyTable (es : List (Nat × Nat)) : Tab (Option Route) :=
  (es.zipIdx.filter fun e => e.1.2 != 0).map fun e => (e.2, some ⟨e.1.1, e.1.2⟩)

/-- Modules that get a table: those that sent a TOPO, within 15 hops of the coordinator. A partner of Huras 2.1 gets none, and
a module that has left has no way to it (R310, R327, R329). -/
def Fabric.served (f : Fabric) (lv : Tab Nat) : List Topo :=
  f.nodes.filter fun t => f.topos.any (·.id == t.id) && tabGet (fun _ => 99) lv t.id ≤ 15

/-- The module is READY with a count of modules (R327), and the protection modes are reviewed. -/
def becomeReady (n : Nat) : Act := seqA [act [.fld Fld.hlFabricModules n, .fld Fld.hlFabricStage 6], reviewModes]

/-- Every reported module has acknowledged: READY is flooded; a TOPO that waited joins (R327 to R329). -/
def tryReady : Act := fun s =>
  let n := s.fabric.reported.length
  if !s.flag Fld.hlFabricCoordinator ∨ !s.fabric.computed ∨ !s.fabric.reported.all s.fabric.acks.contains then []
  else seqA [flood s.fabricLinks (.ready n), becomeReady n,
    fun s => if s.fabric.late.isEmpty then [] else
      [.fabric fun f => f.late.foldl (fun f t => keepTopo t f) { f with late := [] }]] s

/-- The coordinator holds a TOPO from itself and from every partner named that sends one (R310, R328). -/
def Fabric.gathered (f : Fabric) (own : Nat) : Bool :=
  f.topos.any (·.id == own) && f.topos.all fun t => t.partners.all fun p => f.excluded.contains p.2 || f.topos.any (·.id == p.2)

/-- Routes are computed and distributed. -/
def computeRoutes : Act := fun s =>
  let f := s.fabric
  if !s.flag Fld.hlFabricCoordinator ∨ f.computed ∨ !f.gathered s.ownId then []
  else
    let lv := f.levels s.ownId
    let ts := f.served lv
    let own := (ts.find? (·.id == s.ownId)).getD { id := s.ownId, partners := [] }
    seqA [act [.fabric fun x => { x with
        computed := true
        reported := ts.map (·.id)
        acks := [s.ownId]
        routes := applyTable (f.tableOf lv own) }],
      forA (ts.filter (·.id != s.ownId)) (fun t => fun s => match s.routeTo t.id with
        | some l => sendCtrl l (.routeTable t.id (f.tableOf lv t)) s
        | none => []),
      tryReady] s

/-- A route table arrives: the module's own is applied and acknowledged, another is passed on. -/
def routeTableIn (l : Nat) (c : CtrlSeal) (dst : Nat) (es : List (Nat × Nat)) : Act := formMsg l c fun s =>
  if dst = s.ownId then
    seqA [act [.fabric fun f => { f with routes := applyTable es }],
      match s.fabric.coordLink with | some k => sendCtrl k (.routeAck s.ownId) | none => nothing] s
  else match s.routeTo dst with
    | some k => sendCtrl k (.routeTable dst es) s
    | none => flood (s.fabricLinks.filter (· != l)) (.routeTable dst es) s

/-- An acknowledgement arrives: the coordinator counts it, every other module passes it on. -/
def routeAckIn (l : Nat) (c : CtrlSeal) (id : Nat) : Act := formMsg l c fun s =>
  if s.flag Fld.hlFabricCoordinator then
    (if s.fabric.acks.contains id then []
     else seqA [act [.fabric fun f => { f with acks := f.acks ++ [id] }], tryReady] s)
  else match s.fabric.coordLink with
    | some k => sendCtrl k (.routeAck id) s
    | none => []

/-- READY arrives: it goes on, and the module is READY. -/
def readyIn (l : Nat) (c : CtrlSeal) (n : Nat) : Act := formMsg l c fun s =>
  if s.fabricReady ∧ s.fget Fld.hlFabricModules = n ∨ s.fget Fld.hlFabricStage = 7 ∨ s.flag Fld.hlFabricCoordinator then []
  else seqA [flood (s.fabricLinks.filter (· != l)) (.ready n), becomeReady n] s

/-- A heartbeat of the coordinator arrives and goes on. -/
def heartbeatIn (l : Nat) (c : CtrlSeal) (id : Nat) : Act := formMsg l c fun s =>
  if id ≠ s.fget Fld.hlFabricCoordId ∨ some l ≠ s.fabric.coordLink then []
  else seqA [act [.fabric fun f => { f with heartbeatTick := s.ticks }], flood (s.fabricLinks.filter (· != l)) (.heartbeat id)] s

/-- The coordinator is lost: election runs again among the modules that remain (R329). -/
def coordLost : Act := fun s =>
  if !s.fabric.coordKnown ∨ s.flag Fld.hlFabricCoordinator ∨ s.fget Fld.hlFabricStage = 7 then []
  else seqA [act [.fld Fld.hlFabricModules 0, .fld Fld.hlFabricCoordId 0,
      .fabric fun f => { f with coordKnown := false, coordLink := none, keptCoord := none, keptElect := none }],
    enterStage6] s

/-! ## Protection modes (R322) and keys (R305) -/

/-- A CTRL MODE names the counter of the change; this end does not go rack-trusted while its own conditions fail (R322,
log entry 26). -/
def modeIn (l : Nat) (c : CtrlSeal) (n : Nat) : Act := formMsg l c fun s =>
  if s.modeGoal l = 0 ∧ !s.rackTrusted l then [] else [.link l fun x => { x with modeAt := some (n, 1 - s.modeGoal l) }]

/-- The counter of a change of mode is reached in both directions. -/
def modeSwitch (l : Nat) : Act := fun s =>
  match (s.link l).modeAt with
  | some (n, m) => if s.linkIsUp l ∧ n ≤ (s.link l).txCounter ∧ n ≤ (s.link l).rxCounter then
      seqA [act [.fld (Fld.hlLstatMode l) m, .link l fun x => { x with modeAt := none }], reviewMode l] s else []
  | none => []

/-- The seal key of a counter epoch takes over. -/
def keyEpoch (l : Nat) : Act := fun s =>
  if s.linkIsUp l then [.link l fun x => { x with epoch := x.txCounter / 2 ^ 32 }] else []

/-! ## Fences and control (R308, R312, R323, R376) -/

/-- Refusals or authentication failures of this interval stand above their threshold. -/
def State.overThreshold (s : State) (l : Nat) : Option Nat :=
  let x := s.link l
  if x.countMs ≠ s.ticks / 100000 then none
  else if s.fget Fld.hlFenceCheckThr ≠ 0 ∧ s.fget Fld.hlFenceCheckThr < x.refusals then some Hr.fenceChecks
  else if s.fget Fld.hlFenceAuthThr ≠ 0 ∧ s.fget Fld.hlFenceAuthThr < x.authFails then some Hr.fenceAuth
  else none

/-- A link over a threshold is fenced. -/
def fenceOver (l : Nat) : Act := fun s =>
  match s.overThreshold l with
  | some r => if s.linkIsUp l then fenceLink l r s else []
  | none => []

/-- Frames have waited for credit on a channel for the limit. -/
def creditStall (l vc : Nat) : Act := fun s =>
  if s.linkIsUp l ∧ (s.link l).waiting.any (·.vc == some vc) ∧ !(s.link l).creditFor vc then fenceLink l Hr.fenceStall s else []

/-- HL_LCTRL.retrain: the link leaves its state for TRAINING, unless it is held DISABLED. -/
def retrainLink (l : Nat) : Act := fun s =>
  if s.flag (Fld.hlLctrlDisable l) ∨ s.linkState l = Ls.disabled then [] else trainLink l s

/-- A link reset: the link goes to TRAINING and shuts down what it held; an enable held PENDING is withdrawn (Table 15.5, R376). -/
def resetLink (l : Nat) : Act := fun s =>
  if s.flag (Fld.hlLctrlDisable l) ∨ (s.linkState l = Ls.disabled ∧ !(s.link l).shutting) then []
  else seqA [act [.fld (Fld.pwrPendingLink.item l) 0], trainLink l, act [.link l fun x => { x with shutting := true }]] s

/-- HL_LCTRL.disable set: the link is DISABLED and shuts down (Table 15.5); an enable held PENDING is withdrawn (R376). -/
def disableLink (l : Nat) : Act := fun s =>
  if s.flag (Fld.hlLctrlDisable l) then []
  else seqA [act [.fld (Fld.hlLctrlDisable l) 1, .fld (Fld.pwrPendingLink.item l) 0], linkTo l Ls.disabled, act [.link l fun x => { x with shutting := true }]] s

/-- HL_LCTRL.disable cleared: the link trains, or the enable is held PENDING while it shuts down (R376). -/
def enableLink (l : Nat) : Act := fun s =>
  if (s.link l).shutting then [.fld (Fld.hlLctrlDisable l) 0, .fld (Fld.pwrPendingLink.item l) 1]
  else if !s.flag (Fld.hlLctrlDisable l) then []
  else seqA [act [.fld (Fld.hlLctrlDisable l) 0],
    if s.linkState l = Ls.disabled ∧ !s.flag Fld.pwrStrapFidErr then trainLink l else nothing] s

/-- The shut-down of a link is complete: a held enable takes effect. -/
def linkShut (l : Nat) : Act := fun s =>
  if !(s.link l).shutting then []
  else seqA [act [.link l fun x => { x with shutting := false }],
    if s.flag (Fld.pwrPendingLink.item l) then seqA [act [.fld (Fld.pwrPendingLink.item l) 0],
      if s.linkState l = Ls.disabled ∧ !s.flag Fld.pwrStrapFidErr then trainLink l else nothing] else nothing] s

/-! ## The commands -/

/-- PRESENCE_DETECTED (R308). -/
def execPresenceDetected (link : LinkId) (s : State) : Host.Outcome State Fault Refusal := done (presenceSeen link) s

/-- LINK_TRAINING_COMPLETE (R307). -/
def execLinkTrainingComplete (link : LinkId) (lanes : LaneResult) (s : State) : Host.Outcome State Fault Refusal :=
  done (trainingDone link lanes) s

/-- ABSENT_TIMEOUT: no presence for 200 ms, or presence for 8.65 s without training (Table 13.5). -/
def execAbsentTimeout (link : LinkId) (_presenceSeen : Bool) (s : State) : Host.Outcome State Fault Refusal :=
  done (absentLink link) s

/-- ABSENT_CHECK: the check of an ABSENT link, every 1 s (Table 13.5). -/
def execAbsentCheck (link : LinkId) (presence : Bool) (s : State) : Host.Outcome State Fault Refusal :=
  done (if presence then presenceSeen link else nothing) s

/-- HELLO (R309, R310). -/
def execHello (link : CtrlIn) (msg : HelloMsg) (s : State) : Host.Outcome State Fault Refusal :=
  done (helloIn link.link link.ctl msg) s

/-- HELLO_TIMEOUT (R309). -/
def execHelloTimeout (link : LinkId) (s : State) : Host.Outcome State Fault Refusal := done (helloLate link) s

/-- CREDIT (R311). -/
def execCredit (link : LinkId) (frame : Frame) (s : State) : Host.Outcome State Fault Refusal := done (creditFrame link frame) s

/-- CREDIT_SEND_TIMER (R311). -/
def execCreditSendTimer (link : LinkId) (s : State) : Host.Outcome State Fault Refusal := done (creditSend link) s

/-- CTRL_NAK (R306). -/
def execCtrlNak (link : CtrlIn) (counter : Nat) (s : State) : Host.Outcome State Fault Refusal :=
  done (nakIn link.link link.ctl counter) s

/-- ELECT (R326, R328). -/
def execElect (link : CtrlIn) (id : Fin 512) (fingerprint : BitVec 384) (hops : Nat) (s : State) :
    Host.Outcome State Fault Refusal := done (electIn link.link link.ctl id fingerprint hops) s

/-- COORD (R326, R328). -/
def execCoord (link : CtrlIn) (id : Fin 512) (hops : Nat) (s : State) : Host.Outcome State Fault Refusal :=
  done (coordIn link.link link.ctl id hops) s

/-- COORDINATOR_DECLARE (R326). -/
def execCoordinatorDeclare (s : State) : Host.Outcome State Fault Refusal := done declare_ s

/-- TOPO (R327, R328). -/
def execTopo (link : CtrlIn) (msg : TopoMsg) (s : State) : Host.Outcome State Fault Refusal :=
  done (topoIn link.link link.ctl msg) s

/-- ROUTE_COMPUTATION (R327). -/
def execRouteComputation (s : State) : Host.Outcome State Fault Refusal := done computeRoutes s

/-- ROUTE_TABLE (R327). -/
def execRouteTable (link : CtrlIn) (dst : Fin 512) (routes : List (Fin 12 × Fin 16)) (s : State) :
    Host.Outcome State Fault Refusal := done (routeTableIn link.link link.ctl dst (routes.map fun (l, h) => (l.val, h.val))) s

/-- ROUTE_ACK (R327). -/
def execRouteAck (link : CtrlIn) (id : Fin 512) (s : State) : Host.Outcome State Fault Refusal :=
  done (routeAckIn link.link link.ctl id) s

/-- READY (R327, R322). -/
def execReady (link : CtrlIn) (modules : Nat) (s : State) : Host.Outcome State Fault Refusal :=
  done (readyIn link.link link.ctl modules) s

/-- MODE (R322). -/
def execMode (link : CtrlIn) (counter : Nat) (s : State) : Host.Outcome State Fault Refusal :=
  done (modeIn link.link link.ctl counter) s

/-- MODE_SWITCH (R322). -/
def execModeSwitch (link : LinkId) (s : State) : Host.Outcome State Fault Refusal := done (modeSwitch link) s

/-- HEARTBEAT (R329). -/
def execHeartbeat (link : CtrlIn) (id : Fin 512) (s : State) : Host.Outcome State Fault Refusal :=
  done (heartbeatIn link.link link.ctl id) s

/-- COORDINATOR_LOSS (R329). -/
def execCoordinatorLoss (s : State) : Host.Outcome State Fault Refusal := done coordLost s

/-- CREDIT_STALL_TIMEOUT (R312). -/
def execCreditStallTimeout (link : LinkId) (vc : Fin 3) (s : State) : Host.Outcome State Fault Refusal := done (creditStall link vc) s

/-- LINK_FENCE (R323). -/
def execLinkFence (link : LinkId) (s : State) : Host.Outcome State Fault Refusal := done (fenceOver link) s

/-- SEAL_KEY_EPOCH (R305). -/
def execSealKeyEpoch (link : LinkId) (s : State) : Host.Outcome State Fault Refusal := done (keyEpoch link) s

/-- LINK_RETRAIN: a write of HL_LCTRL.retrain (R308). -/
def execLinkRetrain (link : LinkId) (s : State) : Host.Outcome State Fault Refusal :=
  done (whenA State.bound3 (retrainLink link)) s

/-- LINK_DISABLE: a write of HL_LCTRL.disable = 1 (R308). -/
def execLinkDisable (link : LinkId) (s : State) : Host.Outcome State Fault Refusal :=
  done (whenA State.bound3 (disableLink link)) s

/-- LINK_ENABLE: a write of HL_LCTRL.disable = 0 (R308, R376). -/
def execLinkEnable (link : LinkId) (s : State) : Host.Outcome State Fault Refusal :=
  done (whenA State.bound3 (enableLink link)) s

/-- LINK_SHUTDOWN_COMPLETE (R376). -/
def execLinkShutdownComplete (link : LinkId) (s : State) : Host.Outcome State Fault Refusal := done (linkShut link) s

/-- HL_ERR_LOG_POP: a write of 1 to HL_ERR_LOG0.valid (R330). -/
def execHlErrLogPop (s : State) : Host.Outcome State Fault Refusal :=
  done (whenA State.bound3 (act [.hlErrs (·.drop 1)])) s

/-- CTRL_HEARTBEAT_SEND: the coordinator's heartbeat (R329). -/
def execCtrlHeartbeatSend (s : State) : Host.Outcome State Fault Refusal :=
  done (fun s => if s.flag Fld.hlFabricCoordinator then flood s.fabricLinks (.heartbeat s.ownId) s else []) s

end Sys2Proof.Machine
end

