-- ==== Sys2Proof/Machine/Window.lean ====
section
/-! DEFINITION. Outbound access: the remote-window aperture, its table, requests in flight, and their answers.
R312 to R314, R316, R318 to R320, R405. -/

namespace Sys2Proof.Machine

open Sys2Proof

/-! ## The outbound table (R313, R314) -/

/-- An outbound entry taken apart. -/
structure OutEntry where
  valid : Bool
  window : Nat
  ctx : Nat
  dst : Nat
  owner : Nat
  size : Nat
  deriving DecidableEq, Repr

/-- The fields of an entry; a non-zero rsvd field leaves it not valid. -/
def outEntryOf (b : Bytes) : OutEntry :=
  { valid := fieldAt b 3 1 == 1 && fieldAt b 2 1 < 16 && fieldAt b 4 2 < 512 && fieldAt b 6 1 < 16 && fieldAt b 7 1 == 0 &&
      fieldAt b 12 4 == 0 && fieldAt b 8 4 % 64 == 0 && 64 ≤ fieldAt b 8 4 && fieldAt b 8 4 ≤ 2 ^ 28
    window := fieldAt b 0 2, ctx := fieldAt b 2 1, dst := fieldAt b 4 2, owner := fieldAt b 6 1, size := fieldAt b 8 4 }

/-- The bytes of a slot's entry: memory, or a cached value that may still stand (log entry 36). -/
def State.outBytes (s : State) (slot : Nat) : Bytes :=
  let m := s.devBytes (s.fget Fld.hlOuttabBase * 65536 + 16 * slot) 16
  let c := tabGet (fun _ => []) s.outbound.cache slot
  if c ≠ [] ∧ c ≠ m ∧ Config.cacheKept 16 slot s.free then c else m

/-- The slot of an aperture address. -/
def slotOf (a : Nat) : Nat := (a - Config.windowBase) / 2 ^ 28

/-- The entry that an access of a context uses; none when one of the three checks of R313 fails. -/
def State.outEntry (s : State) (c a n : Nat) : Option OutEntry :=
  let e := outEntryOf (s.outBytes (slotOf a))
  if s.flag Fld.hlOuttabEnable ∧ e.valid ∧ e.owner = c ∧ a % 2 ^ 28 + n ≤ e.size then some e else none

/-- The entry of a slot is cached. -/
def cacheOut (slot : Nat) : Act := fun s =>
  let b := s.outBytes slot
  let m := s.fget Fld.hlOuttabBase * 65536 + 16 * slot
  seqA [noteDev 1 m 16, act [.outbound fun o => { o with cache := tabSet (fun _ => []) o.cache slot b }]] s

/-! ## Requests (R313) -/

/-- Number of a command in an outbound request: its number and its first list entry. -/
def QCmd.outKey (q : QCmd) : Nat := q.id * 65536 + q.entry

/-- A tag that no request, answered or timed out, holds; tags are taken in turn. -/
def State.freeTag (s : State) : Option Nat :=
  ((List.range 2048).map fun i => (s.outbound.nextTag + i) % 2048).find? fun t =>
    !(s.outbound.reqs.any (·.tag == t) || s.outbound.late.any (·.2 == t))

/-- The aperture lines that a command waits for or has. -/
def lineKeyOf (line : Nat) : Nat := 2 * line + 1

/-- An access of a command fails before its first frame: logged with this module as the source, and the command ends with a
TRANSLATION fault (R313). -/
def outFault (n : Nat) (q : QCmd) (reason link a : Nat) (e : OutEntry) : Act := fun s =>
  seqA [logHl reason link s.ownId e.window e.ctx (a % 2 ^ 28 / 64) q.tileTag, stopCmd n q Cmd.translation a false 0 0] s

/-- The header of a request. -/
def outHead (own : Nat) (e : OutEntry) (kind a count tag : Nat) (coded : Bool) : Head :=
  { kind := kind, vc := 0, src := own, dst := e.dst, ctx := e.ctx, window := e.window, offset := a % 2 ^ 28 / 64, count := count, tag := tag, coded := coded }

/-- A request of a command leaves: `frames` are its payloads, one of them but for a coded transfer. -/
def sendRequest (n : Nat) (q : QCmd) (e : OutEntry) (l kind a count : Nat) (coded : Bool) (frames : List Bytes) : Act := fun s =>
  match s.freeTag with
  | none => []
  | some t => seqA [act [.outbound fun o => { o with
        nextTag := (t + 1) % 2048
        reqs := o.reqs ++ [⟨t, l, n, q.outKey, kind == Ft.write, a, count⟩] }],
      forA frames fun b => sendOn l (.data (mkFrame (outHead s.ownId e kind a (if coded then 3 else count - 1) t coded) b))] s

/-- Whether an aperture line is on its way to a command. -/
def State.lineAsked (s : State) (q : QCmd) (line : Nat) : Bool :=
  s.outbound.reqs.any fun r => !r.write && r.cmd == q.outKey && decide (r.addr / 64 ≤ line ∧ line < r.addr / 64 + r.count)

/-- The aperture lines of a range that a command neither has nor has asked for are asked for, four to a frame; the whole
access that the range belongs to is checked first (R313). -/
def askRemote (n : Nat) (q : QCmd) (a len : Nat) (whole : Nat × Nat) : Act := fun s =>
  match s.outEntry q.ctx whole.1 whole.2 with
  | none => outFault n q Hr.outSlot 0 a (outEntryOf (s.outBytes (slotOf a))) s
  | some e => match s.outRoute e.dst with
    | none => outFault n q Hr.noRoute 0 a e s
    | some l =>
      let first := a / 64
      let lines := (List.range ((a + len - 1) / 64 - first + 1)).map (first + ·)
      seqA [cacheOut (slotOf a), forA (chunksOf 4 lines.length lines) fun ls =>
        let want := ls.filter fun x => tabGet (fun _ => []) q.blocks (lineKeyOf x) == []
        fun t => if want = [] ∨ want.all (t.lineAsked q) then []
          else sendRequest n q e l Ft.readReq (ls.headD 0 * 64) ls.length false [[]] t] s

/-- Pieces of one write to the aperture: raw pieces of four lines, or coded segments of whole blocks when the context
compresses its window traffic and the departure link runs Huras 3.0 (R225, R320). Partial lines are completed with open
values (log entry 36). -/
def State.outPieces (s : State) (c a : Nat) (d : Bytes) : List OutPiece :=
  let cs := (s.image c).comp
  let new := match s.outEntry c a d.length with
    | some e => ((s.outRoute e.dst).map s.linkNew).getD false
    | none => false
  let open_ (x n : Nat) : Bytes := (List.range n).map fun i => Config.freeByte s.free (x + i)
  let whole := (a, d.length)
  let lead := a % 64
  let body := open_ (a - lead) lead ++ d
  let body := body ++ open_ (a - lead + body.length) (alignUp body.length 64 - body.length)
  let a := a - lead
  let coded := if new && bitOf cs.streams 3 then body.length / 4096 * 4096 else 0
  let segs := chunksOf (2 ^ cs.segmentLog2) (coded / 2 ^ cs.segmentLog2 + 1) (body.take coded)
  let codedPieces := segs.zipIdx.map fun (g, i) =>
    (⟨a + i * 2 ^ cs.segmentLog2, encodeSegment (s.houseTables c false) cs.rawThreshold g, true, whole⟩ : OutPiece)
  let rest := body.drop coded
  codedPieces ++ (chunksOf 256 (rest.length / 256 + 1) rest).zipIdx.map fun (g, i) => ⟨a + coded + 256 * i, g, false, whole⟩

/-- The first unsent piece of a sending command has left. -/
def dropPiece (key : Nat) (qs : List QCmd) : List QCmd :=
  modFirst (fun o => o.outKey == key && o.run == .sending) (fun o => { o with unsent := o.unsent.drop 1 }) qs

/-- One piece of a command's remote output leaves, while a tag is free; its whole access must lie inside the entry (R313). -/
def sendPiece (n : Nat) (q : QCmd) (p : OutPiece) : Act := fun s =>
  match s.outEntry q.ctx p.whole.1 p.whole.2 with
  | none => outFault n q Hr.outSlot 0 p.addr (outEntryOf (s.outBytes (slotOf p.addr))) s
  | some e => match s.outRoute e.dst, s.freeTag with
    | none, _ => outFault n q Hr.noRoute 0 p.addr e s
    | some _, none => []
    | some l, some _ =>
      seqA [cacheOut (slotOf p.addr),
        sendRequest n q e l Ft.write p.addr (p.data.length / 64) p.coded
          (chunksOf 256 (p.data.length / 256 + 1) (if p.coded then padTo (alignUp p.data.length 256) p.data else p.data)),
        act [.core n fun x => { x with queue := dropPiece q.outKey x.queue }]] s

/-- The command that a request belongs to, while it still sends. -/
def State.sender (s : State) (n key : Nat) : Option QCmd := (s.core n).queue.find? fun q => q.outKey == key && q.run == .sending

/-- What a sending command has unsent leaves, and the command has finished when every frame has been answered (R313). -/
def pumpSends (n key : Nat) : Act := fun s =>
  match s.sender n key with
  | none => []
  | some q => seqA [forA q.unsent (fun p => fun t => match t.sender n key with
        | some o => sendPiece n o p t
        | none => []),
      fun t => match t.sender n key with
        | some o => if o.unsent = [] ∧ !t.outbound.reqs.any (fun r => r.cmd == key && r.write) then
            setCmd n o (fun x => { x with run := .done }) t else []
        | none => []] s

/-! ## Answers (R313, R318, R319, R405) -/

/-- A request is over. -/
def dropReq (t : Nat) : Act := act [.outbound fun o => { o with reqs := o.reqs.filter (·.tag != t) }]

/-- The command that waits for a request's answer. -/
def State.asker (s : State) (r : OutReq) : Option QCmd :=
  (s.core r.core).queue.find? fun q => q.outKey == r.cmd && (q.run == .waiting || q.run == .sending)

/-- The command of a request faults. -/
def askerFault (r : OutReq) (cause : Nat) : Act := fun s =>
  match s.asker r with
  | none => []
  | some q => stopCmd r.core q cause r.addr false 0 0 s

/-- An answer to a request of this module: a known one is handled, a late one is counted, another is passed over. -/
def answerIn (l : Nat) (h : Head) (handle : OutReq → Act) : Act := fun s =>
  match s.outbound.reqs.find? (·.tag == h.tag) with
  | some r => seqA [dropReq h.tag, handle r] s
  | none =>
    if s.outbound.late.any (·.2 == h.tag) then
      [.inc (Fld.hlLerrLate l) 1, .outbound fun o => { o with late := o.late.filter (·.2 != h.tag) }]
    else []

/-- Lines arrive: a poisoned line ends the command with a POISON fault, others are kept for it. -/
def linesIn (h : Head) (b : Bytes) (r : OutReq) : Act := fun s =>
  match s.asker r with
  | none => []
  | some q =>
    if h.poison % 2 ^ (h.count + 1) ≠ 0 then stopCmd r.core q Cmd.poison r.addr false 0 0 s
    else
      let keep (t : Tab Bytes) (i : Nat) := tabSet (fun _ => []) t (lineKeyOf (r.addr / 64 + i)) (slice b (64 * i) 64)
      setCmd r.core q (fun x => { x with blocks := (List.range (min r.count (h.count + 1))).foldl keep x.blocks }) s

/-- A request gets no answer in time (R318, R405). -/
def requestTimeout (l t : Nat) : Act := fun s =>
  match s.outbound.reqs.find? (fun r => r.tag == t && r.link == l) with
  | none => []
  | some r =>
    let e := outEntryOf (s.outBytes (slotOf r.addr))
    let tag := ((s.asker r).map QCmd.tileTag).getD 0
    seqA [dropReq t, act [.outbound fun o => { o with late := o.late ++ [(l, t)] }],
      logHl Hr.timeout l s.ownId e.window e.ctx (r.addr % 2 ^ 28 / 64) tag, askerFault r Cmd.translation] s

/-! ## The commands -/

/-- HURAS_REQUEST_TIMEOUT (R312, R318, R405). -/
def execHurasRequestTimeout (link : LinkId) (tag : BitVec 11) (s : State) : Host.Outcome State Fault Refusal :=
  done (requestTimeout link tag.toNat) s

/-- A write of HL_OUTINV.go. -/
def outInvalidate (slot : Nat) : Act := act [.fld Fld.hlOutinvSlot slot, .outbound fun o => { o with invalidating := some slot }]

/-- The cached entry of the slot is dropped. -/
def outInvalidated : Act := fun s =>
  match s.outbound.invalidating with
  | none => []
  | some k => [.outbound fun o => { o with invalidating := none, cache := tabErase o.cache k }, .fld Fld.hlOutinvDone 1]

/-- OUTBOUND_INVALIDATE: a write of HL_OUTINV.go (R314). -/
def execOutboundInvalidate (slot : Fin 4096) (s : State) : Host.Outcome State Fault Refusal :=
  done (whenA State.bound3 (outInvalidate slot)) s

/-- OUTBOUND_INVALIDATE_DONE (R314). -/
def execOutboundInvalidateDone (s : State) : Host.Outcome State Fault Refusal := done outInvalidated s

end Sys2Proof.Machine
end

