-- ==== Sys2Proof/Machine/Tiles.lean ====
section
/-! DEFINITION. How a tile command reaches its operands and its output, and how a run of it ends; the cluster expanders.
R68, R78, R161, R165, R213, R223, R224, R313. -/

namespace Sys2Proof.Machine

open Sys2Proof

/-! ## A run -/

/-- Why a run stops before its end. A reprint trigger is no fault (R123). -/
inductive Halt where
  | stop (e : Stop)
  | fault (cause addr : Nat) (virtual : Bool) (detail off : Nat)
  | rawWrite (va : Nat)
  | trigger
  | wait
  deriving DecidableEq, Repr

/-- A compensated pair (R105). -/
structure Pair where
  s : F32 := 0
  c : F32 := 0
  deriving DecidableEq, Repr

/-- One column of a row group in progress: 64 open block sums, marker count, 64 pairs, blocks closed; on the conventional unit the
sums are the FP32 sums of `wide`. -/
structure ColAcc where
  sums : List Int := List.replicate 64 0
  clip : Nat := 0
  pairs : List Pair := List.replicate 64 {}
  wide : List F32 := List.replicate 64 0
  closed : Nat := 0
  deriving DecidableEq, Repr

/-- An accumulator as the view shows it (R128). -/
def ColAcc.view (a : ColAcc) (r : Nat) : AccEntry :=
  let p := a.pairs.getD r {}
  { blockSum := BitVec.ofInt 32 (a.sums.getD r 0), clip := a.clip, block := a.closed, sum := p.s, comp := p.c }

/-- The fill that an accumulator tile is in: the tile, its row groups and columns, and the columns in progress by group × 64 + column. -/
structure Fill where
  tile : Nat
  groups : Nat
  cols : Nat
  accs : Tab ColAcc := []
  deriving DecidableEq, Repr

/-- The accumulators of a fill replace those of its tile. -/
def Fill.into (f : Fill) (old : Tab AccEntry) : Tab AccEntry :=
  let new := (List.range f.groups).flatMap fun g => (List.range 64).flatMap fun r => (List.range f.cols).map fun c =>
    (f.tile * 16384 + (64 * g + r) * 64 + c, (tabGet (fun _ => {}) f.accs (64 * g + c)).view r)
  if f.tile = 0 then new ++ old.filter (16384 ≤ ·.1) else old.filter (·.1 < 16384) ++ new

/-- What a run gathers on its way: the ranges it looked up as (address, length, write), its output, counter increments, the
accumulators and the fill in progress, the loaded operands, updates that go with a completed run, updates that go with a fault,
preflight counts, the KV rows written (R265), and the KV pages pinned (R266). -/
structure Trace where
  looked : List (Nat × Nat × Nat) := []
  outs : List (Nat × Bytes) := []
  bumps : List (Fld × Nat) := []
  acc : Tab AccEntry := []
  fill : Option Fill := none
  weights : List WeightSet := []
  tables : List (List Int) := []
  matchUnit : List Nat := []
  quantClip : List Nat := []
  extra : List Upd := []
  onFail : List Upd := []
  rows : List (Nat × Bytes) := []
  pending : List (Nat × Nat × Nat × Nat) := []
  pins : List (Nat × Nat) := []
  idle : Nat := 0
  misses : Nat := 0

/-- What a run starts from: the core's units as the last command left them. A reprint pass starts with every accumulator at
zero (R124), and a run goes on with the pages that its command has pinned. -/
def unitsOf (x : CoreState) (q : QCmd) : Trace :=
  { acc := if q.pass.isSome then [] else x.acc, weights := x.weights, tables := x.tables, matchUnit := x.matchUnit,
    quantClip := x.quantClip, pins := q.pins }

/-- The accumulators as a run leaves them. -/
def Trace.accs (t : Trace) : Tab AccEntry := match t.fill with
  | none => t.acc
  | some f => f.into t.acc

/-- A tile enters the idle set of weight registers, which then is the one in use. -/
def Trace.load (t : Trace) (w : WeightSet) : Trace := { t with weights := (w :: t.weights).take 2 }

/-- A computation of a run: it may halt, and what it gathered stays. -/
abbrev Run := ExceptT Halt (StateM Trace)

/-- Gathers something. -/
def gather (f : Trace → Trace) : Run Unit := modify f

/-- Stops a run with a fault that has no address. -/
def halt {α : Type} (cause : Nat) : Run α := throw (.fault cause 0 false 0 0)

/-- A check of a run. -/
def need (c : Bool) (cause : Nat) : Run Unit := if c then pure () else halt cause

/-- A counter rises. -/
def bump (f : Fld) (k : Nat) : Run Unit := if k = 0 then pure () else gather fun t => { t with bumps := t.bumps ++ [(f, k)] }

/-! ## Operand access (R68, R160, R213, R313) -/

/-- Key of a decoded block among what a command holds. -/
def blockKeyOf (va : Nat) : Nat := 2 * (va / 4096)

/-- The first line of a piece that the snoop filter marks host-held and that has not timed out for the command (R291). -/
def State.hostHeld (s : State) (q : QCmd) (a k : Nat) : Option Nat :=
  (linesOf a k).find? fun l => s.port.filter.contains l && !q.lost.contains l

/-- A line of a piece whose back-invalidate timed out for the command: it reads as poison (R291). -/
def QCmd.lostLine (q : QCmd) (a k : Nat) : Option Nat := (linesOf a k).find? q.lost.contains

/-- Bytes of a piece within one page: the tiers, a pool bank, the own galley, or lines that a remote window has sent. -/
def State.pieceRead (s : State) (n : Nat) (q : QCmd) (a k : Nat) : Except Stop Bytes :=
  let ag := tileAgent n q
  match s.xlate ag a 0 with
  | .error e => .error e
  | .ok w =>
    if s.region w.pa == .window then
      let first := w.pa / 64
      let lines := (List.range ((w.pa + k - 1) / 64 - first + 1)).map fun i => tabGet (fun _ => []) q.blocks (lineKeyOf (first + i))
      if lines.any (· == []) then .error (.remote w.pa k (w.pa, k)) else .ok (slice lines.flatten (w.pa % 64) k)
    else match (if s.region w.pa == .pool then s.bankStop ag w.pa else none) with
      | some e => .error e
      | none => if s.heldIn w.pa k then .error .held else match s.hostHeld q w.pa k, q.lostLine w.pa k with
        | some l, _ => .error (.hostLine l)
        | none, some l => .error (.poison (64 * l))
        | none, none => atLeaf a w.sizeLog2 (s.readPhys ag.ctx w.pa k)

/-- The accesses to remote windows that a virtual range makes, as virtual address, aperture address and length: pages that follow
one another in both spaces and lie in one slot are one access (R225, R313). -/
def State.windowRuns (s : State) (ag : Agent) (va n mode : Nat) : List (Nat × Nat × Nat) :=
  (pagePieces va n).foldl (fun acc (a, k) =>
    match s.xlate ag a mode with
    | .ok w =>
      if s.region w.pa == .window then
        match acc.getLast? with
        | some (b, p, m) =>
          if b + m = a ∧ p + m = w.pa ∧ slotOf p = slotOf w.pa then acc.dropLast ++ [(b, p, m + k)] else acc ++ [(a, w.pa, k)]
        | none => [(a, w.pa, k)]
      else acc
    | .error _ => acc) []

/-- A stop at lines of a remote window names the whole access of the operand. -/
def State.wholeAccess (s : State) (ag : Agent) (va n : Nat) : Stop → Stop
  | .remote a k whole => match (s.windowRuns ag va n 0).find? fun (_, p, m) => decide (p ≤ a ∧ a < p + m) with
    | some (_, p, m) => .remote a k (p, m)
    | none => .remote a k whole
  | e => e

/-- Bytes that a command of core `n` reads, in pieces: raw views go through the expander, before any translation (R213). -/
def State.viewedRead (s : State) (n : Nat) (q : QCmd) (plain : Nat → Nat → Except Stop Bytes) (va len : Nat) : Except Stop Bytes :=
  joinReads ((pieces 4096 (len / 4096 + 2) va len).map fun (a, k) =>
    if (s.viewAt (dieOf n) q.ctx a).isSome then
      match tabGet (fun _ => []) q.blocks (blockKeyOf a) with
      | [] => .error (.block (a / 4096 * 4096))
      | b => .ok (slice b (a % 4096) k)
    else plain a k)

/-- Bytes of an operand of a command of core `n`. -/
def State.tileRead (s : State) (n : Nat) (q : QCmd) (va len : Nat) : Except Stop Bytes :=
  s.viewedRead n q (fun a k => (s.pieceRead n q a k).mapError (s.wholeAccess (tileAgent n q) va len)) va len

/-- A run reads an operand. -/
def opRead (s : State) (n : Nat) (q : QCmd) (va len : Nat) : Run Bytes := do
  gather fun t => { t with looked := t.looked ++ [(va, len, 0)] }
  match s.tileRead n q va len with
  | .ok b => pure b
  | .error e => throw (.stop e)

/-- Output put after what a run has already to write; neighbouring pieces join. -/
def joinOut (outs : List (Nat × Bytes)) (va : Nat) (d : Bytes) : List (Nat × Bytes) :=
  match outs.getLast? with
  | some (a, b) => if a + b.length = va then outs.dropLast ++ [(a, b ++ d)] else outs ++ [(va, d)]
  | none => [(va, d)]

/-- A range that a command of core `n` writes must not meet a raw view (R213). -/
def noRawView (s : State) (n : Nat) (q : QCmd) (va len : Nat) : Run Unit :=
  match s.viewMet (dieOf n) q.ctx va len with
  | some a => throw (.rawWrite a)
  | none => pure ()

/-- A run writes output: the range must not meet a raw view and must be writable. -/
def opWrite (s : State) (n : Nat) (q : QCmd) (va : Nat) (d : Bytes) : Run Unit := do
  gather fun t => { t with looked := t.looked ++ [(va, d.length, 1)] }
  noRawView s n q va d.length
  let places := s.physPieces (tileAgent n q) va d.length
  match s.checkVa (tileAgent n q) va d.length, places.findSome? fun p => s.hostHeld q p.1 p.2 with
  | some e, _ => throw (.stop e)
  | none, some l => throw (.stop (.hostLine l))
  | none, none =>
    if places.any fun p => s.heldIn p.1 p.2 then throw (.stop .held) else gather fun t => { t with outs := joinOut t.outs va d }

/-! ## The end of a run -/

/-- What the look-ups of a run leave in the translation and region caches. -/
def noteLooked (n : Nat) (q : QCmd) (ls : List (Nat × Nat × Nat)) : Act := forA ls fun (va, len, w) =>
  forA (pieces 4096 (len / 4096 + 2) va len) fun (a, k) => fun s =>
    if (s.viewAt (dieOf n) q.ctx a).isSome then (if w = 0 then noteView (dieOf n) (tileAgent n q) a s else [])
    else noteWalks (tileAgent n q) a k w s

/-- A command asks its cluster's expander for a block. -/
def askBlock (n : Nat) (q : QCmd) (va : Nat) : Act := act [.cluster (clusterOf n) fun k =>
  if k.expReqs.any fun r => r.core == n && r.cmd == q.id && r.va == va && !r.gone then k
  else { k with expReqs := k.expReqs ++ [{ core := n, cmd := q.id, va := va, ctx := q.ctx, tag := q.tileTag }] }]

/-- A command waits for the page service. -/
def askPage (n : Nat) (q : QCmd) (va : Nat) (cow : Bool) : Act :=
  seqA [act [.pages fun p => { p with reqs := p.reqs ++ [{ cow := cow, ctx := q.ctx, core := n, cmd := q.id, va := va }] }],
    setCmd n q fun x => { x with run := .needsPage }]

/-- A command waits for a line that the host may hold: the line is back-invalidated (R291). -/
def askSnoop (n : Nat) (q : QCmd) (l : Nat) : Act := fun s =>
  let h : HeldAccess := { line := l, core := n, cmd := q.id }
  if s.port.heldAccesses.contains h then []
  else (if s.port.heldAccesses.any (·.line == l) then [] else [.out (.biSnoop l)]) ++
    [.port fun p => { p with heldAccesses := p.heldAccesses ++ [h] }]

/-- A run stops at an access. -/
def stopRun (n : Nat) (q : QCmd) : Stop → Act
  | .walk a l r => seqA [logXlt (tileAgent n q) a l r, stopCmd n q Cmd.translation a true 0 0]
  | .foreign a => stopCmd n q Cmd.translation a false 0 0
  | .address a => stopCmd n q Cmd.translation a false 0 0
  | .poison a => stopCmd n q Cmd.poison a false 0 0
  | .bank b => seqA [act [.inc (Fld.poolCntRefused b) 1], stopCmd n q Cmd.translation (bankOf b) false 0 0]
  | .bankHeld b wake => if wake then poolTarget b 0 else nothing
  | .remote a k whole => if q.opcode = 0x0D then stopCmd n q Cmd.translation a false 0 0 else askRemote n q a k whole
  | .block va => askBlock n q va
  | .page va cow => askPage n q va cow
  | .hostLine l => askSnoop n q l
  | .held => nothing

/-- A stop after which the command runs again later. -/
def Stop.waits (op : Nat) : Stop → Bool
  | .bankHeld _ _ => true
  | .remote _ _ _ => op != 0x0D
  | .block _ => true
  | .page _ _ => true
  | .hostLine _ => true
  | .held => true
  | _ => false

/-- What a core's units hold after a run. -/
def keepUnits (n : Nat) (t : Trace) : Act :=
  act [.core n fun x => { x with acc := t.accs, weights := t.weights, tables := t.tables, matchUnit := t.matchUnit, quantClip := t.quantClip }]

/-- The part of a virtual range that lies in remote windows, as pieces to send. -/
def State.windowPieces (s : State) (ag : Agent) (va : Nat) (d : Bytes) : List OutPiece :=
  (s.windowRuns ag va d.length 1).flatMap fun (a, p, k) => s.outPieces ag.ctx p (slice d (a - va) k)

/-- Every range that a run looked up is whole lines: none of its galley accesses is narrow (R157). -/
def Trace.wholeLines (t : Trace) : Bool := t.looked.all fun (va, len, _) => va % 64 == 0 && len % 64 == 0

/-- Core cycles pass: the wheel counter stands at an open phase (R156, log entry 51). -/
def wheelTurns (n : Nat) : Act := fun s => [.core n fun x => { x with wheel := (Config.freeWord s.free).setWidth 4 }, .draw]

/-- What a run that reached its operands adds to the counters of narrow galley accesses (R157), of cycles that the array
waited on weights (R45), and of cycles that it waited on AZR expansion (R138): open numbers (log entry 51). -/
def openCounts (n : Nat) (q : QCmd) (t : Trace) : Act :=
  if t.looked.isEmpty then nothing
  else
    let taa := decide (1 ≤ q.opcode ∧ q.opcode ≤ 5)
    seqA [wheelTurns n, if t.wholeLines then nothing else openCount (Fld.galCntNarrow n), if taa then openCount (Fld.coreCntStallWeightStall n) else nothing,
      if taa && (taaOf q.bytes).aSparse then openCount (Fld.coreCntActwaitCycles n) else nothing]

/-- A KV row written at or beyond its slot's committed position is pending (R270). -/
def notePending (c slot pos va len : Nat) : Act := fun s =>
  let r := s.req slot
  if r.state ≠ 0 ∧ r.ctx = c ∧ r.position ≤ pos then [.req slot fun r => { r with pendingRows := r.pendingRows ++ [(pos, va, len)] }] else []

/-- A completed run: its output is stored, or leaves for remote windows, and the command has finished. -/
def finishRun (n : Nat) (q : QCmd) (t : Trace) : Act := fun s =>
  let ag := tileAgent n q
  let unsent := t.outs.flatMap fun (va, d) => s.windowPieces ag va d
  let wrote := (t.rows ++ t.outs).flatMap fun (va, d) => s.physPieces ag va d.length
  let next := if unsent = [] then RunState.done else .sending
  seqA [keepUnits n t, forA (unsent.filter (·.coded)) (fun p => countBlocks (segCounts p.data)), forA t.rows fun (va, d) => storeVa (walkerAgent n q) va d, forA t.outs fun (va, d) => storeVaBut q.lost ag va d,
    forA t.pending (fun (slot, pos, va, len) => notePending q.ctx slot pos va len), stagesUndef n, act t.extra,
    setCmd n q (fun x => { x with
      run := next
      wrote := wrote
      unsent := unsent
      idle := t.idle
      misses := t.misses
      blocks := [] }),
    if unsent = [] then nothing else pumpSends n q.outKey, openCounts n q t] s

/-- A command as its run leaves it, whatever comes of it: its output region is known, and its pages are pinned (R266). -/
def QCmd.ran (q : QCmd) (region : List (Nat × Nat)) (t : Trace) : QCmd :=
  { q with region := region ++ t.rows.map (fun (va, d) => (va, d.length)), pins := t.pins }

/-- The pages that a run pinned beside those that its command had pinned. -/
def newPins (q : QCmd) (t : Trace) : List Nat := (pinned t.pins).filter fun p => !(pinned q.pins).contains p

/-- How a run ends: `q` is the command as the run leaves it. -/
def endRun (n : Nat) (q : QCmd) (t : Trace) : Except Halt Unit → Act
  | .ok () => finishRun n q t
  | .error .wait => nothing
  | .error (.stop e) =>
    if e.waits q.opcode then stopRun n q e else seqA [keepUnits n t, act t.onFail, stopRun n q e, openCounts n q t]
  | .error (.fault c a v d o) => seqA [keepUnits n t, act t.onFail, stopCmd n q c a v d o, openCounts n q t]
  | .error (.rawWrite va) => seqA [keepUnits n t, logCmp va q.ctx 0 (clusterOf n) Dec.write q.tileTag,
      stopCmd n q Cmd.translation va true 0 0, openCounts n q t]
  | .error .trigger => seqA [keepUnits n t, fun s => setCmd n q (fun x => { x with
      run := .triggered, wrote := q.region.flatMap fun (va, len) => s.physPieces (tileAgent n q) va len }) s, openCounts n q t]

/-- A run that ends now, and is no wait for something else. -/
def endsNow (op : Nat) : Except Halt Unit → Bool
  | .error .wait => false
  | .error (.stop e) => !e.waits op
  | _ => true

/-- A command runs on core `n`: `region` is its output region, `m` what its unit computes. The staging regions of the core's
commands hold undefined data before and after (R161). -/
def runUnit (n : Nat) (q : QCmd) (region : List (Nat × Nat)) (m : State → Run Unit) : Act := seqA [stagesUndef n, fun s =>
  let (r, t) := (m s).run.run (unitsOf (s.core n) q)
  let q' := q.ran region t
  seqA [noteLooked n q t.looked, if endsNow q.opcode r then forA t.bumps (fun (f, k) => profile f k) else nothing,
    setCmd n q (fun _ => q'), forA (newPins q t) pinPage, endRun n q' t r] s]

/-- The command that a core runs next, when it has an opcode: its run. Nothing runs before memory has come up (R190). -/
def runNext (n op : Nat) (f : QCmd → Act) : Act := fun s =>
  match (if s.tiersUp then s.nextOf n op else none) with
  | none => []
  | some q => seqA [demandDie (dieOf n), f q] s

/-! ## Expanders (R223, R224) -/

/-- The commands of a core that wait for a block. -/
def QCmd.wantsBlock (q : QCmd) (r : ExpReq) : Bool := !r.gone && q.id == r.cmd && q.run == .waiting

/-- A held command that waits for a block receives it. -/
def takeBlock (r : ExpReq) (c va : Nat) (data : Bytes) (q : QCmd) : QCmd :=
  if q.wantsBlock r && q.ctx == c then { q with blocks := tabSet (fun _ => []) q.blocks (blockKeyOf va) data } else q

/-- The requests of a cluster for a block of a context. -/
def State.expWaiting (s : State) (k c va : Nat) : List ExpReq :=
  (s.cluster k).expReqs.filter fun r => r.va == va && ((s.core r.core).queue.any fun q => q.wantsBlock r && q.ctx == c)

/-- A decoded block goes to everyone who waits for it. -/
def deliverBlock (k c va : Nat) (data : Bytes) : Act := fun s =>
  let rs := s.expWaiting k c va
  seqA [forA rs fun r => act [.core r.core fun x => { x with queue := x.queue.map (takeBlock r c va data) }],
    act [.cluster k fun x => { x with expReqs := x.expReqs.filter fun r => !(rs.contains r || r.gone) }]] s

/-- A block joins the buffers as the one last used; beyond 16 the one used longest ago is evicted. -/
def keepBlock (k c va : Nat) (data : Bytes) : Act := act [.cluster k fun x =>
  let bs := x.expBufs.filter (fun b => !(b.ctx == c && b.va == va)) ++ [⟨c, va, data⟩]
  let older := bs.take (bs.length - 16)
  { x with expBufs := bs.drop (bs.length - 16), expOld := x.expOld ++ (older.map fun b => (b.ctx, b.va)) }]

/-- A block cannot be delivered: every command that waits for it faults (R217, R224). -/
def blockFails (k c va : Nat) (f : Nat → QCmd → Act) : Act := fun s =>
  let rs := s.expWaiting k c va
  seqA [act [.cluster k fun x => { x with expReqs := x.expReqs.filter fun r => !(rs.contains r || r.gone) }],
    forA rs fun r => fun t => forA ((t.core r.core).queue.filter fun q => q.wantsBlock r && q.ctx == c) (f r.core) t] s

/-- The oldest request of a cluster's expander: one whose command still waits, or the one it was decoding (R224). -/
def State.expFirst (s : State) (k : Nat) : Option ExpReq :=
  (s.cluster k).expReqs.find? fun r => r.gone || (s.core r.core).queue.any (·.wantsBlock r)

/-- The expander as an agent for a request: stored forms are mapped like any other data (R213). -/
def ExpReq.agent (r : ExpReq) : Agent := { code := 0, ctx := r.ctx, core := r.core, tag := r.tag, onDie := true, tlb := true }

/-- The expander of a cluster serves its oldest request: from a buffer, or by decoding the block. -/
def expanderServe (k : Nat) : Act := seqA [demand 14, fun s =>
  match s.expFirst k with
  | none => [.cluster k fun x => { x with expReqs := [] }]
  | some r =>
    let c := r.ctx
    let ag := r.agent
    match (s.cluster k).expBufs.find? fun b => b.ctx == c && b.va == r.va with
    | some b => seqA [keepBlock k c r.va b.data, deliverBlock k c r.va b.data] s
    | none =>
      let again := if (s.cluster k).expOld.contains (c, r.va) then profile (Fld.cmpCntRedecodes k) 1 else nothing
      match s.viewAt (k / 16) c r.va with
      | none => [.cluster k fun x => { x with expReqs := x.expReqs.filter (· != r) }]
      | some (_, e) => withHost (·.segmentPlaces (k / 16) ag (viewOf e) r.va) (fun s => seqA [noteView (k / 16) ag r.va, noteSegment (k / 16) ag (viewOf e) r.va, again, match s.viewBlock (k / 16) ag (viewOf e) r.va with
          | .ok b => seqA [keepBlock k c r.va b, deliverBlock k c r.va b]
          | .error (.format d) => seqA [logCmp r.va c 0 k d r.tag, blockFails k c r.va fun n o => failCmd n o Cmd.format]
          | .error (.access (.walk a l x)) =>
            seqA [logXlt ag a l x, blockFails k c r.va fun n o => stopCmd n o Cmd.translation a true 0 0]
          | .error (.access (.bankHeld b wake)) => if wake then poolTarget b 0 else nothing
          | .error (.access (.poison a)) => blockFails k c r.va fun n o => stopCmd n o Cmd.poison a false 0 0
          | .error (.access _) => blockFails k c r.va fun n o => stopCmd n o Cmd.translation r.va true 0 0,
          openCount (Fld.cmpCntWait k)] s) s]

/-- EXPANDER_BLOCK_DECODED (R217, R223, R224). -/
def execExpanderBlockDecoded (cluster : ClusterId) (s : State) : Host.Outcome State Fault Refusal := done (expanderServe cluster) s

end Sys2Proof.Machine
end

