-- ==== Sys2Proof/Machine/Taa.lean ====
section
/-! DEFINITION. TAA commands on the adder array and, for routed layers, on the conventional unit; reprint.
R43 to R57, R60, R64, R68, R69, R78, R86 to R93, R102 to R108, R123 to R127, R130, R134 to R138, R147 to R153. -/

namespace Sys2Proof.Machine

open Sys2Proof

/-! ## Checks (R48, R57, R60, R62, R64, R88 to R90, R93, R130, R137, R147) -/

/-- The layer of a command lies in a NUMERICS range of its context: it runs on the conventional unit (R57). -/
def State.routed (s : State) (c layer : Nat) : Bool := (s.image c).numerics.ranges.any fun (a, b) => decide (a ≤ layer ∧ layer ≤ b)

/-- Formats of an opcode: TAA_PLANE takes A4 and A2, table mode A8, the others A8 and A16 (R64). -/
def taaActOk (op f : Nat) : Bool :=
  match op with
  | 5 => f == 1 || f == 2
  | 4 => f == 0
  | _ => f == 0 || f == 3

/-- Field combinations of a TAA command (check step 3 of R68). The second case of R88 cannot arise once the first is excluded: every
split then starts on a block boundary, and the command does not name the layer's base from which another start could be told (log
entry 37). -/
def taaShapeOk (op : Nat) (routed : Bool) (b : Bytes) : Bool :=
  let t := taaOf b
  stageOk t.stageBase t.stageLines && t.splitLog2 ≤ 4 && t.splitIdx < 2 ^ t.splitLog2 && 1 ≤ t.columns && t.columns ≤ 64 &&
  1 ≤ t.kSlices && taaActOk op t.actFmt && t.kSlices * 64 % t.block == 0 &&
  (op != 4 || (128 ≤ t.block && t.kSlices % 2 == 0)) &&
  (!t.transpose || ((op == 1 || op == 5) && 64 ≤ t.block)) &&
  t.sVa % 64 == 0 && fFin t.tscale &&
  (!t.wSparse || ((op == 1 || op == 5 || routed) && t.wVa % 8 == 0)) &&
  (if t.aSparse then t.actFmt == 0 && t.kSlices % 4 == 0 && !t.rowList && t.aVa % 8 == 0
    else t.aVa % (8 * actBits t.actFmt) == 0) &&
  (!t.rowList || ((op == 1 || op == 5) && t.splitLog2 == 0 && t.aVa % 64 == 0)) &&
  (!routed || t.wideVa != 0)

/-! ## List blocks (Table 6.7, R147, R151) -/

/-- Entries of a list block: active, then audit. -/
def listActive (l : Bytes) : List Nat := (List.range (fieldAt l 0 2)).map fun i => fieldAt l (0x40 + 2 * i) 2
/-- Audit entries of a list block. -/
def listAudit (l : Bytes) : List Nat := (List.range (fieldAt l 2 2)).map fun i => fieldAt l (0x40 + 2 * (fieldAt l 0 2 + i)) 2
/-- Bundles in the layer. -/
def listGroups (l : Bytes) : Nat := fieldAt l 4 2

/-- The first entry of a list block that is out of range, not ascending, or repeats a bundle. -/
def listBad (l : Bytes) : Option Nat :=
  let n := fieldAt l 0 2
  let es := listActive l ++ listAudit l
  (List.range es.length).find? fun i =>
    let e := es.getD i 0
    decide (listGroups l ≤ e) || (i != 0 && i != n && decide (e ≤ es.getD (i - 1) 0)) || (decide (n ≤ i) && (listActive l).contains e)

/-- The check of a list block for a command with a period tag, given the serial of the context's period: when it fails, a detail of
Table 6.8 and the byte offset of the failing entry, 0 for the block's header (log entry 37). -/
def listCheck (l : Bytes) (tag serial : Nat) : Except (Nat × Nat) Unit :=
  let n := fieldAt l 0 2
  if n = 0 ∨ 1024 < n ∨ 64 < fieldAt l 2 2 ∨ listGroups l = 0 ∨ 1024 < listGroups l then .error (0x08, 0)
  else match listBad l with
    | some i => .error (0x08, 0x40 + 2 * i)
    | none =>
      if fieldAt l 0x0C 2 ≠ tag ∨ (tag ≠ 0 ∧ fieldAt l 0x10 8 ≠ serial) then .error (0x09, 0)
      else if fieldAt l 6 2 ≠ 0 ∨ fieldAt l 0x0E 2 ≠ 0 ∨ !allZero (slice l 0x18 40) then .error (0x0C, 0)
      else .ok ()

/-! ## The plan of a pass -/

/-- What a pass works on: the command, its opcode and format (a code of Table 3.5), and the list entries that it takes. -/
structure Pass where
  s : State
  n : Nat
  q : QCmd
  t : TaaCmd
  fmt : Nat
  routed : Bool
  wide : Bool
  list : Bytes
  entries : List Nat

/-- The pass runs in table mode: 128-position slices and columns in groups of eight (R49). -/
def Pass.table (p : Pass) : Bool := p.q.opcode == 4 && !p.wide && !p.routed
/-- Weight tiles are code tiles of 128 positions. -/
def Pass.codeTiles (p : Pass) : Bool := p.q.opcode == 4
/-- Stored tiles are code tiles of 128 positions; a sparse layer holds 64 × 64 tiles for every opcode (R86, R130). -/
def Pass.codeStored (p : Pass) : Bool := p.codeTiles && !p.t.wSparse
/-- The list selects K-slices (R149). -/
def Pass.listK (p : Pass) : Bool := p.t.rowList && p.t.transpose
/-- Positions of a slice of the pass. -/
def Pass.width (p : Pass) : Nat := if p.table then 128 else 64
/-- Slices of the pass. -/
def Pass.slices (p : Pass) : Nat :=
  if p.listK then p.entries.length else if p.table then p.t.kSlices / 2 else p.t.kSlices
/-- Elements of a block as the sums close: in a transposed load each slice is a forward row group with its own scale (R60, R149). -/
def Pass.blockLen (p : Pass) : Nat := if p.t.transpose then 64 else p.t.block
/-- Row groups that the command computes. -/
def Pass.groups (p : Pass) : Nat := if p.t.rowList && !p.t.transpose then p.entries.length else p.t.rows / 64
/-- Stored row group of row group `g` (R148). -/
def Pass.stored (p : Pass) (g : Nat) : Nat := if p.t.rowList && !p.t.transpose then p.entries.getD g 0 else g
/-- Splits of the layer. -/
def Pass.splits (p : Pass) : Nat := 2 ^ p.t.splitLog2
/-- K of the activation operand (R93, R149). -/
def Pass.fullK (p : Pass) : Nat := if p.listK then listGroups p.list * 64 else p.t.kSlices * p.splits * 64

/-- Number of the stored tile of row group `g` and slice `i` (R86, R130, R149). -/
def Pass.tileNo (p : Pass) (g i : Nat) : Nat :=
  if p.listK then p.entries.getD i 0 * p.t.kSlices + g
  else p.stored g * (if p.codeStored then p.t.kSlices / 2 else p.t.kSlices) * p.splits + (if p.codeStored && !p.table then i / 2 else i)

/-- Address of the scale line of row group `g` and block `b` (R89, R149). In a plain transposed load block `b` is the forward row group
of slice `b`, and the row groups of one forward block share its scale (R60, log entry 37). -/
def Pass.scaleVa (p : Pass) (g b : Nat) : Nat :=
  if p.listK then p.t.sVa + (p.entries.getD b 0 * (p.t.kSlices * 64 / p.t.block) + 64 * g / p.t.block) * 64
  else if p.t.transpose then p.t.sVa + (64 * g / p.t.block * (p.t.kSlices * p.splits) + b) * 64
  else p.t.sVa + (p.stored g * (p.t.kSlices * p.splits * 64 / p.t.block) + b) * 64

/-! ## Weights -/

/-- A SPARSE fault with its detail and the byte offset from an operand's base. -/
def sparseHalt {α : Type} (detail addr base : Nat) : Run α :=
  throw (.fault Cmd.sparse 0 false detail ((addr + 2 ^ 57 - base) % 2 ^ 32))

/-- The threshold of a sparse weight format in percent (R136). -/
def sparseThr (x : SparseSettings) (fmt : Nat) : Nat := match fmt with | 1 => x.thrWzr | 2 => x.thrG28 | _ => x.thrG416

/-- A stored sparse tile: its trits, or none for an all-zero tile (R130 to R136). -/
def Pass.sparseTile (p : Pass) (no : Nat) : Run (Option (List Int)) := do
  let ea := p.t.wVa + no * 8
  let (fmt, len, off) := indexEntry (← opRead p.s p.n p.q ea 8)
  let body := (ea + off) % 2 ^ 57
  let st := (p.s.image p.q.ctx).sparsity
  match weightIndexOk st.formats fmt len with
  | .error d => sparseHalt d ea p.t.wVa
  | .ok () =>
    if len = 0 then
      bump (Fld.coreCntSparseSkipped p.n) 1
      pure none
    else
      let b ← opRead p.s p.n p.q body len
      if fmt = 0 then
        match t5bTile b with
        | none => halt Cmd.format
        | some ts => pure (some ts)
      else match (if fmt = 1 then wzrTile b else if fmt = 2 then g28Tile b else g416Tile b) with
        | .error d => sparseHalt d body p.t.wVa
        | .ok ts =>
          if sparseThr st fmt * 4096 < (ts.filter (· != 0)).length * 100 then bump (Fld.coreCntSparseAboveThr p.n) 1 else pure ()
          pure (some ts)

/-- A decoded tile enters the weight registers, unless the command runs on the conventional unit (R57, R129, R134). -/
def Pass.loaded (p : Pass) (rows : List (List Int)) : Run (Option (List (List Int))) := do
  if p.routed then pure () else gather (·.load (.tile rows.flatten))
  pure (some rows)

/-- The weights of row group `g` and slice `i`, 64 rows; none for an all-zero tile. -/
def Pass.tile (p : Pass) (g i : Nat) : Run (Option (List (List Int))) := do
  let no := p.tileNo g i
  if p.t.wSparse then
    match ← p.sparseTile no with
    | none => pure none
    | some ts => p.loaded (if p.t.transpose then transposeOf 64 (rowsOf 64 ts) else rowsOf 64 ts)
  else
    let size := tileBytes p.q.opcode
    let b ← opRead p.s p.n p.q (p.t.wVa + no * size) size
    match rawTile p.q.opcode b with
    | none => halt Cmd.format
    | some ts =>
      let rows := rowsOf (if p.codeTiles then 128 else 64) ts
      if p.table then do
        gather (·.load (.codes b))
        pure (some rows)
      else p.loaded (if p.t.transpose then transposeOf 64 rows
        else if p.codeTiles then rows.map fun r => (r.drop (64 * (i % 2))).take 64 else rows)

/-! ## Activations -/

/-- The activations of column `c` and slice `i` in the pass format: none for a marker (R91 to R93, R125, R137). -/
def Pass.acts (p : Pass) (c i : Nat) : Run (List (Option Int)) := do
  let w := p.width
  if p.wide then
    let b ← opRead p.s p.n p.q (p.t.wideVa + c * alignUp (2 * p.fullK) 64 + 2 * w * i) (2 * w)
    pure ((List.range w).map fun j => quantUnit p.fmt (bf16v (fieldAt b (2 * j) 2)))
  else if p.t.aSparse then
    let ea := p.t.aVa + (c * (p.t.kSlices * p.splits / 4) + w * i / 256) * 8
    let (fmt, len, off) := indexEntry (← opRead p.s p.n p.q ea 8)
    let body := (ea + off) % 2 ^ 57
    match actIndexOk (p.s.image p.q.ctx).sparsity.formats fmt len with
    | .error d => sparseHalt d ea p.t.aVa
    | .ok () =>
      let part (xs : List (Option Int)) := (xs.drop (w * i % 256)).take w
      if fmt = 2 then pure (List.replicate w (some 0))
      else
        let b ← opRead p.s p.n p.q body len
        if fmt = 0 then pure (part (actUnpack 0 b))
        else match azrBlock b with
          | .error d => sparseHalt d body p.t.aVa
          | .ok cs => pure (part (cs.map (actOf 0)))
  else
    let k := w * actBits p.fmt / 8
    let b ← opRead p.s p.n p.q (p.t.aVa + c * actPitch p.fmt p.fullK + k * i) k
    pure (actUnpack p.fmt b)

/-- The activations of column `c` and slice `i` of a routed command, in BF16 (R57). -/
def Pass.bfActs (p : Pass) (c i : Nat) : Run (List Nat) := do
  let w := p.width
  let b ← opRead p.s p.n p.q (p.t.wideVa + c * alignUp (2 * p.fullK) 64 + 2 * w * i) (2 * w)
  pure ((List.range w).map fun j => fieldAt b (2 * j) 2)

/-! ## Blocks and accumulators (R103 to R107) -/

/-- |x| of an FP32 code. -/
def fAbs (x : F32) : F32 := x &&& 0x7FFFFFFF#32

/-- The Neumaier step (R105). -/
def accAdd (p : Pair) (t : F32) : Pair :=
  let sum := fAdd p.s t
  if fLt (fAbs p.s) (fAbs t) then ⟨sum, fAdd p.c (fAdd (fSub t sum) p.s)⟩
  else ⟨sum, fAdd p.c (fAdd (fSub p.s sum) t)⟩

/-- The drained value (R105). -/
def drainValue (p : Pair) (tscale : F32) : F32 := fMul tscale (fAdd p.s p.c)

/-- A block term from a whole block sum and a scale of 1 to 254. -/
def blockTerm (sum : Int) (e : Nat) : F32 := dyF32 ⟨sum, (e : Int) - 127⟩

/-- A sum of products of whole numbers. -/
def dotInt (xs ys : List Int) : Int := (List.zipWith (· * ·) xs ys).foldl (· + ·) 0

/-- Markers among activations. -/
def markers (xs : List (Option Int)) : Nat := (xs.filter (·.isNone)).length

/-- A segment of a slice joins the block sums of a column (R92). -/
def ColAcc.addSeg (a : ColAcc) (rows : Option (List (List Int))) (lo z : Nat) (acts : List (Option Int)) : ColAcc :=
  let seg := (acts.drop lo).take z
  let xs := seg.map (·.getD 0)
  { a with
    clip := min 255 (a.clip + markers seg)
    sums := match rows with
      | none => a.sums
      | some rs => List.zipWith (fun s r => s + dotInt ((r.drop lo).take z) xs) a.sums rs }

/-- Causes of a reprint trigger that a block of one column shows as it closes (R123), and the column after it. -/
structure Closed where
  clip : Bool := false
  beyond : Bool := false
  nonfinite : Bool := false
  acc : ColAcc

/-- A block of `len` elements of one column closes with its scale bytes (R87, R104, R105, R123). -/
def ColAcc.close (a : ColAcc) (len thr : Nat) (scales : List Nat) : Closed :=
  let beyond (x : Int) : Bool := 2 ^ 24 < x.natAbs
  let pairs := List.zipWith (fun (p : Pair) (x : Int × Nat) => if x.2 = 0 ∨ x.2 = 255 ∨ beyond x.1 then p else accAdd p (blockTerm x.1 x.2))
    a.pairs (a.sums.zip scales)
  let terms := List.zipWith (fun (x : Int) e => e == 0 || e == 255 || beyond x || fFin (blockTerm x e)) a.sums scales
  { clip := decide (thr * len < a.clip * 1024), beyond := a.sums.any beyond
    nonfinite := scales.contains 255 || terms.contains false || pairs.any fun p => !fFin p.s || !fFin p.c
    acc := { pairs := pairs, closed := a.closed + 1 } }

/-- Counts the causes of a trigger, once each, and stops the pass (R127). -/
def triggerOn (n : Nat) (clip beyond nonfinite : Bool) : Run Unit := do
  bump (Fld.coreCntNumClip n) (b2n clip)
  bump (Fld.coreCntNumOverflow n) (b2n beyond)
  bump (Fld.coreCntNumNonfinite n) (b2n nonfinite)
  if clip || beyond || nonfinite then throw .trigger else pure ()

/-- The 64 scale bytes of row group `g` and block `b`; a transposed load uses the first one for all (R60). -/
def Pass.scales (p : Pass) (g b : Nat) : Run (List Nat) := do
  let l ← opRead p.s p.n p.q (p.scaleVa g b) 64
  pure (if p.t.transpose then List.replicate 64 (fieldAt l 0 1) else l.map (·.toNat))

/-! ## Bit-plane skipping (R51) -/

/-- Positions where some row of a lane group holds a non-zero weight. -/
def laneMask (rows : List (List Int)) (k : Nat) : List Bool :=
  (List.range 64).map fun j => ((rows.drop (16 * k)).take 16).any fun r => r.getD j 0 != 0

/-- Planes that the four lane groups skip in one column. -/
def planesSkipped (planes : Nat) (rows : List (List Int)) (acts : List (Option Int)) : Nat :=
  ((List.range 4).map fun k =>
    let m := laneMask rows k
    ((List.range planes).filter fun p =>
      (List.zipWith (fun b (x : Option Int) => b && bitOf (x.getD 0).natAbs p) m acts).all (! ·)).length).sum

/-! ## The conventional unit (R57, R117) -/

/-- A pairwise tree of FP32 sums; `fuel` bounds its levels. -/
def pairTree : Nat → List F32 → F32
  | 0, xs => xs.headD 0
  | _, [x] => x
  | f + 1, xs => pairTree f ((chunksOf 2 xs.length xs).map fun g => match g with
    | [a, b] => fAdd a b
    | _ => g.headD 0)

/-- Products added 16 at a time to a running FP32 sum, in ascending order. -/
def cuSum (acc : F32) (products : List F32) : F32 :=
  (chunksOf 16 (products.length / 16 + 1) products).foldl (fun a g => fAdd a (pairTree 4 g)) acc

/-- A decoded weight times its block scale in BF16; a scale of 255 gives NaN. -/
def cuWeight (w : Int) (e : Nat) : Fv := if e = 255 then .nan else if e = 0 then .fin false Dy.zero else bf16v ((Fv.fin false ⟨w, (e : Int) - 127⟩).encode bf16)

/-- One segment of a routed column: `scales` are those of the segment's block. -/
def ColAcc.cuSeg (a : ColAcc) (rows : Option (List (List Int))) (scales : List Nat) (lo z : Nat) (acts : List Nat) : ColAcc :=
  match rows with
  | none => a
  | some rs =>
    let xs := ((acts.drop lo).take z).map bf16v
    { a with wide := List.zipWith (fun s (r : List Int × Nat) =>
        cuSum s (List.zipWith (fun w x => toF32 ((cuWeight w r.2).mul x)) ((r.1.drop lo).take z) xs)) a.wide (rs.zip scales) }

/-- A routed block closes: its sum is the block term. -/
def ColAcc.cuClose (a : ColAcc) (scales : List Nat) : ColAcc :=
  { pairs := List.zipWith (fun p (x : F32 × Nat) => if x.2 = 0 then p else accAdd p x.1) a.pairs (a.wide.zip scales)
    closed := a.closed + 1 }

/-! ## A fill of an accumulator tile -/

/-- A column in progress is what the accumulator view shows (R128). -/
def showColumn (key : Nat) (a : ColAcc) : Run Unit :=
  gather fun t => { t with fill := t.fill.map fun f => { f with accs := tabSet (fun _ => {}) f.accs key a } }

/-- One column of a slice: its segments, each closing its block where it ends one. Every cause that the cycle shows is counted (R127). -/
def Pass.column (p : Pass) (key g i : Nat) (rows : Option (List (List Int))) (a : ColAcc) (c : Nat) : Run ColAcc := do
  let w := p.width
  let z := min p.blockLen w
  let thr := (p.s.image p.q.ctx).numerics.clipThreshold
  let bf ← if p.routed then p.bfActs c i else pure []
  let xs ← if p.routed then pure [] else p.acts c i
  if !p.routed && (p.fmt = 1 ∨ p.fmt = 2) then
    match rows with
    | some rs => bump (Fld.coreCntPlanePlanesSkipped p.n) (planesSkipped (if p.fmt = 1 then 3 else 1) rs xs)
    | none => pure ()
  let r ← (List.range (w / z)).foldlM (fun (r : Closed) j => do
    let stop := w * i + z * (j + 1)
    let b := (stop - 1) / p.blockLen
    if p.routed then
      let e ← p.scales g b
      let a := r.acc.cuSeg rows e (z * j) z bf
      pure { r with acc := if stop % p.blockLen = 0 then a.cuClose e else a }
    else
      let a := r.acc.addSeg rows (z * j) z xs
      if stop % p.blockLen = 0 then
        let x := a.close p.blockLen thr (← p.scales g b)
        pure { clip := r.clip || x.clip, beyond := r.beyond || x.beyond, nonfinite := r.nonfinite || x.nonfinite, acc := x.acc }
      else pure { r with acc := a }) { acc := a }
  showColumn key r.acc
  triggerOn p.n r.clip r.beyond r.nonfinite
  pure r.acc

/-- Every column of a slice holds zero activations (R138). -/
def Pass.idleSlice (p : Pass) (cols : List Nat) (i : Nat) : Run Bool := do
  if p.t.aSparse && !p.wide && !p.routed then
    let xs ← cols.mapM fun c => p.acts c i
    pure (xs.all fun x => x.all (· == some 0))
  else pure false

/-- The entries of the tables of a slice: for each group of four activations the 41 sums of R47. -/
def tableEntries (xs : List (Option Int)) : List Int :=
  (chunksOf 4 32 xs).flatMap fun g => (List.range 41).map fun i => dotInt (tritsOf 4 (i + 40)) (g.map (·.getD 0))

/-- One slice of a fill: each row group's tile is applied to each column. -/
def Pass.slice (p : Pass) (gs cols : List Nat) (accs : List (List ColAcc)) (i : Nat) : Run (List (List ColAcc)) := do
  if p.table then
    bump (Fld.coreCntPlaneTableBuilds p.n) 1
    let xs ← cols.mapM fun c => p.acts c i
    gather fun t => { t with tables := (xs.flatMap tableEntries :: t.tables).take 2 }
  let idle ← p.idleSlice (List.range p.t.columns) i
  (gs.zip accs).zipIdx.mapM fun ((g, as), gi) => do
    let rows ← if idle then (do bump (Fld.coreCntSparseSkipped p.n) 1; pure none) else p.tile g i
    (cols.zip as).zipIdx.mapM fun ((c, a), ci) => p.column (64 * gi + ci) g i rows a c

/-- A drained value in the output format. -/
def outBytes (bf : Bool) (x : F32) : Bytes := if bf then leBytes 2 (toBf16 x) else leBytes 4 x.toNat

/-- A drained value as its consumer reads it. -/
def outValue (bf : Bool) (x : F32) : F32 := if bf then ofBf16 (toBf16 x) else x

/-- Width of an output element. -/
def TaaCmd.outWidth (t : TaaCmd) : Nat := if t.outFmt = 1 then 2 else 4

/-- Place of the first row of row group `g` in column `c` of the output (R67, R148); none for an audit entry. `base` is the
number of the command's first list entry. -/
def Pass.outVa (p : Pass) (base g c : Nat) : Option Nat :=
  let e := p.t.outWidth
  if p.t.rowList && !p.t.transpose then
    if base + g < fieldAt p.list 0 2 then some (p.t.oVa + c * listGroups p.list * 64 * e + (base + g) * 64 * e) else none
  else some (p.t.oVa + c * p.t.rows * e + 64 * g * e)

/-- The drain of one row group and column (R106, R123, R150). -/
def Pass.drain (p : Pass) (base g c : Nat) (a : ColAcc) : Run Unit := do
  let ys := a.pairs.map (drainValue · p.t.tscale)
  if !p.routed then triggerOn p.n false false (ys.any (!fFin ·))
  let bf := p.t.outFmt == 1
  if p.t.rowList && !p.t.transpose then
    let zs := ys.map fun y => fAbs (outValue bf y)
    let thr : F32 := BitVec.ofNat 32 (fieldAt p.list 8 4)
    let above := zs.any fun z => f32v z == .nan || fLt thr z
    if base + g < fieldAt p.list 0 2 then gather fun t => { t with idle := t.idle + b2n (!above) }
    else gather fun t => { t with misses := t.misses + b2n above }
  match p.outVa base g c with
  | none => pure ()
  | some va => opWrite p.s p.n p.q va (ys.flatMap (outBytes bf))

/-- A fill of an accumulator tile: row groups and columns through every slice, then the drain (R49, R55). -/
def Pass.fill (p : Pass) (base tile : Nat) (gs cols : List Nat) : Run Unit := do
  let start := gs.map fun _ => cols.map fun _ => ({} : ColAcc)
  gather fun t => { t with acc := t.accs, fill := some { tile := tile, groups := gs.length, cols := cols.length } }
  let accs ← (List.range p.slices).foldlM (p.slice gs cols) start
  (gs.zip accs).forM fun (g, as) => (cols.zip as).forM fun (c, a) => p.drain base g c a

/-- The fills of a pass in order: in table mode one for each eight columns, otherwise one for each row group. -/
def Pass.fills (p : Pass) : List (List Nat × List Nat) :=
  let gs := List.range p.groups
  let cols := List.range p.t.columns
  if p.table then (chunksOf 8 8 cols).map fun cs => (gs, cs) else gs.map fun g => ([g], cols)

/-- A pass of a command. -/
def Pass.run (p : Pass) (base : Nat) : Run Unit :=
  p.fills.zipIdx.forM fun ((gs, cols), i) => p.fill base (i % 2) gs cols

/-! ## A TAA command -/

/-- The rows of each column that no active bundle covers are zero (R148). -/
def zeroFill (t : TaaCmd) (l : Bytes) : List (Nat × Nat) :=
  let e := t.outWidth
  (List.range t.columns).map fun c =>
    (t.oVa + c * listGroups l * 64 * e + fieldAt l 0 2 * 64 * e, (listGroups l - fieldAt l 0 2) * 64 * e)

/-- The list block of a command: what the hub read, or the bytes in front of a_va when the hub could not read them. -/
def rowListOf (s : State) (n : Nat) (q : QCmd) : Run Bytes := do
  let t := taaOf q.bytes
  if !t.rowList then pure []
  else
    let l ← if q.list = [] then opRead s n q (t.aVa - 4096) 4096 else pure q.list
    match listCheck l q.periodTag (s.period q.ctx).serial with
    | .error (d, off) => throw (.fault Cmd.sparse 0 false d off)
    | .ok () => pure l

/-- What a TAA command computes, in the format of its pass. -/
def taaRun (n : Nat) (q : QCmd) (s : State) : Run Unit := do
  let t := taaOf q.bytes
  let routed := s.routed q.ctx t.layer
  need (taaCodesOk q.bytes) Cmd.command
  need (taaShapeOk q.opcode routed q.bytes) Cmd.shape
  let l ← rowListOf s n q
  let all := if t.transpose then listActive l else listActive l ++ listAudit l
  let entries := if q.parent then (all.drop q.entry).take (t.rows / 64) else all
  let p : Pass := { s := s, n := n, q := q, t := t, fmt := q.pass.getD t.actFmt, routed := routed, wide := q.pass.isSome, list := l, entries := entries }
  p.run q.entry
  if t.rowList && !t.transpose && !q.parent then
    (zeroFill t l).forM fun (va, k) => if k = 0 then pure () else opWrite s n q va (zeros k)

/-- The output region of a TAA command (R67, R148). -/
def taaRegion (q : QCmd) : List (Nat × Nat) :=
  let t := taaOf q.bytes
  let e := t.outWidth
  if t.rowList && !t.transpose then [(t.oVa, t.columns * listGroups q.list * 64 * e)] else [(t.oVa, t.columns * t.rows * e)]

/-- A TAA command runs. -/
def taaCmd (n : Nat) (q : QCmd) : Act := runUnit n q (taaRegion q) (taaRun n q)

/-! ## Reprint (R69, R123 to R127) -/

/-- The next wider format of Table 5.9, as a code of Table 3.5; none after A16. -/
def widerFmt (f : Nat) : Option Nat :=
  match f with
  | 2 => some 1
  | 1 => some 0
  | 0 => some 3
  | _ => none

/-- The first held command that a trigger has stopped. -/
def State.triggered (s : State) (n : Nat) : Option QCmd := (s.core n).queue.find? (·.run == .triggered)

/-- A triggered command reprints at the next wider format, or ends with a NUMERIC fault. -/
def reprint (n : Nat) : Act := fun s =>
  match s.triggered n with
  | none => []
  | some q =>
    let t := taaOf q.bytes
    let fail := setCmd n q fun x => { x with run := .faulted Cmd.numeric 0 false 0 0 }
    match widerFmt (q.pass.getD t.actFmt) with
    | none => fail s
    | some f =>
      if t.wideVa = 0 ∨ (s.image q.ctx).numerics.reprintMax ≤ q.reprints then fail s
      else
        let q' := { q with run := .waiting, pass := some f, reprints := q.reprints + 1 }
        seqA [setCmd n q fun _ => q', act [.inc (Fld.coreCntRetryReprints n) 1], taaCmd n q'] s

/-! ## Row lists at the hub (R147 to R149) -/

/-- The hub as an agent for a command. -/
def hubAgent (q : QCmd) : Agent := { code := 0, ctx := q.ctx, core := 0x7FF, tag := q.tileTag }

/-- A range that the hub can fill with zeros itself. -/
def State.hubWritable (s : State) (q : QCmd) (va len : Nat) : Bool :=
  len == 0 || ((s.checkVa (hubAgent q) va len).isNone &&
    (pieces 4096 (len / 4096 + 2) va len).all fun (a, _) => (s.viewAt 4 q.ctx a).isNone)

/-- The sub-tiles of a command, each with its first entry (R148). -/
def subTiles (q : QCmd) (l : Bytes) : List QCmd :=
  let r := (taaOf q.bytes).rows / 64
  (List.range (ceilDiv (fieldAt l 0 2 + fieldAt l 2 2) r)).map fun i =>
    { q with parent := true, listed := true, list := l, entry := i * r }

/-- The hub reads the list block of the oldest command of a group once, and expands the command (R147, R148). A block that
the hub cannot read is left to the core; one that fails its check travels with the command, which faults on it. -/
def rowListExpand (c g : Nat) : Act := fun s =>
  match s.hubHead c g with
  | none => []
  | some q =>
    if (s.groupWith c g).isNone ∨ !q.needsList ∨ q.listed then []
    else
      let t := taaOf q.bytes
      let keep (l : Bytes) : Act := act [.hub fun h => { h with queue := modFirst (· == q) (fun x => { x with listed := true, list := l }) h.queue }]
      match s.readVa (hubAgent q) (t.aVa - 4096) 4096 with
      | .error _ => keep [] s
      | .ok l =>
        let fills := zeroFill t l
        match listCheck l q.periodTag (s.period c).serial with
        | .error _ => keep l s
        | .ok () =>
          if t.transpose ∨ !taaCodesOk q.bytes ∨ !taaShapeOk q.opcode (s.routed c t.layer) q.bytes ∨
            fills.any (fun (va, k) => !s.hubWritable q va k) then keep l s
          else seqA [forA fills fun (va, k) => storeVa (hubAgent q) va (zeros k),
            act [.hub fun h => { h with queue := h.queue.flatMap fun x => if x == q then subTiles q l else [x] }]] s

/-! ## The commands -/

/-- TAA_DENSE (R43, R44, R53, R105 to R108). -/
def execTaaDense (core : CoreId) (s : State) : Host.Outcome State Fault Refusal := done (runNext core 1 (taaCmd core)) s

/-- TAA_SHIFT1 (R44, R83). -/
def execTaaShift1 (core : CoreId) (s : State) : Host.Outcome State Fault Refusal := done (runNext core 2 (taaCmd core)) s

/-- TAA_SHIFT2 (R44, R84). -/
def execTaaShift2 (core : CoreId) (s : State) : Host.Outcome State Fault Refusal := done (runNext core 3 (taaCmd core)) s

/-- TAA_TABLE (R47 to R50, R85). -/
def execTaaTable (core : CoreId) (s : State) : Host.Outcome State Fault Refusal := done (runNext core 4 (taaCmd core)) s

/-- TAA_PLANE (R51, R52). -/
def execTaaPlane (core : CoreId) (s : State) : Host.Outcome State Fault Refusal := done (runNext core 5 (taaCmd core)) s

/-- REPRINT_TRIGGER (R69, R123 to R127). -/
def execReprintTrigger (core : CoreId) (s : State) : Host.Outcome State Fault Refusal := done (reprint core) s

/-- ROW_LIST_EXPANSION (R147, R148). -/
def execRowListExpansion (ctx : Ctx) (group : GroupId) (s : State) : Host.Outcome State Fault Refusal := done (rowListExpand ctx group) s

end Sys2Proof.Machine
end

