-- ==== Sys2Proof/Machine/Cu.lean ====
section
/-! DEFINITION. CU_GEMM and CU_WGRAD on the conventional unit. R56, R61, R65, R67, R97, R98, R117. Operand layouts that R65
leaves to Table 3.5: log entry 38. -/

namespace Sys2Proof.Machine

open Sys2Proof

/-! ## Floating-point operands -/

/-- Bytes of an element of a floating-point format, by the codes of Table 3.6: 0 FP32, 1 BF16, 2 E4M3, 3 E5M2. -/
def fltWidth (f : Nat) : Nat := match f with | 0 => 4 | 1 => 2 | _ => 1

/-- The format of a code. -/
def fltFmt (f : Nat) : FFmt := match f with | 0 => fp32 | 1 => bf16 | 2 => e4m3 | _ => e5m2

/-- The values of packed elements. -/
def fltUnpack (f : Nat) (b : Bytes) : List Fv :=
  (List.range (b.length / fltWidth f)).map fun i => Fv.decode (fltFmt f) (fieldAt b (fltWidth f * i) (fltWidth f))

/-- Values rounded once into a format and packed (R98). -/
def fltPack (f : Nat) (vs : List Fv) : Bytes := vs.flatMap fun v => leBytes (fltWidth f) (v.encode (fltFmt f))

/-- The input format of a CU command as a code of Table 3.6. -/
def cuFmt (t : TaaCmd) : Nat := t.actFmt + 1

/-! ## Checks (R65) -/

/-- Rsvd fields and reserved codes: those of Table 3.5, and input format 3. -/
def cuCodesOk (b : Bytes) : Bool := taaCodesOk b && (taaOf b).actFmt != 3

/-- Field combinations: block, split, s_va, wide_va, layer and flags zero; a gradient tile is 64 × 64 in FP32. -/
def cuShapeOk (grad : Bool) (b : Bytes) : Bool :=
  let t := taaOf b
  stageOk t.stageBase t.stageLines && t.block == 32 && t.splitLog2 == 0 && t.splitIdx == 0 && t.sVa == 0 && t.wideVa == 0 &&
  t.layer == 0 && fieldAt b 1 1 == 0 && 1 ≤ t.columns && t.columns ≤ 64 && 1 ≤ t.kSlices && fFin t.tscale &&
  (!grad || (t.rows == 64 && t.columns == 64 && t.outFmt == 0))

/-! ## The product -/

/-- The 64 × 64 tile of row group `g` and slice `i`, row by row. -/
def cuTile (s : State) (n : Nat) (q : QCmd) (g i : Nat) : Run (List (List Fv)) := do
  let t := taaOf q.bytes
  let size := 4096 * fltWidth (cuFmt t)
  let b ← opRead s n q (t.wVa + (g * t.kSlices + i) * size) size
  pure (chunksOf 64 64 (fltUnpack (cuFmt t) b))

/-- The 64 elements of column `c` in slice `i`. -/
def cuColumn (s : State) (n : Nat) (q : QCmd) (c i : Nat) : Run (List Fv) := do
  let t := taaOf q.bytes
  let w := fltWidth (cuFmt t)
  let b ← opRead s n q (t.aVa + c * alignUp (64 * t.kSlices * w) 64 + 64 * w * i) (64 * w)
  pure (fltUnpack (cuFmt t) b)

/-- One slice of a row group joins the FP32 sums of every column. -/
def cuSlice (s : State) (n : Nat) (q : QCmd) (g : Nat) (sums : List (List F32)) (i : Nat) : Run (List (List F32)) := do
  let rows ← cuTile s n q g i
  sums.zipIdx.mapM fun (col, c) => do
    let xs ← cuColumn s n q c i
    pure (List.zipWith (fun a r => cuSum a (List.zipWith (fun w x => toF32 (Fv.mul w x)) r xs)) col rows)

/-- The FP32 sums of a row group, column by column. -/
def cuGroup (s : State) (n : Nat) (q : QCmd) (g : Nat) : Run (List (List F32)) :=
  let t := taaOf q.bytes
  (List.range t.kSlices).foldlM (cuSlice s n q g) (List.replicate t.columns (List.replicate 64 0))

/-- CU_GEMM writes tscale × the sums, in the output format. -/
def gemmRun (n : Nat) (q : QCmd) (s : State) : Run Unit := do
  let t := taaOf q.bytes
  need (cuCodesOk q.bytes) Cmd.command
  need (cuShapeOk false q.bytes) Cmd.shape
  (List.range (t.rows / 64)).forM fun g => do
    let sums ← cuGroup s n q g
    sums.zipIdx.forM fun (col, c) =>
      opWrite s n q (t.oVa + c * t.rows * t.outWidth + 64 * g * t.outWidth) (col.flatMap fun x => outBytes (t.outFmt == 1) (fMul t.tscale x))

/-- CU_WGRAD adds tscale × the sums over its tokens into the FP32 gradient tile. -/
def wgradRun (n : Nat) (q : QCmd) (s : State) : Run Unit := do
  let t := taaOf q.bytes
  need (cuCodesOk q.bytes) Cmd.command
  need (cuShapeOk true q.bytes) Cmd.shape
  let sums ← cuGroup s n q 0
  sums.zipIdx.forM fun (col, c) => do
    let old ← opRead s n q (t.oVa + c * 256) 256
    opWrite s n q (t.oVa + c * 256) (col.zipIdx.flatMap fun (x, r) =>
      leBytes 4 (fAdd (BitVec.ofNat 32 (fieldAt old (4 * r) 4)) (fMul t.tscale x)).toNat)

/-- The output region of a CU command. -/
def cuRegion (q : QCmd) : List (Nat × Nat) :=
  let t := taaOf q.bytes
  [(t.oVa, t.columns * t.rows * t.outWidth)]

/-- A CU_GEMM command runs. -/
def gemmCmd (n : Nat) (q : QCmd) : Act := runUnit n q (cuRegion q) (gemmRun n q)

/-- A CU_WGRAD command runs. -/
def wgradCmd (n : Nat) (q : QCmd) : Act := runUnit n q (cuRegion q) (wgradRun n q)

/-- CU_GEMM (R56, R65). -/
def execCuGemm (core : CoreId) (s : State) : Host.Outcome State Fault Refusal := done (runNext core 6 (gemmCmd core)) s

/-- CU_WGRAD (R61, R65). -/
def execCuWgrad (core : CoreId) (s : State) : Host.Outcome State Fault Refusal := done (runNext core 7 (wgradCmd core)) s

end Sys2Proof.Machine
end

