-- ==== Sys2Proof/Machine/Vec.lean ====
section
/-! DEFINITION. VEC commands on the vector unit. R58, R66, R94 to R100, R118, R139, R414, Tables 3.3, 3.8, 5.5 and 5.6. -/

namespace Sys2Proof.Machine

open Sys2Proof

/-! ## Checks (Table 3.8) -/

/-- Block size that p0 of a TERN names (R99). -/
def ternBlock (p0 : F32) : Option Nat :=
  if p0 = 0x42000000#32 then some 32 else if p0 = 0x42800000#32 then some 64
  else if p0 = 0x43000000#32 then some 128 else if p0 = 0x43800000#32 then some 256 else none

/-- A parameter that is 0.0 or 1.0; a zero of either sign is 0.0. -/
def isZero (x : F32) : Bool := x &&& 0x7FFFFFFF#32 == 0#32

/-- The column rule and the formats of a sub-operation, with the parameters of QUANT and TERN (R94, R99, R139, R414). -/
def vecShapeOk (b : Bytes) : Bool :=
  let v := vecOf b
  let whole := v.columnLen != 0 && v.count % v.columnLen == 0
  let flt := v.inFmt ≤ 3 && v.outFmt ≤ 3
  stageOk v.stageBase v.stageLines && 1 ≤ v.count && v.count ≤ 16777216 &&
  (if v.subOp = 0 ∨ 0x11 < v.subOp then false
  else if v.subOp ≤ 0x0A ∨ v.subOp = 0x11 then flt && v.columnLen == 0
  else if v.subOp = 0x0B ∨ v.subOp = 0x0C ∨ v.subOp = 0x0F then flt && whole
  else if v.subOp = 0x0D then
    v.inFmt ≤ 1 && 4 ≤ v.outFmt && v.outFmt ≤ 7 && whole && fFin v.p0 && (isZero v.p0 || !(f32v v.p0).neg?) &&
    (isZero v.p1 || (v.p1 == fOne && v.outFmt == 4 && v.columnLen % 256 == 0))
  else if v.subOp = 0x0E then 4 ≤ v.inFmt && v.inFmt ≤ 7 && v.outFmt == 0 && whole
  else v.inFmt == 1 && v.outFmt == 8 && whole && v.columnLen % 64 == 0 && v.count / v.columnLen % 64 == 0 &&
    (match ternBlock v.p0 with | some k => v.columnLen % k == 0 | none => false) && (isZero v.p1 || v.p1 == fOne))

/-- The integer format of a VEC format code 4 to 7, as a code of Table 3.5. -/
def vecAct (f : Nat) : Nat := f - 4

/-! ## Element-wise functions (Tables 3.3 and 5.6) -/

/-- The greater or the lesser value: exact, −0 < +0, NaN for a NaN input. -/
def fPick (greater : Bool) (a b : Fv) : Fv :=
  if a = .nan ∨ b = .nan then .nan
  else
    let less := a.lt b || (!b.lt a && a.neg? && !b.neg?)
    if greater then (if less then b else a) else (if less then a else b)

/-- 1 / (1 + e^−z) as an exact number. -/
def sigmoid (z : Dy) : Dy := Dy.div (Dy.ofInt 1) ((Dy.ofInt 1).add (Dy.exp z.neg))

/-- 2√(2/π) × (x + 0.044715 x³), the argument that turns the tanh form into a sigmoid. -/
def geluArg (x : Dy) : Dy :=
  let cube := (Dy.mul (Dy.mul x x) x).mul (Dy.div (Dy.ofInt 44715) (Dy.ofInt 1000000))
  ((x.add cube).trim workBits).mul ⟨sqrt2PiFix, -255⟩

/-- EXP, RECIP, RSQRT, SILU and GELU on an FP32 value: special values by IEEE 754, finite ones within their bound. -/
def vecUnary (op : Nat) (x : F32) : F32 :=
  let v := f32v x
  match op with
  | 0x06 => match v with
    | .fin _ d => if d.m = 0 then fOne else boundedUlp op 2 [x] d.exp
    | _ => fExp x
  | 0x07 => match v with
    | .fin _ d => if d.m = 0 then fDiv fOne x else boundedUlp op 1 [x] (Dy.div (Dy.ofInt 1) d)
    | _ => fDiv fOne x
  | 0x08 => match v with
    | .fin _ d => if d.m = 0 then fDiv fOne x else if d.m < 0 then 0x7FC00000#32
        else boundedUlp op 1 [x] (Dy.div (Dy.ofInt 1) d.sqrt)
    | .inf false => 0#32
    | _ => 0x7FC00000#32
  | 0x09 => match v with
    | .fin _ d => if d.m = 0 then x else boundedUlp op 4 [x] (d.mul (sigmoid d))
    | .inf false => x
    | _ => 0x7FC00000#32
  | _ => match v with
    | .fin _ d => if d.m = 0 then x else boundedUlp op 4 [x] (d.mul (sigmoid (geluArg d)))
    | .inf false => x
    | _ => 0x7FC00000#32

/-- Operands of an element-wise sub-operation. -/
def vecArity (op : Nat) : Nat := if op = 3 then 3 else if op = 1 ∨ op = 2 ∨ op = 4 ∨ op = 5 then 2 else 1

/-- The result of an element before rounding to the output format (R118). -/
def vecElement (op : Nat) (a b c : Fv) : Fv :=
  match op with
  | 0x01 => a.add b
  | 0x02 => a.mul b
  | 0x03 => (a.mul b).add c
  | 0x04 => fPick true a b
  | 0x05 => fPick false a b
  | 0x11 => a
  | _ => f32v (vecUnary op (toF32 a))

/-! ## Normalization (Table 5.5) -/

/-- u = 2^−24. -/
def uRound : Dy := ⟨1, -24⟩

/-- (k·u + n·u²)·|y|. -/
def normTol (k n : Nat) (y : Dy) : Dy := ((uRound.mul (Dy.ofInt k)).add (Dy.mul ⟨1, -48⟩ (Dy.ofInt n))).mul y.abs

/-- A whole column is finite. -/
def allFin (xs : List Fv) : Bool := xs.all Fv.isFin

/-- Exact sum of finite values. -/
def sumDy (xs : List Fv) : Dy := xs.foldl (fun a x => a.add x.dy) Dy.zero

/-- Square root of a value; NaN below zero. -/
def Fv.sqrt : Fv → Fv
  | .nan => .nan
  | .inf false => .inf false
  | .inf true => .nan
  | .fin n d => if d.m = 0 then .fin n d else if d.m < 0 then .nan else .fin false d.sqrt

/-- One column of RMSNORM. -/
def rmsColumn (eps : F32) (g xs : List Fv) : List F32 :=
  let n := xs.length
  let ms := if allFin xs then (Fv.fin false (Dy.div (xs.foldl (fun a x => a.add (x.dy.mul x.dy)) Dy.zero) (Dy.ofInt n)))
    else (xs.map fun x => x.mul x).foldl Fv.add (.fin false Dy.zero)
  let root := (ms.add (f32v eps)).sqrt
  let args := eps :: xs.map toF32
  List.zipWith (fun x w => match (x.mul w).div root with
    | .fin neg d => if d.m = 0 ∨ !allFin (xs ++ [f32v eps, w]) then toF32 (.fin neg d) else bounded 0x0B (toF32 x :: toF32 w :: args) d (normTol 7 n d)
    | y => toF32 y) xs g

/-- One column of LAYERNORM. -/
def layerColumn (eps : F32) (g b xs : List Fv) : List F32 :=
  let n := xs.length
  let mean : Fv := if allFin xs then .fin false (Dy.div (sumDy xs) (Dy.ofInt n)) else xs.foldl Fv.add (.fin false Dy.zero)
  let ds := xs.map fun x => x.add mean.negate
  let var := if allFin xs then (Fv.fin false (Dy.div (ds.foldl (fun a x => a.add (x.dy.mul x.dy)) Dy.zero) (Dy.ofInt n)))
    else (ds.map fun x => x.mul x).foldl Fv.add (.fin false Dy.zero)
  let root := (var.add (f32v eps)).sqrt
  let args := eps :: xs.map toF32
  List.zipWith (fun d (w : Fv × Fv) => match ((d.mul w.1).div root).add w.2 with
    | .fin neg y =>
      if !allFin (xs ++ [f32v eps, w.1, w.2, root]) ∨ root.dy.m = 0 then toF32 (.fin neg y)
      else bounded 0x0C (toF32 d :: toF32 w.1 :: toF32 w.2 :: args) y
        ((normTol 9 n y).add ((uRound.mul (Dy.ofInt 4)).mul (Dy.div (w.1.dy.abs.mul mean.dy.abs) root.dy)))
    | y => toF32 y) ds (g.zip b)

/-! ## QUANT (R94, R95, R139) -/

/-- The scale of a column. -/
def quantScale (p0 : F32) (qmax : Nat) (xs : List Fv) : F32 :=
  if !isZero p0 then p0
  else
    let amax := xs.foldl (fun (a : Dy) x => if a.lt x.dy.abs then x.dy.abs else a) Dy.zero
    if amax.m = 0 then fOne else fDiv (dyF32 amax) (fInt qmax)

/-- One element: its code, and whether it counts as clipped. `open_` stands for a result that the rule does not give
(zero times an infinite reciprocal). A non-zero element times an infinite reciprocal counts as clipped (log entry 39). -/
def quantElement (qmax : Nat) (r : F32) (open_ : Int) (x : Fv) : Option Int × Bool :=
  match x with
  | .fin _ _ =>
    let clampQ (k : Int) : Int := max (-(qmax : Int)) (min (qmax : Int) k)
    match f32v (fMul (toF32 x) r) with
    | .fin _ d => (some (clampQ d.rne), decide (qmax < d.rne.natAbs))
    | .inf neg => (some (if neg then -(qmax : Int) else qmax), true)
    | .nan => (some (clampQ open_), false)
  | _ => (none, true)

/-- One column: its codes, its clip count and its scale. -/
def quantColumn (p0 : F32) (qmax : Nat) (open_ : Int) (xs : List Fv) : List (Option Int) × Nat × F32 :=
  let sc := quantScale p0 qmax xs
  let es := xs.map (quantElement qmax (fDiv fOne sc) open_)
  (es.map (·.1), (es.filter (·.2)).length, sc)

/-- One AZR block of 256 codes: its format, and its body (R139). -/
def azrChoose (thr : Nat) (codes : List Nat) : Nat × Bytes :=
  let count := (codes.filter (· != 0)).length
  let z := azrEncode codes
  if count = 0 then (2, [])
  else if count * 100 ≤ thr * 256 ∧ z.length < 256 then (1, z)
  else (0, codes.map (BitVec.ofNat 8 ·))

/-- Index and bodies of sparse columns written at `dst`: entries, then bodies one after another from the next line. -/
def azrImage (thr dst : Nat) (cols : List (List Nat)) : Bytes :=
  let blocks := (cols.flatMap fun c => chunksOf 256 (c.length / 256 + 1) c).map (azrChoose thr)
  let start := alignUp (dst + 8 * blocks.length) 64
  let (idx, body, _) := blocks.foldl (fun (is, bs, i) (f, d) =>
    (is ++ indexBytes f d.length (if d = [] then 0 else start + bs.length - (dst + 8 * i)), bs ++ d, i + 1)) (([] : Bytes), ([] : Bytes), 0)
  padTo (start - dst) idx ++ body

/-- Writes what QUANT gives. -/
def quantWrite (s : State) (n : Nat) (q : QCmd) (cols : List (List (Option Int) × Nat × F32)) : Run Unit := do
  let v := vecOf q.bytes
  let f := vecAct v.outFmt
  gather fun t => { t with quantClip := cols.map fun c => c.2.1 }
  let scales := cols.flatMap fun c => leBytes 4 c.2.2.toNat
  if isZero v.p1 then
    let pitch := actPitch f v.columnLen
    cols.zipIdx.forM fun (c, i) => opWrite s n q (v.dst + i * pitch) (actPack f c.1)
    opWrite s n q (alignUp (v.dst + cols.length * pitch) 64) scales
  else
    let b := azrImage (s.image q.ctx).sparsity.thrAzr v.dst (cols.map fun c => c.1.map (actCode 0))
    opWrite s n q v.dst b
    opWrite s n q (alignUp (v.dst + b.length) 64) scales

/-! ## TERN (R99) -/

/-- ⌊log2 m⌉ of a positive number, exactly: the fraction exceeds one half when m² exceeds 2^(2k+1). -/
def roundLog2 (m : Dy) : Int :=
  let k := m.e + Nat.log2 m.m.natAbs
  if Dy.lt ⟨1, 2 * k + 1⟩ (m.mul m) then k + 1 else k

/-- Scale byte of a unit of weights with their quotients w / τ in FP32: 255 for a non-finite weight; a quotient or a mean beyond the
FP32 range counts as infinite, whose scale is the greatest (log entry 39). -/
def ternScale (ws : List (F32 × F32)) : Nat :=
  if ws.any (!fFin ·.1) then 255
  else if ws.any (!fFin ·.2) then 254
  else
    let m := f32v (dyF32 (Dy.div (ws.foldl (fun a w => a.add (f32v w.2).dy.abs) Dy.zero) (Dy.ofInt ws.length)))
    match m with
    | .fin _ d => if d.m = 0 then 0 else (max 1 (min 254 (127 + roundLog2 d))).toNat
    | _ => 254

/-- The trit of a quotient under a scale byte. -/
def ternTrit (e : Nat) (w : F32) : Int :=
  if e = 0 ∨ e = 255 then 0
  else match f32v w with
    | .inf neg => if neg then -1 else 1
    | x => max (-1) (min 1 (x.dy.mul ⟨1, 127 - (e : Int)⟩).rne)

/-- Scale bytes of a row group's block: per row, or one for the group. -/
def ternGroup (uniform : Bool) (rows : List (List (F32 × F32))) : List Nat :=
  if uniform then List.replicate rows.length (ternScale rows.flatten) else rows.map ternScale

/-- The tiles and scale lines of one row group of 64 rows. -/
def ternRows (uniform : Bool) (k block : Nat) (rows : List (List (F32 × F32))) : Bytes × Bytes :=
  let scales := (List.range (k / block)).map fun b => ternGroup uniform (rows.map fun r => (r.drop (b * block)).take block)
  let trits := rows.zipIdx.map fun ((r, i) : List (F32 × F32) × Nat) => r.zipIdx.map fun (x : (F32 × F32) × Nat) => ternTrit ((scales.getD (x.2 / block) []).getD i 0) x.1.2
  ((List.range (k / 64)).flatMap fun t => t5bPack (trits.flatMap fun r => (r.drop (64 * t)).take 64),
    scales.flatMap fun l => l.map (BitVec.ofNat 8 ·))

/-- A weight and its quotient by τ. -/
def ternInput (tau : F32) (x : Fv) : F32 × F32 := (toF32 x, fDiv (toF32 x) tau)

/-- TERN of a layer. -/
def ternRun (s : State) (n : Nat) (q : QCmd) : Run Unit := do
  let v := vecOf q.bytes
  let block := (ternBlock v.p0).getD 32
  let tau ← if v.src1 = 0 then pure fOne else (do
    let b ← opRead s n q v.src1 4
    pure (BitVec.ofNat 32 (fieldAt b 0 4)))
  need (fFin tau && fLt 0#32 tau) Cmd.shape
  let groups := v.count / v.columnLen / 64
  let size := 820 * (v.columnLen / 64)
  let start := alignUp (v.dst + groups * size) 64
  (List.range groups).forM fun g => do
    let b ← opRead s n q (v.src0 + g * 64 * v.columnLen * 2) (64 * v.columnLen * 2)
    let rows := chunksOf v.columnLen 64 ((fltUnpack 1 b).map (ternInput tau))
    let (w, e) := ternRows (v.p1 == fOne) v.columnLen block rows
    opWrite s n q (v.dst + g * size) w
    opWrite s n q (start + g * e.length) e

/-! ## A VEC command -/

/-- A flat operand in the input format. -/
def vecIn (s : State) (n : Nat) (q : QCmd) (va k : Nat) : Run (List Fv) := do
  let v := vecOf q.bytes
  pure (fltUnpack v.inFmt (← opRead s n q va (k * fltWidth v.inFmt)))

/-- An FP32 scale array. -/
def vecScales (s : State) (n : Nat) (q : QCmd) (va k : Nat) : Run (List Fv) := do
  pure (fltUnpack 0 (← opRead s n q va (4 * k)))

/-- ADD to GELU and CONVERT. -/
def elementRun (s : State) (n : Nat) (q : QCmd) : Run Unit := do
  let v := vecOf q.bytes
  let k := vecArity v.subOp
  let a ← vecIn s n q v.src0 v.count
  let b ← if 2 ≤ k then vecIn s n q v.src1 v.count else pure a
  let c ← if 3 ≤ k then vecIn s n q v.src2 v.count else pure a
  opWrite s n q v.dst (fltPack v.outFmt (List.zipWith (fun x (y : Fv × Fv) => vecElement v.subOp x y.1 y.2) a (b.zip c)))

/-- FINISH: src0 × a + b, rounded once. -/
def finishOp (s : State) (n : Nat) (q : QCmd) : Run Unit := do
  let v := vecOf q.bytes
  let cols := v.count / v.columnLen
  let x ← vecIn s n q v.src0 v.count
  let a ← if v.src1 = 0 then pure (List.replicate cols (f32v fOne)) else vecScales s n q v.src1 cols
  let b ← if v.src2 = 0 then pure [] else vecIn s n q v.src2 v.columnLen
  let ys := x.zipIdx.map fun (e, i) =>
    let p := e.mul (a.getD (i / v.columnLen) .nan)
    if v.src2 = 0 then p else p.add (b.getD (i % v.columnLen) .nan)
  opWrite s n q v.dst (fltPack v.outFmt ys)

/-- RMSNORM and LAYERNORM. -/
def normRun (s : State) (n : Nat) (q : QCmd) : Run Unit := do
  let v := vecOf q.bytes
  let x ← vecIn s n q v.src0 v.count
  let g ← vecIn s n q v.src1 v.columnLen
  let b ← if v.subOp = 0x0C then vecIn s n q v.src2 v.columnLen else pure []
  let ys := (chunksOf v.columnLen (v.count / v.columnLen) x).flatMap fun c =>
    if v.subOp = 0x0B then rmsColumn v.p0 g c else layerColumn v.p0 g b c
  opWrite s n q v.dst (fltPack v.outFmt (ys.map f32v))

/-- QUANT. -/
def quantRun (s : State) (n : Nat) (q : QCmd) : Run Unit := do
  let v := vecOf q.bytes
  let qmax := actMax (vecAct v.outFmt)
  let x ← vecIn s n q v.src0 v.count
  let open_ := signedOf 16 (Config.freeWord s.free).toNat
  gather fun t => { t with extra := t.extra ++ [.draw] }
  quantWrite s n q ((chunksOf v.columnLen (v.count / v.columnLen) x).map (quantColumn v.p0 qmax open_))

/-- DEQUANT: q × s, NaN for a marker (R96). A product of more than 24 significant bits is rounded to nearest even (log entry 39). -/
def dequantRun (s : State) (n : Nat) (q : QCmd) : Run Unit := do
  let v := vecOf q.bytes
  let f := vecAct v.inFmt
  let cols := v.count / v.columnLen
  let scales ← vecScales s n q v.src1 cols
  (List.range cols).forM fun c => do
    let b ← opRead s n q (v.src0 + c * actPitch f v.columnLen) (ceilDiv (v.columnLen * actBits f) 8)
    let ys := ((actUnpack f b).take v.columnLen).map fun x => match x with
      | none => Fv.nan
      | some k => (Fv.fin false (Dy.ofInt k)).mul (scales.getD c .nan)
    opWrite s n q (v.dst + 4 * c * v.columnLen) (fltPack 0 ys)

/-- What a VEC command computes. -/
def vecRun (n : Nat) (q : QCmd) (s : State) : Run Unit := do
  let v := vecOf q.bytes
  need (vecCodesOk q.bytes) Cmd.command
  need (vecShapeOk q.bytes) Cmd.shape
  match v.subOp with
  | 0x0B => normRun s n q
  | 0x0C => normRun s n q
  | 0x0D => quantRun s n q
  | 0x0E => dequantRun s n q
  | 0x0F => finishOp s n q
  | 0x10 => ternRun s n q
  | _ => elementRun s n q

/-- The output region of a VEC command. -/
def vecRegion (q : QCmd) : List (Nat × Nat) :=
  let v := vecOf q.bytes
  let cols := v.count / v.columnLen
  match v.subOp with
  | 0x0D =>
    let data := if isZero v.p1 then cols * actPitch (vecAct v.outFmt) v.columnLen else 64 + cols * (v.columnLen / 256) * 264
    [(v.dst, data), (alignUp (v.dst + data) 64, 4 * cols)]
  | 0x10 =>
    let block := (ternBlock v.p0).getD 32
    let data := cols / 64 * (820 * (v.columnLen / 64))
    [(v.dst, data), (alignUp (v.dst + data) 64, v.count / block)]
  | _ => [(v.dst, v.count * fltWidth v.outFmt)]

/-- A VEC command runs. -/
def vecCmd (n : Nat) (q : QCmd) : Act := runUnit n q (vecRegion q) (vecRun n q)

/-- VEC (R58, R66, R94 to R99, R118, R414). -/
def execVec (core : CoreId) (s : State) : Host.Outcome State Fault Refusal := done (runNext core 8 (vecCmd core)) s

end Sys2Proof.Machine
end

