-- ==== Sys2Proof/Machine/Attn.lean ====
section
/-! DEFINITION. The fused attention command. R255 to R257, R261 to R270, R277, Tables 11.4, 11.5 and 11.10. Log entry 42. -/

namespace Sys2Proof.Machine

open Sys2Proof

/-! ## The command (Table 11.4) -/

/-- An ATTN command. -/
structure AttnCmd where
  write : Bool
  attend : Bool
  merge : Bool
  tree : Bool
  kvFmt : Nat
  outBf : Bool
  dim : Nat
  splitLog2 : Nat
  splitIdx : Nat
  kvHead : Nat
  columns : Nat
  perKv : Nat
  layer : Nat
  kvHeads : Nat
  qVa : Nat
  newVa : Nat
  oVa : Nat
  batchVa : Nat
  scale : F32
  stride : Nat
  deriving DecidableEq, Repr

/-- The fields of Table 11.4. -/
def attnOf (b : Bytes) : AttnCmd :=
  let f := fieldAt b 1 1
  let m := fieldAt b 2 1
  { write := bitOf f 0, attend := bitOf f 1, merge := bitOf f 2, tree := bitOf f 3, kvFmt := bitsOf m 0 2, outBf := bitOf m 2
    dim := 64 * 2 ^ bitsOf m 4 2, splitLog2 := bitsOf (fieldAt b 3 1) 0 4, splitIdx := bitsOf (fieldAt b 3 1) 4 4
    kvHead := fieldAt b 4 1, columns := fieldAt b 5 1, perKv := fieldAt b 7 1, layer := fieldAt b 8 2, kvHeads := fieldAt b 0x0A 1
    qVa := fieldAt b 0x10 8 % 2 ^ 57, newVa := fieldAt b 0x18 8 % 2 ^ 57, oVa := fieldAt b 0x20 8 % 2 ^ 57
    batchVa := fieldAt b 0x28 8 % 2 ^ 57, scale := BitVec.ofNat 32 (fieldAt b 0x30 4), stride := fieldAt b 0x34 4 }

/-- Bytes of an element of K and V. -/
def AttnCmd.elem (t : AttnCmd) : Nat := if t.kvFmt = 0 then 2 else 1
/-- Bytes of an output element. -/
def AttnCmd.outWidth (t : AttnCmd) : Nat := if t.outBf then 2 else 4
/-- Output rows (R263). -/
def AttnCmd.rows (t : AttnCmd) : Nat := t.columns * t.kvHeads * t.perKv
/-- Bytes from one partial record to the next (R263). -/
def AttnCmd.record (t : AttnCmd) : Nat := alignUp (8 + 4 * t.dim) 64
/-- Bytes of K, or of V, of the handled heads of one token. -/
def AttnCmd.headBytes (t : AttnCmd) : Nat := t.kvHeads * t.dim * t.elem
/-- Offset of the handled heads within a token's K or V. -/
def AttnCmd.headOff (t : AttnCmd) : Nat := t.kvHead * t.dim * t.elem

/-- Rsvd fields and reserved codes (R68 step 1). -/
def attnCodesOk (b : Bytes) : Bool :=
  let m := fieldAt b 2 1
  fieldAt b 1 1 < 16 && m < 64 && bitsOf m 0 2 != 3 && bitsOf m 2 2 ≤ 1 && bitsOf m 4 2 != 3 && fieldAt b 0x0B 1 == 0 &&
  fieldAt b 0x38 4 == 0 && vaRsvdOk b [0x10, 0x18, 0x20, 0x28]

/-- The geometry of a context keeps to R255, Table 11.1 and the ranges of ATT_GEOM. -/
def State.geometryOk (s : State) (c : Nat) : Bool :=
  let layers := s.fget (Fld.attGeomLayers c)
  let stride := s.fget (Fld.attGeomStrideLog2 c)
  let row := s.fget (Fld.attGeomRowLog2 c)
  1 ≤ layers && layers ≤ 1024 && 21 ≤ stride && stride ≤ 37 && 6 ≤ row && row ≤ 16 && s.pageSizeOk c &&
  layers * 2 ^ stride ≤ 0x3C_0000_0000

/-- Ranges and combinations of Table 11.4 (R262). -/
def State.attnShapeOk (s : State) (c : Nat) (b : Bytes) : Bool :=
  let t := attnOf b
  stageOk (fieldAt b 0x3C 2) (fieldAt b 0x3E 2) && [1, 2, 3, 4, 9, 10, 11].contains (fieldAt b 1 1) &&
  t.splitLog2 ≤ 4 && t.splitIdx < 2 ^ t.splitLog2 && 1 ≤ t.columns && t.columns ≤ 64 && 1 ≤ t.perKv && t.perKv ≤ 64 &&
  1 ≤ t.kvHeads && t.kvHeads ≤ 16 && (t.kvHead + t.kvHeads) * (2 * t.dim * t.elem) ≤ s.rowBytes c &&
  t.layer < s.fget (Fld.attGeomLayers c) && (t.write || t.newVa == 0) && t.batchVa % 16 == 0 && fFin t.scale && fLt 0 t.scale &&
  t.stride % 64 == 0 && (t.splitLog2 != 0 || t.stride == 0)

/-! ## Faults (R277) -/

/-- An entry of ATT_ERR_LOG. -/
def attErr (q : QCmd) (slot va detail : Nat) : Act := fun s =>
  if s.attErrs.length < 32 then [.attErrs fun l => l ++ [(va % 2 ^ 57, q.ctx * 2 ^ 60 + slot * 2 ^ 42 + detail * 2 ^ 32 + q.tileTag)]]
  else []

/-- A run stops with a logged fault. -/
def attnFault {α : Type} (s : State) (q : QCmd) (slot va detail cause : Nat) : Run α := do
  gather fun t => { t with onFail := t.onFail ++ attErr q slot va detail s }
  throw (if detail ≤ 3 then .fault cause 0 false 0 0 else .fault cause va true 0 0)

/-- A walk of the attention walker has failed. -/
def walkFault {α : Type} (s : State) (n : Nat) (q : QCmd) (slot va level reason detail : Nat) : Run α := do
  gather fun t => { t with onFail := t.onFail ++ logXlt (walkerAgent n q) va level reason s }
  attnFault s q slot va detail Cmd.translation

/-- What a stop of the attention walker leads to; a page fault carries detail 4, poison detail 6. -/
def kvStop {α : Type} (s : State) (n : Nat) (q : QCmd) (slot va : Nat) : Stop → Run α
  | .walk a l r => walkFault s n q slot a l r 4
  | .poison a => do
    gather fun t => { t with onFail := t.onFail ++ attErr q slot va 6 s }
    throw (.fault Cmd.poison a false 0 0)
  | .block a => throw (.stop (.block a))
  | .held => throw (.stop .held)
  | _ => attnFault s q slot va 4 Cmd.translation

/-- An operand access whose walk fault is logged too. -/
def logged {α : Type} (s : State) (q : QCmd) (slot : Nat) (m : Run α) : Run α :=
  tryCatch m fun e => do
    match e with
    | .stop (.walk va l r) => do
      gather fun t => { t with onFail := t.onFail ++ attErr q slot va 4 s }
      throw (.stop (.walk va l r))
    | e => throw e

/-! ## Columns (R261, R264) -/

/-- A batch entry with what the command knows of its slot: the sequence header's link and, for a tree node, the scratch
rows of its ancestors in ascending depth and its own. -/
structure AttnCol where
  slot : Nat
  pos : Nat
  last : Nat
  scratch : List Nat := []
  prefixSlot : Nat := 0
  prefixLen : Nat := 0
  deriving DecidableEq, Repr

/-- The batch entry at an address: slot, tree bit, position, parent. -/
def batchEntry (s : State) (n : Nat) (q : QCmd) (va : Nat) : Run (Nat × Bool × Nat × Nat) := do
  let e ← logged s q 0 (opRead s n q va 16)
  pure (fieldAt e 0 4 % 2 ^ 18, bitOf (fieldAt e 0 4) 30, fieldAt e 4 4, fieldAt e 12 4)

/-- The root of a tree node: the nearest entry before it that is a tree column of the slot without a parent. Answers the
distance. -/
def findRoot (s : State) (n : Nat) (q : QCmd) (slot va : Nat) : Nat → Nat → Run Nat
  | 0, _ => attnFault s q slot va 3 Cmd.shape
  | fuel + 1, d => do
    let (sl, tree, _, parent) ← batchEntry s n q (va - 16 * d)
    if sl ≠ slot ∨ tree = false then attnFault s q slot va 3 Cmd.shape
    else if parent = 0xFFFF_FFFF then pure d
    else findRoot s n q slot va fuel (d + 1)

/-- The scratch rows from a node's ancestors at depth 1 down to row `row`; `base` is the root's batch index. -/
def treePath (s : State) (n : Nat) (q : QCmd) (slot rootVa base : Nat) : Nat → Nat → Run (List Nat)
  | 0, _ => attnFault s q slot rootVa 3 Cmd.shape
  | fuel + 1, row => do
    if row = 0 then pure []
    else
      let (_, _, _, parent) ← batchEntry s n q (rootVa + 16 * row)
      if parent < base ∨ base + row ≤ parent then attnFault s q slot rootVa 3 Cmd.shape
      else
        let up ← treePath s n q slot rootVa base fuel (parent - base)
        pure (up ++ [row])

/-- Bytes of a piece that the attention walker reads: through the physical address of a page that the command has pinned, else by
translation (R266). A source unit of a migration in FINAL holds the access (R194). -/
def State.kvPiece (s : State) (n : Nat) (q : QCmd) (pins : List (Nat × Nat)) (a k : Nat) : Except Stop Bytes :=
  match pins.find? fun p => decide (p.1 ≤ a ∧ a + k ≤ p.1 + s.pageBytes q.ctx) with
  | some (va, pa) => if s.heldIn (pa + (a - va)) k then .error .held else s.readPhys q.ctx (pa + (a - va)) k
  | none =>
    if (s.physPieces (walkerAgent n q) a k).any fun p => s.heldIn p.1 p.2 then .error .held else s.readVa (walkerAgent n q) a k

/-- Bytes that the attention walker reads. -/
def kvRead (s : State) (n : Nat) (q : QCmd) (slot va len : Nat) : Run Bytes := do
  gather fun t => { t with looked := t.looked ++ [(va, len, 0)] }
  match s.viewedRead n q (s.kvPiece n q (← get).pins) va len with
  | .ok b => pure b
  | .error e => kvStop s n q slot va e

/-- The link of a slot's sequence header: prefix slot and length (R261). A linked slot with a compaction in flight holds the
command (R271). -/
def readLink (s : State) (n : Nat) (q : QCmd) (slot : Nat) : Run (Nat × Nat) := do
  let va := headerVa slot
  match s.walk (walkerAgent n q) va 0, (s.viewAt (dieOf n) q.ctx va).isSome with
  | .error (l, r), false =>
    if r = Reason.invalid then pure (0, 0) else walkFault s n q slot va l r 4
  | _, _ =>
    let h ← kvRead s n q slot va 64
    let r := s.req slot
    let limit := if r.state = 0 then 2 ^ 32 else r.promptLen
    if !headerOk slot limit h then attnFault s q slot va 1 Cmd.shape
    else if fieldAt h 0 4 = 0xFFFF_FFFF then pure (0, 0)
    else if s.compacting (fieldAt h 0 4) then throw .wait
    else pure (fieldAt h 0 4, fieldAt h 4 4)

/-- Column `c` of a command. `links` holds the headers read for its earlier columns. -/
def attnColumn (s : State) (n : Nat) (q : QCmd) (done : List AttnCol) (c : Nat) : Run AttnCol := do
  let t := attnOf q.bytes
  let va := t.batchVa + 16 * c
  let (slot, tree, pos, parent) ← batchEntry s n q va
  if tree ≠ t.tree then attnFault s q slot va 3 Cmd.shape
  let (ps, pl) ← match done.find? (·.slot == slot) with
    | some x => pure (x.prefixSlot, x.prefixLen)
    | none => readLink s n q slot
  if !tree ∨ parent = 0xFFFF_FFFF then pure ⟨slot, pos, pos, [], ps, pl⟩
  else
    let d ← findRoot s n q slot va 128 1
    let rootVa := va - 16 * d
    let (_, _, p, _) ← batchEntry s n q rootVa
    let (_, _, _, base) ← batchEntry s n q (rootVa + 16)
    let path ← treePath s n q slot rootVa base 128 d
    pure ⟨slot, pos, p, path, ps, pl⟩

/-- Every column of a command. -/
def attnColumns (s : State) (n : Nat) (q : QCmd) : Run (List AttnCol) :=
  (List.range (attnOf q.bytes).columns).foldlM (fun done c => do pure (done ++ [← attnColumn s n q done c])) []

/-! ## Writing (R265) -/

/-- Addresses of the K and V bytes of the handled heads in the row that a column writes: a position of its own range, or its
scratch row. -/
def State.newRow (s : State) (q : QCmd) (k : AttnCol) : Nat × Nat :=
  let t := attnOf q.bytes
  let (a, b) := match k.scratch.getLast? with
    | none => s.rowVas q.ctx k.slot t.layer k.pos
    | some r =>
      let a := s.scratchVa q.ctx k.slot t.layer r
      (a, a + s.rowBytes q.ctx / 2)
  (a + t.headOff, b + t.headOff)

/-- A row may be written: its page is there and not shared, or the page service is asked. -/
def rowReady (s : State) (n : Nat) (q : QCmd) (k : AttnCol) (va : Nat) : Run Unit := do
  let len := (attnOf q.bytes).headBytes
  gather fun t => { t with looked := t.looked ++ [(va, len, 1)] }
  noRawView s n q va len
  match s.walk (walkerAgent n q) va 1 with
  | .error (l, r) =>
    if k.scratch = [] ∧ r = Reason.invalid then
      (if l = 1 then throw (.stop (.page va false)) else walkFault s n q k.slot va l r 5)
    else walkFault s n q k.slot va l r 4
  | .ok w =>
    if bitOf w.leaf 4 then throw (.stop (.page va true))
    else if (s.physPieces (walkerAgent n q) va len).any fun p => s.heldIn p.1 p.2 then throw (.stop .held)
    else match s.checkVa (walkerAgent n q) va len with
      | some e => kvStop s n q k.slot va e
      | none => pure ()

/-- Every column's row is made ready, then its new K and V are gathered. -/
def attnWrite (s : State) (n : Nat) (q : QCmd) (cols : List AttnCol) : Run Unit := do
  let t := attnOf q.bytes
  cols.forM fun k => do
    let (ka, va) := s.newRow q k
    rowReady s n q k ka
    rowReady s n q k va
  cols.zipIdx.forM fun (k, c) => do
    let (ka, va) := s.newRow q k
    let d ← logged s q k.slot (opRead s n q (t.newVa + c * 2 * t.headBytes) (2 * t.headBytes))
    gather fun x => { x with rows := x.rows ++ [(ka, slice d 0 t.headBytes), (va, slice d t.headBytes t.headBytes)]
                             pending := if k.scratch = [] then x.pending ++ [(k.slot, k.pos, ka, t.headBytes), (k.slot, k.pos, va, t.headBytes)]
                               else x.pending }

/-! ## Online softmax (R268) -/

/-- The state of a query row. -/
structure SoftRow where
  m : F32 := 0xFF80_0000#32
  l : F32 := 0
  acc : List F32
  deriving DecidableEq, Repr

/-- −∞. -/
def negInf : F32 := 0xFF80_0000#32
/-- The greater of two numbers; a NaN gives way. -/
def fMax (a b : F32) : F32 := if f32v a = .nan then b else if f32v b = .nan then a else if fLt a b then b else a
/-- e^x on the vector unit. -/
def attExp (x : F32) : F32 := vecUnary 0x06 x

/-- One key joins a row: its score and its V values. -/
def SoftRow.key (r : SoftRow) (k : F32 × List Fv) : SoftRow :=
  let p := attExp (fSub k.1 r.m)
  let pb := bf16v (toBf16 p)
  { r with l := fAdd r.l p, acc := List.zipWith (fun a v => fAdd a (toF32 (pb.mul v))) r.acc k.2 }

/-- One block of keys joins a row. -/
def SoftRow.block (r : SoftRow) (ks : List (F32 × List Fv)) : SoftRow :=
  let mb := ks.foldl (fun m k => fMax m k.1) negInf
  if mb = negInf then r
  else
    let r := if fLt r.m mb then
        let f := if r.m = negInf then 0 else attExp (fSub r.m mb)
        { m := mb, l := fMul r.l f, acc := r.acc.map fun a => fMul a f }
      else r
    ks.foldl SoftRow.key r

/-- One node of the merge tree (R269). -/
def SoftRow.join (a b : SoftRow) : SoftRow :=
  let mn := fMax a.m b.m
  if mn = negInf then a
  else
    let f (x : F32) : F32 := if f32v x ≠ .nan ∧ !fLt x mn ∧ !fLt mn x then fOne else if x = negInf then 0 else attExp (fSub x mn)
    let fa := f a.m
    let fb := f b.m
    { m := mn, l := fAdd (fMul a.l fa) (fMul b.l fb), acc := List.zipWith (fun x y => fAdd (fMul x fa) (fMul y fb)) a.acc b.acc }

/-- The tree of Table 5.3 over 2^d partials. -/
def mergeTree : Nat → List SoftRow → SoftRow
  | 0, xs => xs.headD { acc := [] }
  | d + 1, xs => (mergeTree d (xs.take (2 ^ d))).join (mergeTree d (xs.drop (2 ^ d)))

/-- The output of a row: acc × RECIP(l), zeros where l is 0. -/
def SoftRow.out (r : SoftRow) (half : Bool) : Bytes :=
  let zero := isZero r.l
  let f := vecUnary 0x07 r.l
  r.acc.flatMap fun a => outBytes half (if zero then 0 else fMul a f)

/-! ## Keys (R264 to R266, R269) -/

/-- The KV page at `va` is translated and pinned as it is first read; a page with 65,535 pins holds the walker, and a source unit of
a migration in FINAL holds the pin (R266, R276). -/
def pinOnce (s : State) (n : Nat) (q : QCmd) (va : Nat) : Run Unit := do
  let start := s.pageStart q.ctx va
  if !s.pagesReady || (s.viewAt (dieOf n) q.ctx va).isSome || (← get).pins.any (·.1 == start) then pure ()
  else match s.walk (walkerAgent n q) va 0 with
    | .error _ => pure ()
    | .ok w =>
      let page := w.pa / s.pageBytes q.ctx * s.pageBytes q.ctx
      if s.heldIn w.pa 1 then throw (.stop .held)
      else if (s.ledger page).pins = 65535 ∧ !(pinned q.pins).contains page then throw .wait
      else gather fun t => { t with pins := t.pins ++ [(start, page)] }

/-- K and V of the handled heads at a position that a column reads. `x` is the state with the command's own rows written. -/
def posKeys (x : State) (n : Nat) (q : QCmd) (k : AttnCol) (pos : Nat) : Run (Bytes × Bytes) := do
  let t := attnOf q.bytes
  let slot := if pos < k.prefixLen then k.prefixSlot else k.slot
  let (ka, va) := x.rowVas q.ctx slot t.layer pos
  pinOnce x n q ka
  let kb ← kvRead x n q k.slot (ka + t.headOff) t.headBytes
  let vb ← kvRead x n q k.slot (va + t.headOff) t.headBytes
  pure (kb, vb)

/-- K and V of the handled heads in a scratch row. -/
def scratchKeys (x : State) (n : Nat) (q : QCmd) (k : AttnCol) (row : Nat) : Run (Bytes × Bytes) := do
  let t := attnOf q.bytes
  let a := x.scratchVa q.ctx k.slot t.layer row
  let kb ← kvRead x n q k.slot (a + t.headOff) t.headBytes
  let vb ← kvRead x n q k.slot (a + x.rowBytes q.ctx / 2 + t.headOff) t.headBytes
  pure (kb, vb)

/-- Page blocks of a column that split `j` of 2^n covers (R269). -/
def splitBlocks (n j nb : Nat) : List Nat :=
  (List.range ((j + 1) * nb / 2 ^ n)).drop (j * nb / 2 ^ n)

/-- The blocks of keys of a column for a command, in order. -/
def columnBlocks (x : State) (n : Nat) (q : QCmd) (k : AttnCol) : Run (List (List (Bytes × Bytes))) := do
  let t := attnOf q.bytes
  let pages ← (splitBlocks t.splitLog2 t.splitIdx (ceilDiv (k.pos + 1) 64)).mapM fun b =>
    ((List.range 64).filter fun i => 64 * b + i ≤ k.last).mapM fun i => posKeys x n q k (64 * b + i)
  if k.scratch ≠ [] ∧ t.splitIdx + 1 = 2 ^ t.splitLog2 then do
    let own ← k.scratch.mapM (scratchKeys x n q k)
    pure (pages ++ [own])
  else pure pages

/-- Values of head `h` in the K or V bytes of a row. -/
def kvHeadOf (t : AttnCmd) (h : Nat) (b : Bytes) : List Fv := fltUnpack (t.kvFmt + 1) (slice b (h * t.dim * t.elem) (t.dim * t.elem))

/-- One query row over the blocks of its column. -/
def attnRow (t : AttnCmd) (h : Nat) (query : List Fv) (blocks : List (List (Bytes × Bytes))) : SoftRow :=
  blocks.foldl (fun r ks => r.block (ks.map fun (kb, vb) =>
    (fMul t.scale (cuSum 0 (List.zipWith (fun a b => toF32 (a.mul b)) query (kvHeadOf t h kb))), kvHeadOf t h vb)))
    { acc := List.replicate t.dim 0 }

/-- A partial record (R263). -/
def partialBytes (r : SoftRow) : Bytes := leBytes 4 r.m.toNat ++ leBytes 4 r.l.toNat ++ r.acc.flatMap fun a => leBytes 4 a.toNat

/-- A partial record read back. -/
def partialOf (dim : Nat) (b : Bytes) : SoftRow :=
  { m := BitVec.ofNat 32 (fieldAt b 0 4), l := BitVec.ofNat 32 (fieldAt b 4 4)
    acc := (List.range dim).map fun d => BitVec.ofNat 32 (fieldAt b (8 + 4 * d) 4) }

/-- A column attends: every query row of every handled head. -/
def attnAttend (s x : State) (n : Nat) (q : QCmd) (c : Nat) (k : AttnCol) : Run Unit := do
  let t := attnOf q.bytes
  let blocks ← columnBlocks x n q k
  (List.range t.kvHeads).forM fun h => (List.range t.perKv).forM fun r => do
    let i := (c * t.kvHeads + h) * t.perKv + r
    let query ← logged s q k.slot (opRead s n q (t.qVa + i * t.dim * 2) (t.dim * 2))
    let row := attnRow t h (fltUnpack 1 query) blocks
    logged s q k.slot (if t.splitLog2 = 0 then opWrite s n q (t.oVa + i * t.dim * t.outWidth) (row.out t.outBf)
      else opWrite s n q (t.oVa + t.splitIdx * t.stride + i * t.record) (partialBytes row))

/-- A merge (R269). -/
def attnMerge (s : State) (n : Nat) (q : QCmd) : Run Unit :=
  let t := attnOf q.bytes
  (List.range t.rows).forM fun i => do
    let parts ← (List.range (2 ^ t.splitLog2)).mapM fun j => do
      pure (partialOf t.dim (← logged s q 0 (opRead s n q (t.oVa + j * t.stride + i * t.record) (8 + 4 * t.dim))))
    logged s q 0 (opWrite s n q (t.qVa + i * t.dim * t.outWidth) ((mergeTree t.splitLog2 parts).out t.outBf))

/-- What an ATTN command computes. -/
def attnRun (n : Nat) (q : QCmd) (s : State) : Run Unit := do
  let t := attnOf q.bytes
  need (attnCodesOk q.bytes) Cmd.command
  if !s.geometryOk q.ctx then attnFault s q 0 0 2 Cmd.shape
  need (s.attnShapeOk q.ctx q.bytes) Cmd.shape
  if t.merge then attnMerge s n q
  else
    let cols ← attnColumns s n q
    if t.write then attnWrite s n q cols
    if t.attend then
      let written := (← get).rows
      let x := s.after (forA written fun (va, d) => storeVa (walkerAgent n q) va d)
      cols.zipIdx.forM fun (k, c) => attnAttend s x n q c k

/-- The output region of an ATTN command. -/
def attnRegion (q : QCmd) : List (Nat × Nat) :=
  let t := attnOf q.bytes
  if t.merge then [(t.qVa, t.rows * t.dim * t.outWidth)]
  else if !t.attend then []
  else if t.splitLog2 = 0 then [(t.oVa, t.rows * t.dim * t.outWidth)]
  else [(t.oVa + t.splitIdx * t.stride, t.rows * t.record)]

/-- An ATTN command runs. -/
def attnCmd (n : Nat) (q : QCmd) : Act := runUnit n q (attnRegion q) (attnRun n q)

/-- ATTN (R262 to R270, R277). -/
def execAttn (core : CoreId) (s : State) : Host.Outcome State Fault Refusal := done (runNext core 0x0B (attnCmd core)) s

end Sys2Proof.Machine
end

