-- ==== Sys2Proof/Machine/Migration.lean ====
section
/-! DEFINITION. The migration engine: descriptors, pools, copies, remapping, records. R192 to R197, R276, R358, R403. -/

namespace Sys2Proof.Machine

open Sys2Proof

/-! ## Records (Table 8.4) -/

/-- Status codes of Table 8.4. -/
def Ms.ok : Nat := 0
/-- MISMATCH. -/
def Ms.mismatch : Nat := 1
/-- NO_PAGE. -/
def Ms.noPage : Nat := 2
/-- BAD_DESC. -/
def Ms.badDesc : Nat := 3
/-- POOL_FULL. -/
def Ms.poolFull : Nat := 4
/-- POOL_EMPTY. -/
def Ms.poolEmpty : Nat := 5
/-- TRANSLATION. -/
def Ms.translation : Nat := 6

/-- A completion record: tag, status, flags, the page handed back. -/
def migRecord (tag status flags page : Nat) : Bytes :=
  leBytes 4 tag ++ leBytes 1 status ++ leBytes 1 flags ++ leBytes 2 0 ++ leBytes 8 page

/-- Completion entries held: by migrations in flight and by records that wait. -/
def State.migHeld (s : State) : Nat := s.mig.inflight.length + s.mig.records.length

/-! ## Intake (R192, R193) -/

/-- The next migration descriptor. -/
def State.nextMig (s : State) : Option Bytes :=
  if s.mig.inflight.length < 64 then s.nextDesc { migPlace with limit := s.migHeld + 1 } s.migHeld else none

/-- Fields that Table 8.3 fixes: rsvd fields, and addresses that a kind does not use. -/
def migFieldsOk (d : Bytes) : Bool :=
  let kind := fieldAt d 0 1
  fieldAt d 1 1 < 2 && (kind == 5 || fieldAt d 1 1 == 0) && fieldAt d 2 1 < 16 && fieldAt d 3 1 == 0 &&
  (kind == 1 || fieldAt d 8 8 == 0) && (kind == 1 || kind == 4 || fieldAt d 16 8 == 0) &&
  (kind ≤ 3 || fieldAt d 24 8 == 0) && decide (fieldAt d 24 8 < 2 ^ 57) && fieldAt d 24 8 % unitBytes == 0 &&
  (kind == 1 || 4 ≤ kind || fieldAt d 24 8 != 0)

/-- A unit that a descriptor may name: aligned, in a tier, outside the host-managed region, without a retired page. -/
def State.unitOk (s : State) (a : Nat) : Bool :=
  a % unitBytes == 0 && s.rangeInTier a unitBytes && !s.meetsHdm a unitBytes && !s.rangeRetired a unitBytes

/-- A descriptor of the kind is taken and ends at once with a status. -/
def endDesc (d : Bytes) (status page : Nat) : Act :=
  seqA [takeDesc migPlace, putMigRecord (migRecord (fieldAt d 4 4) status 0 page) status]

/-- The next descriptor, when it has the given kind. -/
def migDesc (kind : Nat) (f : Bytes → Act) : Act := seqA [flushMigRecords, fun s =>
  match s.nextMig with
  | some d => if fieldAt d 0 1 = kind then f d s else []
  | none => []]

/-- A copy, promotion or demotion is taken: it stands in CHECK. -/
def migTake (kind : Nat) : Act := migDesc kind fun d =>
  seqA [takeDesc migPlace, act [.mig fun m => { m with nextId := m.nextId + 1, inflight := m.inflight ++
    [{ id := m.nextId, kind := kind, ctx := fieldAt d 2 1 % 16, tag := fieldAt d 4 4, src := fieldAt d 8 8, dst := fieldAt d 16 8,
       va := fieldAt d 24 8, failed := if migFieldsOk d then none else some Ms.badDesc }] }]]

/-- A promotion of the request engine is taken from the internal queue. -/
def migTakeInternal : Act := seqA [flushMigRecords, fun s =>
  match s.mig.internal with
  | [] => []
  | (c, slot, va, i) :: t =>
    if s.tiersUp ∧ s.mig.inflight.length < 64 ∧ s.cplFree migPlace s.migHeld then
      [.mig fun m => { m with internal := t, nextId := m.nextId + 1, inflight := m.inflight ++
        [{ id := m.nextId, kind := 2, ctx := c, tag := slot, va := va, place := i, fromEngine := true
           failed := if va % unitBytes = 0 ∧ va < 2 ^ 57 then none else some Ms.badDesc }] }]
    else []]

/-- POOL_ADD: a page joins the pool of its tier. -/
def poolAddPage : Act := migDesc 4 fun d s =>
  let a := fieldAt d 16 8
  if !migFieldsOk d ∨ !s.unitOk a then endDesc d Ms.badDesc 0 s
  else
    let fast := s.region a == .fast
    if 1024 ≤ (if fast then s.mig.poolFast else s.mig.poolSlow).length then endDesc d Ms.poolFull a s
    else seqA [act [.mig fun m => if fast then { m with poolFast := m.poolFast ++ [a] } else { m with poolSlow := m.poolSlow ++ [a] }],
      endDesc d Ms.ok 0] s

/-- POOL_TAKE: a page leaves the pool of a tier. -/
def poolTakePage : Act := migDesc 5 fun d s =>
  let fast := fieldAt d 1 1 % 2 = 0
  if !migFieldsOk d ∨ (!fast ∧ !s.slowPresent) then endDesc d Ms.badDesc 0 s
  else match (if fast then s.mig.poolFast else s.mig.poolSlow) with
    | [] => endDesc d Ms.poolEmpty 0 s
    | p :: _ => seqA [act [.mig fun m => if fast then { m with poolFast := m.poolFast.drop 1 } else { m with poolSlow := m.poolSlow.drop 1 }],
        endDesc d Ms.ok p] s

/-- A descriptor of a reserved kind. -/
def migRsvd : Act := seqA [flushMigRecords, fun s =>
  match s.nextMig with
  | some d => if fieldAt d 0 1 = 0 ∨ 6 ≤ fieldAt d 0 1 then endDesc d Ms.badDesc 0 s else []
  | none => []]

/-! ## The end of a migration -/

/-- A migration in flight. -/
def State.migration (s : State) (id : Nat) : Option Migration := s.mig.inflight.find? (·.id == id)

/-- A migration changes. -/
def setMig (id : Nat) (f : Migration → Migration) : Act :=
  act [.mig fun m => { m with inflight := modFirst (·.id == id) f m.inflight }]

/-- A migration is DONE: its record is written, and the request engine learns of its own promotions (R239). -/
def migEnd (m : Migration) (status page : Nat) : Act :=
  seqA [act [.mig fun e => { e with inflight := eraseFirst (·.id == m.id) e.inflight }],
    putMigRecord (migRecord m.tag status (b2n m.poison + 2 * b2n m.fromEngine) page) status,
    if m.fromEngine then promoteEnded m.tag m.place (status == Ms.ok || status == Ms.mismatch) else nothing]

/-! ## CHECK (R193, R194, R358) -/

/-- The migration engine as an agent. -/
def migAgent (c : Nat) : Agent := { code := 2, ctx := c }

/-- Every frame of a unit is one that the context may read, and no firewall denies it. -/
def State.unitOwned (s : State) (c a : Nat) : Bool :=
  (List.range 32).all fun i => (s.ownKey c (a + 65536 * i)).isSome && !s.rangeDenied 0 (a + 65536 * i) 65536

/-- The destination frames take the source frames' tags. -/
def copyTags (src dst : Nat) : Act := fun s => forA (List.range 32) (fun i => setTag (dst + 65536 * i) (s.keyTag (src + 65536 * i))) s

/-- CHECK passes: the copy begins. While another migration works on a destination frame, CHECK is held (R358). -/
def migGo (m : Migration) (src dst leafAddr leaf : Nat) : Act := fun s =>
  if !s.unitOwned m.ctx src ∨ s.rangeDenied 0 dst unitBytes then migEnd m Ms.translation 0 s
  else if s.rangeMigrates dst unitBytes then []
  else seqA [copyTags src dst, setMig m.id fun x => { x with
      src := src, dst := dst, state := .copy, leafAddr := leafAddr, leaf := leaf }] s

/-- CHECK of a COPY. -/
def checkCopy (m : Migration) : Act := fun s =>
  if !s.unitOk m.src ∨ !s.unitOk m.dst ∨ m.src = m.dst then migEnd m Ms.badDesc 0 s
  else if m.va = 0 then migGo m m.src m.dst 0 0 s
  else match s.walk (migAgent m.ctx) m.va 2 with
    | .error (l, r) => seqA [logXlt (migAgent m.ctx) m.va l r, migEnd m Ms.translation 0] s
    | .ok w => if w.sizeLog2 = 21 ∧ w.pa = m.src then migGo m m.src m.dst w.leafAddr w.leaf s else migEnd m Ms.mismatch 0 s

/-- CHECK of a PROMOTE or DEMOTE: the leaf, then a page from the pool of the other tier. A pool page that lies in the host-managed
region, or holds a retired page, ends it with BAD_DESC and stays in its pool (R189, R193, R196). -/
def checkMove (m : Migration) : Act := fun s =>
  let up := m.kind = 2
  if !s.slowPresent then migEnd m Ms.badDesc 0 s
  else match s.walk (migAgent m.ctx) m.va 2 with
    | .error (l, r) => seqA [logXlt (migAgent m.ctx) m.va l r, migEnd m Ms.translation 0] s
    | .ok w =>
      if w.sizeLog2 ≠ 21 ∨ s.region w.pa ≠ (if up then .slow else .fast) then migEnd m Ms.mismatch 0 s
      else if s.meetsHdm w.pa unitBytes then migEnd m Ms.badDesc 0 s
      else match (if up then s.mig.poolFast else s.mig.poolSlow) with
        | [] => migEnd m Ms.noPage 0 s
        | p :: _ =>
          if !s.unitOk p then migEnd m Ms.badDesc 0 s
          else if !s.unitOwned m.ctx w.pa ∨ s.rangeDenied 0 p unitBytes then migEnd m Ms.translation 0 s
          else if s.rangeMigrates p unitBytes then []
          else seqA [act [.mig fun e => if up then { e with poolFast := e.poolFast.drop 1 } else { e with poolSlow := e.poolSlow.drop 1 }],
            migGo m w.pa p w.leafAddr w.leaf] s

/-- CHECK of a migration. -/
def migCheck (id : Nat) : Act := fun s =>
  match s.migration id with
  | none => []
  | some m =>
    if m.state ≠ .check then []
    else match m.failed with
      | some st => migEnd m st 0 s
      | none => if m.kind = 1 then checkCopy m s else checkMove m s

/-! ## COPY and FINAL (R194, R195) -/

/-- The copy passes are over: the destination holds the source as it stands now, and FINAL begins. -/
def migCopy (id : Nat) : Act := fun s =>
  match s.migration id with
  | none => []
  | some m =>
    if m.state ≠ .copy then []
    else seqA [copyLines 3 m.ctx m.src m.dst unitBytes,
      setMig id fun x => { x with state := .final, poison := s.anyPoison m.src unitBytes }] s

/-- The pages whose first frame lies in the unit are shared or pinned (R276). -/
def State.unitShared (s : State) (src : Nat) : Bool :=
  s.pagesReady && (List.range 32).any fun i =>
    let e := s.ledger (src + 65536 * i)
    decide (1 < e.refcount) || decide (0 < e.pins)

/-- The ledger entries of a unit move with it (R276). -/
def moveLedger (src dst : Nat) : Act := fun s =>
  if !s.pagesReady then []
  else seqA [forA (List.range 32) (fun i => ledgerPut (dst + 65536 * i) (s.ledger (src + 65536 * i))),
    forA (List.range 32) fun i => ledgerPut (src + 65536 * i) {}] s

/-- Repairs in STUCK whose line lies in a unit that a migration has moved end with REPAIR_DONE (R403). -/
def stuckDone (src : Nat) : Act := fun s =>
  let rs := s.flt.repairs.filter fun r => r.state == .stuck && decide (src ≤ r.line * 64 ∧ r.line * 64 < src + unitBytes)
  forA rs (endRepair · 7) s

/-- The new leaf: the destination with the old permission and cow bits. -/
def movedLeaf (old dst : Nat) : Nat := old % 256 + dst / 256 * 256

/-- The writes that FINAL held go on, to the same offsets of a unit (R195). -/
def releaseWrites (m : Migration) (unit : Nat) : Act :=
  forA m.held fun (a, key, d) => fun s => storeLine s key (a - m.src + unit) d

/-- FINAL and REMAP: the leaf is compared with the one found in CHECK and replaced. After a remap the writes held in FINAL go to the
destination; else they go to the source, and the destination keeps the source as it stood at FINAL (R194, R195). -/
def migFinal (id : Nat) : Act := fun s =>
  match s.migration id with
  | none => []
  | some m =>
    let old := m.leaf
    if m.state ≠ .final then []
    else if m.va = 0 then seqA [migEnd m Ms.ok 0, releaseWrites m m.src] s
    else
      let same := match s.walk (migAgent m.ctx) m.va 2 with
        | .ok w => w.leafAddr == m.leafAddr && s.peekNat m.leafAddr 8 == old && w.leaf == old
        | .error _ => false
      if !same ∨ s.unitShared m.src then
        seqA [migEnd m Ms.mismatch (if m.kind = 1 then 0 else m.dst), releaseWrites m m.src] s
      else seqA [moveLedger m.src m.dst,
        storePlain m.leafAddr (leBytes 8 (movedLeaf old m.dst)), act [dropCached m.ctx m.va unitBytes],
        stuckDone m.src, migEnd m Ms.ok m.src, releaseWrites m m.dst] s

/-! ## The commands -/

/-- COPY (R189, R192, R193). -/
def execCopy (s : State) : Host.Outcome State Fault Refusal := done (migTake 1) s

/-- PROMOTE: from the ring, or one of the request engine's (R192, R193). -/
def execPromote (fromEngine : Bool) (s : State) : Host.Outcome State Fault Refusal :=
  done (if fromEngine then migTakeInternal else migTake 2) s

/-- DEMOTE (R193). -/
def execDemote (s : State) : Host.Outcome State Fault Refusal := done (migTake 3) s

/-- POOL_ADD (R193). -/
def execPoolAdd (s : State) : Host.Outcome State Fault Refusal := done poolAddPage s

/-- POOL_TAKE (R193). -/
def execPoolTake (s : State) : Host.Outcome State Fault Refusal := done poolTakePage s

/-- RESERVED_MIGRATION_KIND (R193). -/
def execReservedMigrationKind (s : State) : Host.Outcome State Fault Refusal := done migRsvd s

/-- MIGRATION_CHECK_DONE (R194, R358). -/
def execMigrationCheckDone (id : Nat) (s : State) : Host.Outcome State Fault Refusal := done (migCheck id) s

/-- MIGRATION_COPY_DONE (R194, R197). -/
def execMigrationCopyDone (id : Nat) (s : State) : Host.Outcome State Fault Refusal := done (migCopy id) s

/-- MIGRATION_FINAL_DONE (R194 to R196, R239, R276, R403). -/
def execMigrationFinalDone (id : Nat) (s : State) : Host.Outcome State Fault Refusal := done (migFinal id) s

end Sys2Proof.Machine
end

