-- ==== Sys2Proof/Machine/Resets.lean ====
section
/-! DEFINITION. The reset kinds and their requests. R77, R163, R349, R376 to R378. -/

namespace Sys2Proof.Machine

open Sys2Proof

/-! ## What a partial reset does (Table 15.6) -/

/-- A slot is reset: its galley is cleared, its units and its micro-TLB lose what they hold, its wheel counter starts from 0 (R156), and its registers but its identity and its power
state take their reset values. -/
def resetSlot (n : Nat) : Act := fun s =>
  let b := Config.coreRegBase + 0x1000 * n
  seqA [clearGalley n, clearUnits n,
    act [.regReset b 0x10, .regReset (b + 0x20) 0xFE0, .core n (fun x => { x with mustClear := false, wheel := 0 }), dropPlaces (· == .micro n)]] s

/-- Core reset. -/
def resetCore (n : Nat) : Act := seqA [returnToCluster (clusterOf n) [n], resetSlot n]

/-- An enable held PENDING for a cluster is withdrawn by a reset that contains it (R376). -/
def withdrawEnable (k : Nat) : Act := fun s =>
  if (s.cluster k).pendingOn then
    [.fld (Fld.pwrClusterTarget k) 2, .fld (Fld.pwrClusterStatus k) 1, .cluster k fun x => { x with pendingOn := false }]
  else []

/-- Cluster reset: queue entries and commands return to the hub; slots and expander are reset. -/
def resetCluster (k : Nat) : Act :=
  seqA [clusterToHub k, forA (coresOf k) resetSlot, act [dropPlaces (· == .cluster k)], clearExpander k, withdrawEnable k]

/-- Die reset: its clusters, its walk cache, and its cached region and directory entries. Pool banks keep contents, owners and states. -/
def resetDie (d : Nat) : Act :=
  seqA [forA (clustersOf d) resetCluster, act [.cmpCache fun c => c.filter (·.die != d), dropPlaces (· == .walker d)]]

/-- Context reset: its commands are cancelled, its period ends, the state of R354 on its clusters is cleared. -/
def resetContext (c : Nat) : Act := fun s =>
  let mine := (List.range 64).filter fun k => (s.cluster k).ctx == some c
  seqA [endPeriod c, cancelCmds (·.ctx == c), forA mine clearCluster, act [srZero c, dropContext c]] s

/-- The effect of a reset of a kind on its target. -/
def resetEffect (kind t : Nat) : Act :=
  match kind with
  | 1 => resetCore t
  | 2 => resetCluster t
  | 3 => resetDie t
  | 4 => resetContext t
  | _ => resetLink t

/-! ## Requests (R378) -/

/-- A target that exists, and for a context reset one that is RESIDENT or ACTIVE. -/
def State.resetTarget (s : State) (kind t : Nat) : Bool :=
  match kind with
  | 1 => t < 2048
  | 2 => t < 64
  | 3 => t < 4
  | 4 => t < 16 && s.ctxLive t
  | 5 => t < 12
  | _ => false

/-- The scope of one reset lies inside that of another. -/
def scopeInside (k t k' t' : Nat) : Bool :=
  (k == k' && t == t') || (k == 1 && k' == 2 && t / 32 == t') || (k == 1 && k' == 3 && t / 512 == t') ||
  (k == 2 && k' == 3 && t / 16 == t')

/-- A reset starts: it is counted, then it takes effect. -/
def resetStart (kind t : Nat) : Act :=
  seqA [countReset kind, act [.fld Fld.pwrResetStatusBusy 1, .fld Fld.pwrResetStatusKind kind, .fld Fld.pwrResetStatusTarget t],
    resetEffect kind t]

/-- A request for a reset, from PWR_RESET or from fault handling. -/
def resetRequest (kind t : Nat) : Act := fun s =>
  if !s.power.hubReady ∨ !s.resetTarget kind t then [.fld Fld.pwrResetStatusRefused 1]
  else if !s.flag Fld.pwrResetStatusBusy then resetStart kind t s
  else
    let k := s.fget Fld.pwrResetStatusKind
    let u := s.fget Fld.pwrResetStatusTarget
    if scopeInside kind t k u then [.fld Fld.pwrResetStatusAbsorbed 1]
    else if scopeInside k u kind t then resetStart kind t s
    else [.fld Fld.pwrResetStatusRefused 1]

/-- After a core reset an enable held PENDING for its cluster takes effect (R376). -/
def coreEnabled (k : Nat) : Act := fun s =>
  if s.fget (Fld.pwrClusterStatus k) = 2 ∧ !(s.cluster k).pendingOn then
    [.fld (Fld.pwrClusterStatus k) (b2n (s.fget (Fld.pwrClusterTarget k) == 1 && s.fget (Fld.pwrClusterCurrent k) == 0))]
  else []

/-- The reset in progress finishes. -/
def resetDone : Act := fun s =>
  if !s.flag Fld.pwrResetStatusBusy then []
  else seqA [act [.fld Fld.pwrResetStatusBusy 0, .fld Fld.pwrResetStatusDone 1],
    if s.fget Fld.pwrResetStatusKind = 1 then coreEnabled (s.fget Fld.pwrResetStatusTarget / 32) else nothing] s

/-! ## Module resets -/

/-- PG is high and no thermal trip holds the module. -/
def State.powered (s : State) : Bool := s.flag Fld.pwrStatusPg && !s.power.tripped

/-- Hub warm reset: every die is reset first, then the hub. Releases and handovers of pool banks in progress end (R174, Table 7.4), and the context table
entries of the slots that become EMPTY show no key and no package (R352). -/
def hubWarm : Act := fun s =>
  let used := (List.range 16).filter fun c => s.ctxState c != 0
  if !s.powered then [] else seqA [marchDrop, forA (List.range 256) (fun b => seqA [finishRelease b, poolHandover b]), act [.warm], forA used writeCtxEntry] s

/-- The module starts as at power-good; while THROT_N is low the emergency limit is in force (R370). -/
def coldAct : Act := fun s => .cold :: (if s.power.throtLow then [.fld Fld.pwrStatusEmergency 1] else [])

/-- Module cold reset, the only path out of a thermal trip. -/
def moduleCold : Act := fun s => if s.powered ∨ s.power.tripped then coldAct s else []

/-! ## The commands -/

/-- CORE_RESET: PWR_RESET kind 1 (R377, R378). -/
def execCoreReset (core : BitVec 11) (s : State) : Host.Outcome State Fault Refusal :=
  done (whenA State.bound (resetRequest 1 core.toNat)) s

/-- CLUSTER_RESET: PWR_RESET kind 2 (R377, R378). -/
def execClusterReset (cluster : BitVec 11) (s : State) : Host.Outcome State Fault Refusal :=
  done (whenA State.bound (resetRequest 2 cluster.toNat)) s

/-- DIE_RESET: PWR_RESET kind 3 (R377, R378). -/
def execDieReset (die : BitVec 11) (s : State) : Host.Outcome State Fault Refusal :=
  done (whenA State.bound (resetRequest 3 die.toNat)) s

/-- CONTEXT_RESET: PWR_RESET kind 4 (R377, R378). -/
def execContextReset (ctx : BitVec 11) (s : State) : Host.Outcome State Fault Refusal :=
  done (whenA State.bound (resetRequest 4 ctx.toNat)) s

/-- LINK_RESET: PWR_RESET kind 5 (R377, R378). -/
def execLinkReset (link : BitVec 11) (s : State) : Host.Outcome State Fault Refusal :=
  done (whenA State.bound (resetRequest 5 link.toNat)) s

/-- RESET_COMPLETE (R378). -/
def execResetComplete (s : State) : Host.Outcome State Fault Refusal := done resetDone s

/-- MODULE_COLD_RESET (R377, Table 15.6). -/
def execModuleColdReset (s : State) : Host.Outcome State Fault Refusal := done moduleCold s

/-- HUB_WARM_RESET (R377, R196). -/
def execHubWarmReset (s : State) : Host.Outcome State Fault Refusal := done hubWarm s

end Sys2Proof.Machine
end

