-- ==== Sys2Proof/Machine/Power.lean ====
section
/-! DEFINITION. Input power, rails, throttling, thermal limits, clock domains, hub ready and start-up self-test.
R11, R366 to R374, R379, R380, R383, R385. -/

namespace Sys2Proof.Machine

open Sys2Proof

/-! ## Rails (R366 to R368) -/

/-- Rails of Table 15.2 in the order in which they rise, each compute die's two rails counted as they stand: the intermediate bus, two of
step 1, four of step 2 (log entry 32). -/
def hubRails : Nat := 7
/-- With the six rails of step 3: both tiers are powered. -/
def tierRails : Nat := 13
/-- With the eight rails of step 4: the compute dies are powered. -/
def allRails : Nat := 21

/-- Rails rise up to number `last` of the order; the first `railsGood` of them reach regulation, and one that does not stops the
sequence: every later rail stays off, and it is the failing rail (R367). -/
def raiseRails (last : Nat) (p : Power) : Power :=
  { p with rails := min p.railsGood last, railFail := if p.railsGood < last then some p.railsGood else none }

/-- The rails of steps 0 to 2 rise. -/
def railsUp (n : Nat) : Act := fun s =>
  if s.flag Fld.pwrStatusPg ∨ !s.power.input ∨ !s.power.pwrEn then []
  else [.power fun p => raiseRails hubRails { p with tripped := false, railsGood := n }]

/-- Power-good, once the keep-warm and hub rails are in regulation: the module starts as at a module cold reset (R366). -/
def powerGood : Act := fun s =>
  if s.flag Fld.pwrStatusPg ∨ s.power.rails < hubRails ∨ s.power.tripped then [] else coldAct s

/-- An orderly power-down: PG goes low, every rail is removed, and no state but fuses, flash and secure NVM survives. -/
def powerDown : Act :=
  act [.cold, .fld Fld.pwrStatusPg 0, .power fun p => { p with rails := 0 }]

/-! ## Throttling (R369, R370) -/

/-- Vector 10, at most once per millisecond. -/
def powerEvent : Act := fun s =>
  let ok := match s.power.lastEvent with
    | none => true
    | some t => t + 100_000 ≤ s.ticks
  if ok then [.power fun p => { p with lastEvent := some s.ticks }, .msix Vec.power] else []

/-- The limit in force. -/
def State.powerLimit (s : State) : Nat :=
  if s.flag Fld.pwrStatusEmergency then s.fget Fld.pwrLimitEmergW else s.fget Fld.pwrLimitTdpW

/-- A sample breaks a limit: the peak, the limit in force, the length of a run, the quiet time after it, or the mean of
1 s. A run is above tdp_w; the emergency limit admits none (R369, R370). `overSamples` counts the samples of the run in progress,
`quietSamples` those at or below tdp_w since the last run or the last sample that broke the quiet time, up to 4,000. -/
def State.sampleBreaks (s : State) (w : Nat) : Bool :=
  let tdp := s.fget Fld.pwrLimitTdpW
  decide (1850 < w) || (s.flag Fld.pwrStatusEmergency && decide (s.fget Fld.pwrLimitEmergW < w)) ||
  (decide (tdp < w) && (decide (1000 ≤ s.power.overSamples) || decide (s.power.quietSamples < 4000))) ||
  decide (tdp * 100_000 < ((w :: s.power.samples).take 100_000).sum)

/-- The ratio falls by a number of steps. -/
def lowerRatio (steps : Nat) : Act := fun s => [.fld Fld.pwrStatusRatio (max 1 (s.fget Fld.pwrStatusRatio - steps))]

/-- A throttling bit of PWR_STATUS sets: the entry is counted and vector 10 is raised. -/
def enterThrottle (f cnt : Fld) : Act := fun s =>
  if s.flag f then [] else seqA [act [.fld f 1, .inc cnt 1], powerEvent] s

/-- A throttling bit of PWR_STATUS clears. -/
def leaveThrottle (f : Fld) : Act := fun s => if s.flag f then seqA [act [.fld f 0], powerEvent] s else []

/-- A sample of input power. -/
def powerSample (w steps : Nat) : Act := fun s =>
  if !s.powered then []
  else
    let above := decide (s.fget Fld.pwrLimitTdpW < w)
    let xs := (w :: s.power.samples).take 100_000
    seqA [if s.sampleBreaks w then seqA [lowerRatio (max 1 steps), enterThrottle Fld.pwrStatusPower Fld.pwrCntPower] else nothing,
      act [.power fun p => { p with
             samples := xs
             overSamples := if above && decide (4000 ≤ p.quietSamples) then p.overSamples + 1 else 0
             quietSamples := if above then (if 4000 ≤ p.quietSamples then 4000 else 0)
               else if p.overSamples = 0 then min 4000 (p.quietSamples + 1) else 1 },
           .fld Fld.pwrStatusExcursion (b2n above), .fld Fld.pwrStatusPinW ((xs.take 100).sum / min 100 xs.length)]] s

/-- The samples of the last 100 µs lie below 97 % of the limit in force. -/
def State.belowLimit (s : State) : Bool :=
  s.power.samples != [] && (s.power.samples.take 10).all fun w => decide (w * 100 < s.powerLimit * 97)

/-- The ratio rises by 1; at 32 power throttling is over. -/
def ratioRaise : Act := fun s =>
  let n := s.fget Fld.pwrStatusRatio
  if !s.powered ∨ !s.belowLimit ∨ s.flag Fld.pwrStatusThermal then []
  else seqA [act [.fld Fld.pwrStatusRatio (min 32 (n + 1))], if 31 ≤ n then leaveThrottle Fld.pwrStatusPower else nothing] s

/-- THROT_N falls: the emergency limit is in force, and the module meets it at a ratio. -/
def throtFall (ratio : Nat) : Act := fun s =>
  if !s.powered then [.power fun p => { p with throtLow := true }]
  else seqA [act [.power (fun p => { p with throtLow := true }), .inc Fld.pwrCntEmergency 1,
      .fld Fld.pwrStatusRatio (min (s.fget Fld.pwrStatusRatio) (max 1 ratio))],
    if s.flag Fld.pwrStatusEmergency then nothing else seqA [act [.fld Fld.pwrStatusEmergency 1], powerEvent]] s

/-- The emergency limit is released, unless THROT_N is low again. -/
def throtRelease : Act := fun s => if s.power.throtLow then [] else leaveThrottle Fld.pwrStatusEmergency s

/-! ## Thermal limits (R371) -/

/-- The hottest junction reads `tmax`: at throttle_c the ratio falls to one at which it cools, and throttling ends when every
junction reads at least hysteresis_c below. -/
def thermal (tmax ratio : Nat) : Act := fun s =>
  if !s.powered then []
  else seqA [act [.fld Fld.pwrStatusTmaxC tmax],
    if s.fget Fld.pwrThermThrottleC ≤ tmax then
      seqA [act [.fld Fld.pwrStatusRatio (min (s.fget Fld.pwrStatusRatio) (max 1 ratio))],
        enterThrottle Fld.pwrStatusThermal Fld.pwrCntThermal]
    else if tmax + s.fget Fld.pwrThermHysteresisC ≤ s.fget Fld.pwrThermThrottleC then leaveThrottle Fld.pwrStatusThermal
    else nothing] s

/-- A stack at 85 °C or above refreshes at the doubled rate. -/
def hotStack (k temp : Nat) : Act :=
  act [.power fun p => { p with hotStacks := (if 85 ≤ temp then [k] else []) ++ p.hotStacks.filter (· != k) }]

/-- A thermal trip: every rail but the three of steps 0 and 1 is removed, and THERMTRIP_N is driven low. -/
def thermalTrip : Act := fun s =>
  if s.power.rails = 0 then []
  else [.cold, .fld Fld.pwrStatusPg 0, .power fun p => { p with rails := 3, tripped := true }]

/-! ## Clock domains (R373, R374) -/

/-- The condition of Table 15.3 under which a domain stops. -/
def State.mayStop (s : State) (d : Nat) : Bool :=
  let clusters (k : Nat) (p : Nat → Bool) := (clustersOf k).all fun i => p (s.fget (Fld.pwrClusterCurrent i))
  if d < 4 then clusters d (· != 0)
  else if d < 8 then clusters (d - 4) (· == 2) &&
    (List.range 64).all fun i => s.fget (Fld.poolStateCurrent ((d - 4) * 64 + i)) != 0
  else match d with
    | 9 => s.power.selfRefresh
    | 10 => !s.slowPresent || s.power.selfRefresh
    | 11 => s.port.perst
    | 12 => (List.range 12).all fun l => [Ls.disabled, Ls.absent, Ls.failed].contains (s.linkState l)
    | 13 => !s.flag Fld.reqCtrlEnable && s.sampler.queue.isEmpty
    | 14 => s.packs.isEmpty && s.clusters.all (fun p => p.2.expReqs.isEmpty) && s.links.all (fun p => p.2.gather.isNone)
    | _ => false

/-- A running domain whose stop condition has held for 10 µs stops. -/
def domainStop (d : Nat) : Act := fun s =>
  if s.fget (Fld.clkDomState d) = 2 ∧ s.mayStop d then [.fld (Fld.clkDomState d) 0] else []

/-! ## Hub ready (R379, R383) -/

/-- The fabric identity pins read an odd number of ones with FID_PAR. -/
def pinsOdd : Bool := (popCount 9 Config.fidPins.toNat + b2n Config.fidPar) % 2 == 1

/-- With every rail in regulation the start-up run of the march test engines begins on every die: destructive after a module cold
reset, preserving after a hub warm reset (R380, Table 7.7). -/
def startUpMarch : Act := fun s =>
  if s.power.rails < allRails then [] else marchGo { dies := 0xF, preserve := !s.power.coldReset, startUp := true } s

/-- Hub ready: identity latched, links in TRAINING or, on a parity failure, held DISABLED; domains run; the rails of steps 3
and 4 rise and the die-to-die links train (log entry 32). -/
def hubReady : Act := fun s =>
  if !s.powered ∨ s.power.hubReady ∨ !s.sec.booted ∨ s.sec.held then []
  else seqA [act [.power (fun p => raiseRails allRails { p with hubReady := true }), .flt (fun f => { f with readyTick := s.ticks }),
      .fld Fld.pwrStrapFid Config.fidPins.toNat, .fld Fld.pwrStrapPar (b2n Config.fidPar),
      .fld Fld.pwrStrapFidErr (b2n (!pinsOdd)), .fld Fld.hlFabricFabricId Config.fidPins.toNat,
      .reg Reg.hubD2dStatus 0xF, .fld (Fld.clkDomState 8) 2], startUpMarch,
    if s.port.perst then nothing else act [.fld (Fld.clkDomState 11) 2, .fld Fld.cxlLinkState 1],
    if pinsOdd then forA (List.range 12) (fun l => whenA (fun t => !t.flag (Fld.hlLctrlDisable l)) (trainLink l)) else nothing] s

/-! ## Start-up self-test (R11, R380) -/

/-- A cluster after self-test, given its failed slots: ON, ON with its spare in place of one slot, or OFF and out of
service. -/
def clusterTested (k : Nat) (bad : List Nat) : Act :=
  seqA [act [.flt fun f => { f with failed := f.failed ++ bad.map (k * 33 + ·) }],
    match bad with
    | [] => targetOn k
    | [32] => targetOn k
    | [i] => seqA [act [.fld (Fld.coreIdPhysSlot (k * 32 + i)) 32, .fld (Fld.coreIdSpareActive (k * 32 + i)) 1,
        .fld (Fld.fltSpareClusters.item k) 1], targetOn k]
    | _ => act [.fld (Fld.fltOutClusters.item k) 1, .fld (Fld.pwrClusterStatus k) 3]]

/-- Start-up self-test ends: clusters, banks, and the first stage of the fabric. -/
def selfTested (slots : List (Fin 64 × Fin 33)) (banks : List BankId) : Act := fun s =>
  if !s.power.hubReady ∨ s.power.rails < allRails ∨ s.fget Fld.hlFabricStage ≠ 0 then []
  else
    let badOf (k : Nat) := (List.range 33).filter fun i => slots.any fun p => p.1.val == k && p.2.val == i
    seqA [if (s.march.map (·.startUp)).getD false then marchEnd (banks.map (·.val)) else forA (banks.map (·.val)) bankFailed,
      forA (List.range 64) (fun k => clusterTested k (badOf k)),
      fun t => [.fld Fld.fltStatusInService t.servedAll], act [.fld Fld.hlFabricStage 1],
      basicBelow, stageReview] s

/-! ## Management interface (R385) -/

/-- The interface answers from the boot of the security domain on, also while the module is held. -/
def State.mgmtUp (s : State) : Bool := s.powered && (s.sec.booted || s.sec.held)

/-- A PLDM Type 2 request: rails, power, temperatures and throttle state. -/
def pldmMonitor (request : Nat) : Act := fun s =>
  if s.mgmtUp ∨ s.power.railFail.isSome then
    [.out (.mctp (Config.standardReply 0x200 (leBytes 4 request ++ leBytes 8 (s.rd Reg.pwrStatus).toNat ++
      leBytes 1 s.power.rails ++ leBytes 1 (s.power.railFail.getD 0xFF))))]
  else []

/-! ## The commands -/

/-- INPUT_POWER_UP (R367). -/
def execInputPowerUp (railsInRegulation : Nat) (s : State) : Host.Outcome State Fault Refusal :=
  done (seqA [act [.power fun p => { p with input := true }], railsUp railsInRegulation]) s

/-- POWER_GOOD (R366). -/
def execPowerGood (s : State) : Host.Outcome State Fault Refusal := done powerGood s

/-- PWR_EN_LOW (R368). -/
def execPwrEnLow (s : State) : Host.Outcome State Fault Refusal :=
  done (seqA [act [.power fun p => { p with pwrEn := false }], powerDown]) s

/-- PWR_EN_HIGH (R367). -/
def execPwrEnHigh (railsInRegulation : Nat) (s : State) : Host.Outcome State Fault Refusal :=
  done (seqA [act [.power fun p => { p with pwrEn := true }], railsUp railsInRegulation]) s

/-- INPUT_UNDERVOLTAGE: the input falls to 37 V (R368). -/
def execInputUndervoltage (s : State) : Host.Outcome State Fault Refusal :=
  done (seqA [act [.power fun p => { p with input := false }], powerDown]) s

/-- INPUT_OVERVOLTAGE: the input reaches 63 V (Table 15.1). -/
def execInputOvervoltage (s : State) : Host.Outcome State Fault Refusal :=
  done (seqA [act [.power fun p => { p with input := false }], powerDown]) s

/-- POWER_SAMPLE: `steps` is the number of ratio steps that the measured excess requires (R369, R370). -/
def execPowerSample (watts steps : Nat) (s : State) : Host.Outcome State Fault Refusal := done (powerSample watts steps) s

/-- RATIO_RAISE_TICK (R370). -/
def execRatioRaiseTick (s : State) : Host.Outcome State Fault Refusal := done ratioRaise s

/-- THROT_N_FALL: `ratio` is one at which the emergency limit is met (R370). -/
def execThrotNFall (ratio : Fin 33) (s : State) : Host.Outcome State Fault Refusal := done (throtFall ratio) s

/-- THROT_N_RISE (R370). -/
def execThrotNRise (s : State) : Host.Outcome State Fault Refusal := done (act [.power fun p => { p with throtLow := false }]) s

/-- EMERGENCY_RELEASE: 1 ms after THROT_N rises (R370). -/
def execEmergencyRelease (s : State) : Host.Outcome State Fault Refusal := done throtRelease s

/-- THERMAL_THROTTLE (R371). -/
def execThermalThrottle (tmax : Nat) (ratio : Fin 33) (s : State) : Host.Outcome State Fault Refusal := done (thermal tmax ratio) s

/-- HBM_HOT_REFRESH (R371). -/
def execHbmHotRefresh (stack : Fin 6) (temp : Nat) (s : State) : Host.Outcome State Fault Refusal := done (hotStack stack temp) s

/-- THERMAL_TRIP (R371). -/
def execThermalTrip (s : State) : Host.Outcome State Fault Refusal := done thermalTrip s

/-- DOMAIN_START: something beside the commands of this model reaches the domain (R374). -/
def execDomainStart (domain : Fin 18) (s : State) : Host.Outcome State Fault Refusal := done (demand domain) s

/-- DOMAIN_STOP (R374). -/
def execDomainStop (domain : Fin 18) (s : State) : Host.Outcome State Fault Refusal := done (domainStop domain) s

/-- HUB_READY (R379, R383). -/
def execHubReady (s : State) : Host.Outcome State Fault Refusal := done hubReady s

/-- SELF_TEST_COMPLETE (R11, R380). -/
def execSelfTestComplete (failedSlots : List (Fin 64 × Fin 33)) (failedBanks : List BankId) (s : State) :
    Host.Outcome State Fault Refusal := done (selfTested failedSlots failedBanks) s

/-- PLDM_MONITORING (R385). -/
def execPldmMonitoring (request : Nat) (s : State) : Host.Outcome State Fault Refusal := done (pldmMonitor request) s

end Sys2Proof.Machine
end

