-- ==== Sys2Proof/Machine/Sampler.lean ====
section
/-! DEFINITION. The sampling units: candidates, the pick, the walk of a tree, and the records that commit a step.
R13, R120, R243, R244, R246 to R252, R271. -/

namespace Sys2Proof.Machine

open Sys2Proof

/-! ## Candidates (R120, R247, R248) -/

/-- A candidate: value and token. -/
structure Cand where
  v : F32
  tok : Nat
  deriving DecidableEq, Repr

/-- The order of R120: descending value, ties to the lower index, NaN last. -/
def candBefore (a b : Cand) : Bool :=
  match f32v a.v, f32v b.v with
  | .nan, .nan => a.tok < b.tok
  | .nan, _ => false
  | _, .nan => true
  | x, y => y.lt x || (!x.lt y && a.tok < b.tok)

/-- `n` records of a candidate list. -/
def readCands (b : Bytes) (n : Nat) : List Cand :=
  (List.range n).map fun i => ⟨BitVec.ofNat 32 (fieldAt b (8 * i) 4), fieldAt b (8 * i + 4) 4⟩

/-- keep_finite (R248, R250): finite values with an index below vocab, in order. -/
def keepFinite (vocab : Nat) (cs : List Cand) : List Cand := cs.filter fun c => fFin c.v && c.tok < vocab

/-- Logits of a column as FP32 values. -/
def readLogits (b : Bytes) (fmt n : Nat) : List F32 :=
  (List.range n).map fun i =>
    if fmt = 0 then BitVec.ofNat 32 (fieldAt b (4 * i) 4) else ofBf16 (fieldAt b (2 * i) 2)

/-- The full path (R247): bias added to tokens below vocab, tokens whose bitmap bit is 0 removed, the greatest kept. -/
def fullCands (logits : List F32) (bias : List (Nat × F32)) (bitmap : Option Bytes) (n : Nat) : List Cand :=
  let cs := logits.zipIdx.map fun (v, t) =>
    (⟨(bias.filter (·.1 == t)).foldl (fun v b => fAdd v b.2) v, t⟩ : Cand)
  let cs := match bitmap with
    | none => cs
    | some m => cs.filter fun c => bitOf (fieldAt m (c.tok / 8) 1) (c.tok % 8)
  (sortBy candBefore cs).take n

/-! ## The pick (R248, R249) -/

/-- Sum in ascending order, each addition rounded. -/
def fSum (xs : List F32) : F32 := xs.foldl fAdd 0#32

/-- The number of candidates left after min_p, from `m` down to 1. -/
def cutMinP (w : List F32) (minP : F32) : Nat → Nat
  | 0 => 0
  | m + 1 => if m ≥ 1 ∧ fLt ((w[m]?).getD 0#32) minP then cutMinP w minP m else m + 1

/-- The index at which the running sum first reaches a limit, at most the last. -/
def prefixTo (lim : F32) : List F32 → F32 → Nat → Nat
  | [], _, k => k
  | [_], _, k => k
  | x :: t, cum, k =>
    let cum := fAdd cum x
    if fLt cum lim then prefixTo lim t cum (k + 1) else k

/-- The first index at which the running sum passes a value, at most the last. -/
def passAt (t : F32) : List F32 → F32 → Nat → Nat
  | [], _, k => k - 1
  | x :: r, cum, k =>
    let cum := fAdd cum x
    if fLt t cum then k else passAt t r cum (k + 1)

/-- smp_pick (R248) over finite candidates: the chosen index, or none for NO_TOKEN. -/
def smpPick (cs : List Cand) (r : Request) (u : F32) : Option Nat :=
  match cs with
  | [] => none
  | c0 :: _ =>
    let temp : F32 := BitVec.ofNat 32 (r.pf 0x48 4)
    if (f32v temp).dy.m = 0 then some 0
    else
      let w := cs.map fun c => fExp (fDiv (fSub c.v c0.v) temp)
      let n := cs.length
      let k := r.pf 0x4C 2
      let m := if k ≠ 0 ∧ k < n then k else n
      let m := cutMinP w (BitVec.ofNat 32 (r.pf 0x54 4)) m
      let tot := fSum (w.take m)
      let m := prefixTo (fMul (BitVec.ofNat 32 (r.pf 0x50 4)) tot) (w.take m) 0#32 0 + 1
      let s := fSum (w.take m)
      some (passAt (fMul u s) (w.take m) 0#32 0)

/-- The log-probability of a record within the finite candidates (R249). -/
def logProb (cs : List Cand) (i : Nat) : F32 :=
  match cs, cs[i]? with
  | c0 :: _, some c => fSub (fSub c.v c0.v) (fLn (fSum (cs.map fun x => fExp (fSub x.v c0.v))))
  | _, _ => 0#32

/-! ## Reading a column's candidates -/

/-- A virtual range of the context, with the stop it meets. -/
def State.engineRead (s : State) (c va n : Nat) : Except Stop Bytes :=
  if n = 0 then .ok [] else s.readVa (engineAgent c) va n

/-- Addresses of column `k` for a SAMPLE entry (R234): candidates and logits. -/
def sampleAddrs (i : SampleInfo) (k : Nat) : Nat × Nat :=
  let g := k / 64
  (i.candVa + (if i.patchCand then g * i.groupStride else 0) + k % 64 * i.candStride,
   i.logitsVa + (if i.patchLogits then g * i.groupStride else 0) + k % 64 * i.logitsStride)

/-- The ranges that the job of a column reads. -/
def sampleReads (r : Request) (i : SampleInfo) (vocab k : Nat) : List (Nat × Nat) :=
  let (cv, lv) := sampleAddrs i k
  if r.fullPath then
    [(lv, vocab * (if i.logitsFmt = 0 then 4 else 2)), (r.pf 0x58 8, 8 * r.pf 0x60 4),
     (r.pf 0x68 8, if r.pf 0x68 8 = 0 then 0 else ceilDiv vocab 8)]
  else [(cv, 8 * i.candCount)]

/-- The candidates of a column, sorted as in R120 (R247, R248, log entry 54). -/
def State.columnCands (s : State) (c : Nat) (r : Request) (i : SampleInfo) (k : Nat) : Except Stop (List Cand) :=
  let vocab := (s.period c).vocab
  let (cv, lv) := sampleAddrs i k
  if r.fullPath then
    match s.engineRead c lv (vocab * (if i.logitsFmt = 0 then 4 else 2)),
      s.engineRead c (r.pf 0x58 8) (8 * r.pf 0x60 4),
      s.engineRead c (r.pf 0x68 8) (if r.pf 0x68 8 = 0 then 0 else ceilDiv vocab 8) with
    | .ok lb, .ok bb, .ok mb =>
      .ok (fullCands (readLogits lb i.logitsFmt vocab)
        ((readCands bb (r.pf 0x60 4)).map fun x => (x.v.toNat, BitVec.ofNat 32 x.tok))
        (if r.pf 0x68 8 = 0 then none else some mb) i.candCount)
    | .error e, _, _ => .error e
    | _, .error e, _ => .error e
    | _, _, .error e => .error e
  else
    match s.engineRead c cv (8 * i.candCount) with
    | .error e => .error e
    | .ok b => .ok (sortBy candBefore (readCands b i.candCount))

/-! ## The tokens of a step (R252) -/

/-- A token to deliver: token, logprob, and whether it came from an accepted node. -/
structure Pick where
  tok : Nat
  logprob : F32
  spec : Bool
  deriving DecidableEq, Repr

/-- What a step delivers: its tokens, the accepted nodes in depth order, and whether a column on the way gave no token. -/
structure Picked where
  picks : List Pick := []
  nodes : List Nat := []
  noToken : Bool := false
  deriving DecidableEq, Repr

/-- The token of a column with its log-probability, from its candidates and the draw of its position (R246, R248, R249). -/
def columnPick (r : Request) (vocab q : Nat) (cs : List Cand) : Option (Nat × F32) :=
  let fs := keepFinite vocab cs
  (smpPick fs r (smpUniform (BitVec.ofNat 64 (r.pf 0x20 8)) q)).map fun k => (((fs[k]?).map (·.tok)).getD 0, logProb fs k)

/-- What the job of a column found for a SAMPLE entry. -/
def Step.resultOf (st : Step) (i : SampleInfo) (x : Nat) : Option (Nat × F32) :=
  ((st.results.find? fun r => r.info == i && r.node == x).map (·.pick)).join

/-- The lowest-indexed child of node `x` that carries token `t`. -/
def childOf (nodes : List (Nat × Nat)) (x t : Nat) : Option Nat :=
  (nodes.zipIdx.find? fun (n, i) => i != 0 && n.2 == x && n.1 == t).map (·.2)

/-- The walk of R252 from node `x`; each draw is that of its column's position. -/
def Step.walkTree (st : Step) (i : SampleInfo) : Nat → Nat → Picked → Picked
  | 0, _, acc => acc
  | fuel + 1, x, acc =>
    match st.resultOf i x with
    | none => { acc with noToken := true }
    | some (t, lp) =>
      match childOf st.nodes x t with
      | none => { acc with picks := acc.picks ++ [⟨t, lp, false⟩] }
      | some y => st.walkTree i fuel y { acc with picks := acc.picks ++ [⟨t, lp, true⟩], nodes := acc.nodes ++ [y] }

/-- The tokens of a step: one for a chunk or a plain decode step, those of the walk for a tree. -/
def Step.picked (st : Step) (i : SampleInfo) : Picked := st.walkTree i 18 (if st.prefill then st.count - 1 else 0) {}

/-! ## Delivery (R243, R244) -/

/-- Delivers tokens one after another; the first that meets an end condition ends the step. `pos` is the position of the
first. Answers the number delivered and the end status, 0 for none. -/
def endAfter (r : Request) (tok generated pos : Nat) : Nat :=
  if r.stops.contains tok then End.stop
  else if generated = r.pf 0x34 4 then End.max
  else if pos = r.pf 0x38 4 then End.length
  else 0

/-- The tokens of a step up to the one that ends the request, with the end status (R244). -/
def cutPicks (r : Request) : List Pick → Nat → Nat → List (Pick × Nat) × Nat
  | [], _, _ => ([], 0)
  | p :: t, gen, pos =>
    let e := endAfter r p.tok gen pos
    if e ≠ 0 then ([(p, pos)], e)
    else
      let (rest, e) := cutPicks r t (gen + 1) (pos + 1)
      ((p, pos) :: rest, e)

/-- Flags of a token record (Table 10.10): stop, tree_rejected on the step's first record, spec. -/
def tokenFlags (r : Request) (p : Pick) (first rejected : Bool) : Nat :=
  (if r.stops.contains p.tok then 2 ^ 6 else 0) + (if first && rejected then 2 ^ 5 else 0) + (if p.spec then 2 ^ 4 else 0)

/-- The records of a step; the step commits with the first of them (R13, R252). -/
def deliver (c i : Nat) (st : Step) (picked : Picked) : Act := fun s =>
  let r := s.req st.slot
  let pos0 := if st.prefill then r.promptLen else r.position + 1
  let (ps, e) := cutPicks r picked.picks (r.generated + 1) pos0
  let lastPos := (ps.getLast?.map (·.2)).getD r.position
  let lastTok := (ps.getLast?.map (fun x => x.1.tok)).getD r.lastToken
  let accepted := picked.nodes.take ps.length
  seqA [forA ps.zipIdx (fun ((p, pos), k) => pourRecord st.slot (p.tok % 2 ^ 20) p.logprob pos (tokenFlags r p (k == 0) st.treeRejected)),
    commitStep c i st e (fun r =>
      { r with position := lastPos, generated := r.generated + ps.length, lastToken := lastTok,
               promptDone := if st.prefill then r.promptLen else r.promptDone }),
    if accepted = [] then nothing
    else act [.pages fun p => { p with compactions := p.compactions ++ [{ ctx := c, slot := st.slot, start := r.position + 1, rows := accepted }] }]] s

/-! ## Units (R247) -/

/-- The job of a unit. -/
def Sampler.unit (m : Sampler) (u : Nat) : Option SampleJob := if u = 0 then m.unit0 else m.unit1

/-- A unit holds a job, or none. -/
def setUnit (u : Nat) (j : Option SampleJob) (m : Sampler) : Sampler :=
  if u = 0 then { m with unit0 := j } else { m with unit1 := j }

/-- A free, enabled unit that has not failed takes the next job. -/
def jobStart (u : Nat) : Act := fun s =>
  match s.sampler.queue with
  | [] => []
  | j :: t =>
    if (s.sampler.unit u).isSome ∨ !s.flag (Fld.smpCtrlEnable.item u) ∨ s.flag (Fld.smpStatusFailed.item u) then []
    else [.sampler fun m => setUnit u (some j) { m with queue := t }, .fld (Fld.smpStatusBusy.item u) 1]

/-- Where a job's reads lie in memory. -/
def State.samplePlaces (s : State) (c : Nat) (r : Request) (i : SampleInfo) (vocab k : Nat) : List (Nat × Nat) :=
  (sampleReads r i vocab k).flatMap fun (va, n) => s.physPieces (engineAgent c) va n

/-- The walks and the log entries of a job's reads (R415). -/
def noteSample (c : Nat) (r : Request) (i : SampleInfo) (vocab k : Nat) : Act := fun s =>
  forA ((sampleReads r i vocab k).filter (·.2 != 0)) (fun (va, n) =>
    noteAccess (engineAgent c) va n 0 (stopOf (s.engineRead c va n))) s

/-- The step ends when every sampled column has its result: its tokens are delivered, or the request ends with NO_TOKEN. -/
def settleStep (c n : Nat) (i : SampleInfo) : Act := fun s =>
  match (s.period c).steps[n]? with
  | none => []
  | some st =>
    if !(s.sampledOf c st).all fun k => st.results.any fun r => r.info == i && r.node == k - st.first then []
    else if (st.picked i).noToken then endRequest st.slot End.noToken s
    else deliver c n st (st.picked i) s

/-- A job ends: its column's token is picked, or the request ends (R248, R415, R244). -/
def jobDone (u : Nat) : Act := fun s =>
  match s.sampler.unit u with
  | none => []
  | some j =>
    let free : Act := act [.sampler (setUnit u none), .fld (Fld.smpStatusBusy.item u) 0]
    let p := s.period j.ctx
    match p.steps[j.step]?, (p.columns[j.column]?).join with
    | some st, some col =>
      let r := s.req st.slot
      if !p.running ∨ !s.stepOpen st ∨ j.tag ≠ s.fget (Fld.reqPeriodNowTag j.ctx) then free s
      else if !s.hostUp then []
      else withHost (·.samplePlaces j.ctx r j.info p.vocab j.column) (fun s => seqA [free, act [.inc (Fld.smpCntJobs u) 1], if r.fullPath then act [.inc (Fld.smpCntFullPath u) 1] else nothing,
        noteSample j.ctx r j.info p.vocab j.column,
        match s.columnCands j.ctx r j.info j.column with
        | .error (.poison _) => endRequest st.slot End.poison
        | .error _ => endRequest st.slot End.fault
        | .ok cs => seqA [setStep j.ctx j.step (fun x =>
              { x with results := x.results ++ [⟨j.info, j.column - st.first, columnPick r p.vocab (col.position + 1) cs⟩] }),
            settleStep j.ctx j.step j.info]] s) s
    | _, _ => free s

/-! ## Meanings -/

/-- SAMPLING_JOB_START (R247). -/
def execSamplingJobStart (unit : Fin 2) (s : State) : Host.Outcome State Fault Refusal := done (jobStart unit) s

/-- SAMPLING_JOB_COMPLETE (R248). -/
def execSamplingJobComplete (unit : Fin 2) (s : State) : Host.Outcome State Fault Refusal := done (jobDone unit) s

end Sys2Proof.Machine
end

