-- ==== Sys2Proof/Machine/Faults.lean ====
section
/-! DEFINITION. Fault records, slots and spares, cluster removal, die faults, the request engine's copies, weight repair,
and the end of BASIC mode's wait. R388 to R404. -/

namespace Sys2Proof.Machine

open Sys2Proof

/-! ## Fault records (R388) -/

/-- A queued record is written to a free entry of the fault ring; the produced count follows it, then vector 1. -/
def writeFaultRecord : Act := fun s =>
  let d := s.devRing 4
  match s.flt.queue with
  | [] => []
  | r :: _ =>
    if !s.flag Fld.fltRingEnable ∨ ringEntries (s.fget Fld.fltRingSizeCode) ≤ countDiff d.produced d.head then []
    else
      let base := s.fget Fld.fltRingBase * 64
      seqA [storePlain (ringSlot base (s.fget Fld.fltRingSizeCode) 32 d.produced) ({ r with lostBefore := s.flt.lostPending }).bytes,
        storePlain (base + 4) (leBytes 4 (countUp d.produced)),
        act [.devRing 4 (fun x => { x with produced := countUp x.produced }),
          .flt (fun f => { f with queue := f.queue.drop 1, lostPending := false }), .inc Fld.fltCntRecords 1],
        raise Vec.faults] s

/-! ## Recoveries (R396) -/

/-- The cluster of a recovery. -/
def Recovery.cluster : Recovery → Nat
  | .takeover core _ _ => clusterOf core
  | .removal k _ => k

/-- A recovery is a removal. -/
def Recovery.removes : Recovery → Bool
  | .removal _ _ => true
  | .takeover _ _ _ => false

/-- Every recovery, the running one first. -/
def Faults.recoveries (f : Faults) : List Recovery := f.running.toList ++ f.waiting

/-- The next recovery runs. -/
def nextRecovery : Act := act [.flt fun f => { f with running := f.waiting.head?, waiting := f.waiting.drop 1, takeoverAwake := false }]

/-- A recovery is queued; it takes the place of a takeover in its cluster. -/
def queueRecovery (r : Recovery) : Act := fun s =>
  let same (x : Recovery) : Bool := x.cluster == r.cluster
  if s.flt.recoveries.any (fun x => same x && x.removes) then []
  else if (s.flt.running.map same).getD false then [.flt fun f => { f with running := some r, takeoverAwake := false }]
  else if s.flt.waiting.any same then [.flt fun f => { f with waiting := modFirst same (fun _ => r) f.waiting }]
  else if s.flt.running.isNone then [.flt fun f => { f with running := some r, takeoverAwake := false }]
  else if s.flt.waiting.length < 64 then [.flt fun f => { f with waiting := f.waiting ++ [r] }]
  else []

/-- BASIC mode is entered at once when the removals decided leave fewer than 1,920 logical numbers. -/
def basicAhead : Act := fun s =>
  if s.servedClusters < 1920 + 32 * (s.flt.recoveries.filter Recovery.removes).length then enterBasic 1 s else []

/-- The removal of a cluster is decided. -/
def decideRemoval (k detail : Nat) : Act := seqA [queueRecovery (.removal k detail), basicAhead]

/-! ## Slots and spares (R391 to R393) -/

/-- The spare of a cluster can take over: it serves no number, has not failed, and no takeover is in progress. -/
def State.spareFree (s : State) (k : Nat) : Bool :=
  !s.flag (Fld.fltSpareClusters.item k) && !s.flt.failed.contains (k * 33 + 32) && !s.flt.recoveries.any (·.cluster == k)

/-- The slot of logical core `n` fails: its commands return, and the spare takes over or the cluster is removed. -/
def slotFails (n detail : Nat) : Act := fun s =>
  let k := clusterOf n
  let phys := s.fget (Fld.coreIdPhysSlot n)
  if !s.inService k ∨ s.flt.noCore.contains n then []
  else if s.basic then faultRecord 0x03 0 0xFF n detail phys 0 false s
  else seqA [returnToCluster k [n], coreOff n,
    act [.flt fun f => { f with noCore := n :: f.noCore, failed := (k * 33 + phys) :: f.failed }],
    if s.spareFree k then queueRecovery (.takeover n detail phys)
    else decideRemoval k (if s.flt.failed.contains (k * 33 + 32) then 2 else 1)] s

/-- The running takeover wakes the spare; its galley is cleared, and its self-test runs. -/
def takeoverWake : Act := fun s =>
  match s.flt.running with
  | some (.takeover n _ _) =>
    if s.flt.takeoverAwake then []
    else seqA [clearGalley n, clearUnits n, act [.flt fun f => { f with takeoverAwake := true }]] s
  | _ => []

/-- Galley windows open on a logical number. -/
def State.galleyWindows (s : State) (n : Nat) : List Window :=
  s.windows.filter fun w => rangesMeet w.base w.size (galleyOf n) Config.galleyBytes

/-- The spare takes the logical number (Table 16.5 step 4). The per-core registers keep their values under that number (log entry
33). -/
def spareIn (n detail phys : Nat) : Act := fun s =>
  let k := clusterOf n
  seqA [act [.fld (Fld.coreIdPhysSlot n) 32, .fld (Fld.coreIdSpareActive n) 1, .fld (Fld.fltSpareClusters.item k) 1,
      .flt (fun f => { f with noCore := f.noCore.filter (· != n) }),
      .fld (Fld.coreStatePower n) (if s.fget (Fld.pwrClusterCurrent k) = 2 then 3 else 0),
      .core n (fun x => { x with mustClear := false }), dropPlaces (· == .micro n)],
    setWheel n, faultRecord 0x03 1 0xFF n detail phys 0 false,
    forA (s.galleyWindows n) (fun w => faultRecord 0x09 0 w.ctx n w.id 0 0 false), nextRecovery] s

/-- The spare's self-test ends: it takes over, or it is the second fault of its cluster. -/
def spareTested (pass : Bool) : Act := fun s =>
  match s.flt.running with
  | some (.takeover n detail phys) =>
    if !s.flt.takeoverAwake then []
    else if pass then spareIn n detail phys s
    else seqA [faultRecord 0x03 0 0xFF n 4 32 0 false,
      act [.flt fun f => { f with failed := (clusterOf n * 33 + 32) :: f.failed }], decideRemoval (clusterOf n) 2] s
  | _ => []

/-- The running removal is carried out (Table 16.6). -/
def clusterGoes : Act := fun s =>
  match s.flt.running with
  | some (.removal k detail) => seqA [nextRecovery, removeCluster k detail] s
  | _ => []

/-! ## Cluster logic and dies (R390, R395) -/

/-- An event within 1 s of one whose tick plus 1 is given; 0 stands for none. -/
def State.within1s (s : State) (t : Nat) : Bool := t != 0 && decide (s.ticks < t + Config.ticksPerSecond)

/-- Cluster logic fails: a cluster reset, or on a repeat within 1 s the removal of the cluster. -/
def clusterLogic (k : Nat) : Act := fun s =>
  if !s.inService k then []
  else if s.basic then faultRecord 0x04 0 0xFF k 3 s.servedClusters 0 false s
  else if s.within1s (tabGet (fun _ => 0) s.flt.clusterFault k) then decideRemoval k 3 s
  else seqA [act [.flt fun f => { f with clusterFault := tabSet (fun _ => 0) f.clusterFault k (s.ticks + 1) }], resetRequest 2 k] s

/-- The hang detector fires for a core or a cluster queue that holds work. -/
def hang (n : Nat) (clusterQueue : Bool) : Act := fun s =>
  if clusterQueue then (if (s.cluster (clusterOf n)).queue = [] then [] else clusterLogic (clusterOf n) s)
  else if (s.core n).queue = [] then []
  else slotFails n 2 s

/-- Every cluster of a die that is in service leaves it at once, and BASIC mode is entered with what is left (R395, R396). -/
def removeDie (d : Nat) : Act := fun s => seqA [forA ((clustersOf d).filter s.inService) (dropService · 4), basicBelow] s

/-- A die-fabric or die-to-die fault. -/
def dieFault (d : Nat) (d2d : Bool) : Act := fun s =>
  let detail := 1 + b2n d2d
  let again := s.within1s (tabGet (fun _ => 0) s.flt.dieFault d)
  if s.basic then faultRecord 0x05 0 0xFF d detail (b2n again) 0 false s
  else if again then seqA [faultRecord 0x05 0 0xFF d detail 1 0 false, removeDie d] s
  else seqA [act [.flt fun f => { f with dieFault := tabSet (fun _ => 0) f.dieFault d (s.ticks + 1) }],
    if d2d then act [.inc (Fld.hubD2dCntLinkFaults d) 1] else nothing,
    faultRecord 0x05 10 0xFF d detail 1 0 false, resetRequest 3 d] s

/-! ## Sampling units and the request engine (R397) -/

/-- A sampling unit fails its self-check: its job goes to the other unit; with both failed, BASIC mode. -/
def samplerFails (u : Nat) : Act := fun s =>
  if s.flag (Fld.smpStatusFailed.item u) then []
  else if s.basic then faultRecord 0x06 0 0xFF u 1 0 0 false s
  else seqA [act [.fld (Fld.smpStatusFailed.item u) 1, .fld (Fld.smpStatusBusy.item u) 0,
      .sampler fun m => setUnit u none { m with queue := (m.unit u).toList ++ m.queue }],
    faultRecord 0x06 0 0xFF u 1 0 0 false,
    if s.flag (Fld.smpStatusFailed.item (1 - u)) then enterBasic 3 else nothing] s

/-- The copy that a mismatch record names: the one in service, or a free choice where both are (Table 16.2; log entry 53). -/
def State.mismatchCopy (s : State) : Nat :=
  match s.flt.copyOut with
  | [] => (Config.freeByte s.free 0).toNat % 2
  | c :: _ => 1 - c

/-- The copies disagree with no failed self-check: every period ends; a second time within 1 s, or with one copy alone, is
BASIC mode. -/
def smMismatch : Act := fun s =>
  let rec_ := seqA [faultRecord 0x07 0 0xFF s.mismatchCopy 2 0 0 false, act [.draw]]
  if s.basic then rec_ s
  else if s.flag Fld.reqStatusSmDegraded ∨ s.within1s s.flt.mismatch then seqA [rec_, enterBasic 4] s
  else seqA [rec_, act [.flt fun f => { f with mismatch := s.ticks + 1 }], endPeriods] s

/-- A copy fails its self-check. -/
def smCheckFail (copy : Nat) : Act := fun s =>
  let rec_ := faultRecord 0x07 0 0xFF copy 1 0 0 false
  if s.flt.copyOut.contains copy then []
  else if s.basic then rec_ s
  else if s.flag Fld.reqStatusSmDegraded then seqA [rec_, enterBasic 4] s
  else seqA [rec_, act [.flt fun f => { f with copyOut := copy :: f.copyOut }, .fld Fld.reqStatusSmDegraded 1]] s

/-! ## Weight repair (R401 to R404) -/

/-- A repair changes. -/
def setRepair (line : Nat) (f : Repair → Repair) : Act := act [.flt fun x => { x with repairs := modFirst (·.line == line) f x.repairs }]

/-- Host physical address of the golden copy of a line, when it lies in host memory. -/
def Repair.goldenAddr (r : Repair) : Nat := fieldAt r.entry 16 8 + (r.line * 64 - fieldAt r.entry 0 8)

/-- The golden copy lies in host memory. -/
def Repair.inHost (r : Repair) : Bool := bitOf (fieldAt r.entry 26 1) 1

/-- The golden line is asked for, where it comes from the host. -/
def askGolden (r : Repair) : Act := if r.inHost then askHost (.goldenLine r.line) r.goldenAddr 64 else nothing

/-- A line that waits takes a free repair slot; the first repair without its records writes them and asks for the golden
line. -/
def repairBegins : Act := fun s =>
  let move : Act := act (if s.flt.repairs.length < 16 then
      [.flt fun f => { f with repairs := f.repairs ++ f.repairWait.take 1, repairWait := f.repairWait.drop 1 }] else [])
  seqA [move, fun t => match t.flt.repairs.find? (·.state == .detected) with
    | none => []
    | some r => seqA [setRepair r.line (fun x => { x with state := .refetch }), repairRecords r 6, askGolden r] t] s

/-- The golden line as it is read: from the host, or from the slow tier. -/
def State.goldenOf (s : State) (r : Repair) (res : HostResult) : Option Bytes :=
  if r.inHost then (if resOk res then some (slice (resData res) 0 64) else none)
  else if s.region r.goldenAddr != .slow || s.unreadable r.goldenAddr then none
  else some (s.seenN 0 r.goldenAddr 64)

/-- The golden line has been read: it is written whole, or the repair ends with WEIGHT_LOST. -/
def goldenRead (line : Nat) (res : HostResult) : Act := fun s =>
  match s.flt.repairs.find? (fun r => r.line == line && r.state == .refetch) with
  | none => []
  | some r => seqA [if r.inHost then hostReadOver (.goldenLine line) else nothing,
      match s.goldenOf r res with
      | none => endRepair r 9
      | some b => seqA [storePlain (line * 64) b,
          setRepair line fun x => { x with golden := b, state := .verify, attempts := x.attempts + 1 }]] s

/-- The line is read back: the repair ends, or returns to the golden read, or after three attempts stands in STUCK. -/
def repairRead (line : Nat) (poisoned : Bool) : Act := fun s =>
  match s.flt.repairs.find? (fun r => r.line == line && r.state == .verify) with
  | none => []
  | some r =>
    if !poisoned then endRepair r 7 s
    else seqA [lineError (line * 64) 0 1,
      if r.attempts < 3 then seqA [setRepair line (fun x => { x with state := .refetch }), askGolden r]
      else seqA [repairRecords r 8, setRepair line fun x => { x with state := .stuck }]] s

/-- 1 ms after entry into BASIC mode the requests without a credit are freed without their record. -/
def basicTimeout : Act := fun s =>
  if s.basic ∧ s.flt.basicTick.isSome then
    seqA [forA (List.range 16) freeUnwritten, act [.flt fun f => { f with basicTick := none }]] s
  else []

/-! ## The commands -/

/-- FAULT_RECORD_WRITE (R388). -/
def execFaultRecordWrite (s : State) : Host.Outcome State Fault Refusal := done writeFaultRecord s

/-- SLOT_FAILURE (R391, R396). -/
def execSlotFailure (core : CoreId) (detail : Fin 4) (s : State) : Host.Outcome State Fault Refusal :=
  done (slotFails core (max 1 detail.val)) s

/-- HANG_DETECTED (R390). -/
def execHangDetected (core : CoreId) (clusterQueue : Bool) (s : State) : Host.Outcome State Fault Refusal :=
  done (hang core clusterQueue) s

/-- SPARE_TAKEOVER (R392). -/
def execSpareTakeover (s : State) : Host.Outcome State Fault Refusal := done takeoverWake s

/-- SPARE_SELF_TEST_COMPLETE (R11, R392, R393). -/
def execSpareSelfTestComplete (pass : Bool) (s : State) : Host.Outcome State Fault Refusal := done (spareTested pass) s

/-- CLUSTER_LOGIC_FAULT (R390). -/
def execClusterLogicFault (cluster : ClusterId) (s : State) : Host.Outcome State Fault Refusal := done (clusterLogic cluster) s

/-- CLUSTER_REMOVAL (R393, R394). -/
def execClusterRemoval (s : State) : Host.Outcome State Fault Refusal := done clusterGoes s

/-- DIE_FABRIC_FAULT (R395). -/
def execDieFabricFault (die : DieId) (d2d : Bool) (s : State) : Host.Outcome State Fault Refusal := done (dieFault die d2d) s

/-- SAMPLER_SELF_CHECK_FAIL (R397). -/
def execSamplerSelfCheckFail (unit : Fin 2) (s : State) : Host.Outcome State Fault Refusal := done (samplerFails unit) s

/-- STATE_MACHINE_MISMATCH (R397). -/
def execStateMachineMismatch (s : State) : Host.Outcome State Fault Refusal := done smMismatch s

/-- STATE_MACHINE_SELF_CHECK_FAIL (R397). -/
def execStateMachineSelfCheckFail (copy : Fin 2) (s : State) : Host.Outcome State Fault Refusal := done (smCheckFail copy) s

/-- REPAIR_START (R401, R402). -/
def execRepairStart (s : State) : Host.Outcome State Fault Refusal := done repairBegins s

/-- GOLDEN_LINE_READ_DONE (R402, R404). -/
def execGoldenLineReadDone (line : Nat) (golden : HostResult) (s : State) : Host.Outcome State Fault Refusal :=
  done (goldenRead line golden) s

/-- REPAIR_READBACK (R398, R402, R403). -/
def execRepairReadback (line : Nat) (poisoned : Bool) (s : State) : Host.Outcome State Fault Refusal :=
  done (repairRead line poisoned) s

/-- BASIC_END_RECORD_TIMEOUT (R245, R399). -/
def execBasicEndRecordTimeout (s : State) : Host.Outcome State Fault Refusal := done basicTimeout s

end Sys2Proof.Machine
end

