-- ==== Sys2Proof/Machine/Mailbox.lean ====
section
/-! DEFINITION. The memory window of BAR4, and the mailbox with its handshake and MOVE. R281, R294 to R297, R335, R357.
Log entries 43 and 44. -/

namespace Sys2Proof.Machine

open Sys2Proof

/-! ## The window (R281) -/

/-- The port carries CXL.io traffic: the link is up, configuration space answers, and the IDE stream is not insecure. -/
def State.ioUp (s : State) : Bool := s.linkUp && s.port.configReady && !s.port.ioInsecure

/-- What the checks of R281 say of a line: an address fault, a refusal, or that it is served. -/
inductive WinLine where
  | address
  | refused
  | ok
  deriving DecidableEq, Repr

/-- The checks of a line (R205, R281, R335). -/
def State.winLine (s : State) (a : Nat) : WinLine :=
  if !s.inTier a then .address
  else if s.meetsHdm a 1 ∨ s.retired a ∨ s.denied 1 a then .refused
  else .ok

/-- Bytes of a piece of a line that a window read or a MOVE reads: plaintext of tag 0, ciphertext of any other tag. Data of a
line that gives none are open. -/
def State.winBytes (s : State) (a k : Nat) : Bytes :=
  if s.winLine a ≠ .ok then zeros k
  else if s.unreadable a then (List.range k).map fun i => Config.freeByte s.free (a + i)
  else s.cipherN a k

/-- Bytes of a range. -/
def State.winRead (s : State) (a n : Nat) : Bytes := (linePieces a n).flatMap fun p => s.winBytes p.1 p.2

/-- What a window read or a MOVE leaves in the lines that it reads, with agent 7 (R183, R184). -/
def noteWindow (a n : Nat) : Act := forA (linePieces a n) fun (b, k) => fun s => if s.winLine b = .ok then noteReads 0 7 b k s else []

/-- The address fault of a range, if a line of it lies outside the tiers, with agent 7. -/
def winFault (a n : Nat) : Act := fun s =>
  match (linePieces a n).find? fun p => s.winLine p.1 == .address with
  | some p => addressFault 7 p.1 s
  | none => []

/-- A window access that is refused is counted once. -/
def countRefused (c : Bool) : Act := if c then act [.inc Fld.cxlErrCntFirewall 1] else nothing

/-- A read of the window. -/
def windowRead (a n : Nat) : Act := fun s =>
  seqA [act [.out (.readData (s.winRead a n)), .draw], noteWindow a n, winFault a n,
    countRefused ((linePieces a n).any fun p => s.winLine p.1 == .refused)] s

/-- A line that a window write or a MOVE may change: served, and of tag 0. -/
def State.winWritable (s : State) (a : Nat) : Bool := s.winLine a == .ok && s.keyTag a == 0

/-- Bytes stored in a range: refused lines and lines of a tag other than 0 are dropped. -/
def windowStore (a : Nat) (d : Bytes) : Act := fun s =>
  seqA [forA (linePieces a d.length) fun (b, k) => fun t => if t.winWritable b then storeLine t 0 b (slice d (b - a) k) else [],
    countRefused ((linePieces a d.length).any fun p => s.winLine p.1 != .address && !s.winWritable p.1)] s

/-- Address of a window offset. -/
def State.winAddr (s : State) (off : Nat) : Nat := s.fget Fld.cxlWinBase * 2 ^ 34 + off

/-! ## Replies (R294) -/

/-- Return codes of CXL: background command started. -/
def Mb.started : Nat := 1
/-- Invalid Input. -/
def Mb.invalid : Nat := 2
/-- Unsupported. -/
def Mb.unsupported : Nat := 3
/-- Internal Error. -/
def Mb.internal : Nat := 4
/-- Busy. -/
def Mb.busy : Nat := 6
/-- Invalid Handle. -/
def Mb.badHandle : Nat := 14

/-- A reply of the mailbox. -/
def reply (code : Nat) (payload : Bytes) : Act := act [.out (.mailbox code payload)]

/-- A mailbox command arrives: it is served once the interface is ready. What it is answered before, the manual leaves open: the
return code is an open value, and nothing is done (log entry 56). -/
def mailboxCmd (f : Act) : Act := fun s =>
  if !s.ioUp then []
  else if !s.port.mailboxReady then [.out (.mailbox ((Config.freeWord s.free).toNat % 65536) []), .draw]
  else f s

/-- The background command is over; vector 0. -/
def bgEnd (opcode code : Nat) : Act :=
  seqA [act [.mailbox fun m => { m with move := none, bgDone := some (opcode, code) }], raise Vec.mailbox]

/-- The background command status: opcode, percent complete, return code. -/
def State.bgStatus (s : State) : Bytes :=
  match s.mailbox.move, s.mailbox.bgDone with
  | some _, _ => leBytes 2 0xC010 ++ leBytes 2 ((Config.freeWord s.free).toNat % 100) ++ zeros 4
  | none, some (op, code) => leBytes 2 op ++ leBytes 2 100 ++ leBytes 2 code ++ zeros 2
  | none, none => zeros 8

/-! ## Events and time -/

/-- Event logs of CXL: informational, warning, failure, fatal. -/
def eventLogs : Nat := 4

/-- The records of an event log. -/
def State.eventsOf (s : State) (log : Nat) : List EventRec := s.mailbox.events.filter (·.log == log)

/-- Get Event Records. -/
def eventsGet (log : Nat) : Act := fun s =>
  if eventLogs ≤ log then reply Mb.invalid [] s
  else
    let rs := s.eventsOf log
    reply 0 (Config.standardReply 0x0100 (leBytes 2 rs.length) ++ rs.flatMap (·.data)) s

/-- Clear Event Records: those named, or all of a log. -/
def eventsClear (log : Nat) (handles : List Nat) (all : Bool) : Act := fun s =>
  if eventLogs ≤ log then reply Mb.invalid [] s
  else if !all ∧ handles.any (fun h => !(s.eventsOf log).any (·.handle == h)) then reply Mb.badHandle [] s
  else seqA [act [.mailbox fun m => { m with events := m.events.filter fun r => !(r.log == log && (all || handles.contains r.handle)) }],
    reply 0 []] s

/-- The timestamp: nanoseconds since it was set, from the value set; 0 before. -/
def State.timestamp (s : State) : Nat :=
  if s.mailbox.timeSet then (s.mailbox.timeBase + 10 * (s.ticks - s.mailbox.timeTick)) % 2 ^ 64 else 0

/-! ## Handshake (R295, R296) -/

/-- Interface version (a, b) is at most (c, d). -/
def verLe (a b c d : Nat) : Bool := a < c || (a == c && b ≤ d)

/-- The highest offered version in a range. -/
def offered (lo lo' hi hi' : Nat) : Option Nat := [3, 2].find? fun v => verLe lo lo' v 0 && verLe v 0 hi hi'

/-- Every context slot is EMPTY and the request engine is off. -/
def State.quiet (s : State) : Bool := (List.range 16).all (fun c => s.ctxState c == 0) && !s.flag Fld.reqCtrlEnable

/-- HANDSHAKE. -/
def handshake (lo lo' hi hi' : Nat) : Act := fun s =>
  if s.flag Fld.cxlStatusBound then
    let a := s.fget Fld.cxlStatusHsMajor
    let b := s.fget Fld.cxlStatusHsMinor
    if verLe lo lo' a b && verLe a b hi hi' then reply 0 (leBytes 1 a ++ leBytes 1 b ++ zeros 2) s else reply Mb.busy [] s
  else match offered lo lo' hi hi' with
    | none => reply Mb.invalid [] s
    | some v =>
      if v = 2 ∧ !s.quiet then reply Mb.busy [] s
      else seqA [act ([.fld Fld.cxlStatusBound 1, .fld Fld.cxlStatusHsMajor v, .fld Fld.cxlStatusHsMinor 0] ++
        if v = 2 then [.fld Fld.poolCtrlClearOnWake 1] else []), reply 0 (leBytes 1 v ++ zeros 3)] s

/-- The function is unbound. -/
def unbind : Act := act [.fld Fld.cxlStatusBound 0, .fld Fld.cxlStatusHsMajor 0, .fld Fld.cxlStatusHsMinor 0]

/-- RELEASE. -/
def releaseFn : Act := fun s =>
  if s.flag Fld.cxlStatusBound ∧ s.fget Fld.cxlStatusHsMajor = 3 ∧ !s.quiet then reply Mb.busy [] s
  else seqA [unbind, reply 0 []] s

/-! ## MOVE (R297) -/

/-- A device range of a MOVE lies in one tier. -/
def State.moveRange (s : State) (host : Bool) (a n : Nat) : Bool := host || s.rangeInTier a n

/-- A device range of a MOVE is refused as a window access. -/
def State.moveRefused (s : State) (host : Bool) (a n : Nat) : Bool :=
  !host && (s.meetsHdm a n || s.rangeRetired a n || s.rangeDenied 1 a n)

/-- MOVE: the checks, then the copy in the background. -/
def moveStart (src dst len flags : Nat) : Act := fun s =>
  let hs := bitOf flags 0
  let hd := bitOf flags 1
  if s.mailbox.move.isSome then reply Mb.busy [] s
  else if len % 64 ≠ 0 ∨ len < 64 ∨ 2 ^ 30 < len ∨ 4 ≤ flags ∨ !s.moveRange hs src len ∨ !s.moveRange hd dst len ∨
      (hs = hd ∧ rangesMeet src len dst len) then reply Mb.invalid [] s
  else if s.moveRefused hs src len ∨ s.moveRefused hd dst len then seqA [countRefused true, reply Mb.invalid []] s
  else seqA [act [.mailbox fun m => { m with move := some ⟨src, dst, len, flags⟩ }], reply Mb.started [],
    if hs then askHost .moveData src len else nothing] s

/-- A MOVE ends: the bytes are stored, or a failed host read leaves the destination undefined. -/
def moveEnd (res : HostResult) : Act := fun s =>
  match s.mailbox.move with
  | none => []
  | some m =>
    let data := if bitOf m.flags 0 then (match res with | .ok b => some (slice b 0 m.length) | .failed _ => none)
      else some (s.winRead m.src m.length)
    if (bitOf m.flags 0 ∨ bitOf m.flags 1) ∧ !s.hostUp then []
    else seqA [noteTimeouts [(.moveData, res)], hostReadOver .moveData, match data with
      | none => seqA [if bitOf m.flags 1 then nothing else act [.undef m.dst m.length], bgEnd 0xC010 Mb.internal]
      | some d => seqA [act [.draw], if bitOf m.flags 0 then nothing else noteWindow m.src m.length, if bitOf m.flags 1 then act [.out (.hostWrite m.dst d)] else windowStore m.dst d, bgEnd 0xC010 0]] s

/-! ## The commands -/

/-- BAR_WINDOW_READ (R281, R335, R357). -/
def execBarWindowRead (offset : BitVec 34) (length : Nat) (s : State) : Host.Outcome State Fault Refusal :=
  done (fun s => if s.ioUp then windowRead (s.winAddr offset.toNat) length s else []) s

/-- BAR_WINDOW_WRITE (R281, R335, R357). -/
def execBarWindowWrite (offset : BitVec 34) (data : Bytes) (s : State) : Host.Outcome State Fault Refusal :=
  done (fun s => if s.ioUp then
    let a := s.winAddr offset.toNat
    seqA [windowStore a data, winFault a data.length] s else []) s

/-- IDENTIFY (R294). -/
def execIdentify (s : State) : Host.Outcome State Fault Refusal := done (mailboxCmd (reply 0 (Config.standardReply 1 []))) s

/-- BACKGROUND_OPERATION_STATUS (R294). -/
def execBackgroundOperationStatus (s : State) : Host.Outcome State Fault Refusal :=
  done (mailboxCmd fun s => seqA [reply 0 s.bgStatus, act [.draw]] s) s

/-- GET_EVENT_RECORDS (R294). -/
def execGetEventRecords (log : Nat) (s : State) : Host.Outcome State Fault Refusal := done (mailboxCmd (eventsGet log)) s

/-- CLEAR_EVENT_RECORDS (R294). -/
def execClearEventRecords (log : Nat) (handles : List Nat) (all : Bool) (s : State) : Host.Outcome State Fault Refusal :=
  done (mailboxCmd (eventsClear log handles all)) s

/-- GET_EVENT_INTERRUPT_POLICY (R294). -/
def execGetEventInterruptPolicy (s : State) : Host.Outcome State Fault Refusal :=
  done (mailboxCmd fun s => reply 0 (leBytes 4 s.mailbox.policy.toNat) s) s

/-- SET_EVENT_INTERRUPT_POLICY: every event keeps vector 0 (R294, Table 12.5). -/
def execSetEventInterruptPolicy (policy : BitVec 32) (s : State) : Host.Outcome State Fault Refusal :=
  done (mailboxCmd (seqA [act [.mailbox fun m => { m with policy := policy &&& 0x0F0F0F0F#32 }], reply 0 []])) s

/-- GET_TIMESTAMP (R294). -/
def execGetTimestamp (s : State) : Host.Outcome State Fault Refusal :=
  done (mailboxCmd fun s => reply 0 (leBytes 8 s.timestamp) s) s

/-- SET_TIMESTAMP (R294). -/
def execSetTimestamp (value : Word) (s : State) : Host.Outcome State Fault Refusal :=
  done (mailboxCmd fun s => seqA [act [.mailbox fun m => { m with timeBase := value.toNat, timeTick := s.ticks, timeSet := true }],
    reply 0 []] s) s

/-- GET_SUPPORTED_LOGS (R294). -/
def execGetSupportedLogs (s : State) : Host.Outcome State Fault Refusal :=
  done (mailboxCmd (reply 0 (Config.standardReply 0x0400 []))) s

/-- GET_LOG (R294). -/
def execGetLog (log offset length : Nat) (s : State) : Host.Outcome State Fault Refusal :=
  done (mailboxCmd (reply 0 (Config.standardReply 0x0401 (leBytes 16 log ++ leBytes 4 offset ++ leBytes 4 length)))) s

/-- HANDSHAKE (R295, R297). -/
def execHandshake (minMajor minMinor maxMajor maxMinor : Byte) (s : State) : Host.Outcome State Fault Refusal :=
  done (mailboxCmd (Sys2Proof.Machine.handshake minMajor.toNat minMinor.toNat maxMajor.toNat maxMinor.toNat)) s

/-- RELEASE (R296). -/
def execRelease (s : State) : Host.Outcome State Fault Refusal := done (mailboxCmd releaseFn) s

/-- MOVE (R297). -/
def execMove (src dst : Word) (length flags : BitVec 32) (s : State) : Host.Outcome State Fault Refusal :=
  done (mailboxCmd (moveStart src.toNat dst.toNat length.toNat flags.toNat)) s

/-- MOVE_COMPLETE (R294, R297). -/
def execMoveComplete (hostData : HostResult) (s : State) : Host.Outcome State Fault Refusal := done (moveEnd hostData) s

/-- UNSUPPORTED_MAILBOX_COMMAND (R294). -/
def execUnsupportedMailboxCommand (opcode : BitVec 16) (s : State) : Host.Outcome State Fault Refusal :=
  done (mailboxCmd (if [0x0001, 0x0002, 0x0100, 0x0101, 0x0102, 0x0103, 0x0200, 0x0201, 0x0202, 0x0300, 0x0301, 0x0400, 0x0401,
    0xC000, 0xC001, 0xC010].contains opcode.toNat then nothing else reply Mb.unsupported [])) s

end Sys2Proof.Machine
end

