-- ==== Sys2Proof/Machine/Firmware.lean ====
section
/-! DEFINITION. Firmware images, their transfer and activation, the boot of the security domain with the protection setup, and
debug mode. R332 to R339, R359, R385. Log entries 45 and 46. -/

namespace Sys2Proof.Machine

open Sys2Proof

/-! ## Images (R333, R336, Table 14.3) -/

/-- svn of an image; an image written at manufacture has svn 0 (log entry 45). -/
def fwSvn (b : Bytes) : Nat := fieldAt b 6 1
/-- signature_offset of an image. -/
def fwSigOff (b : Bytes) : Nat := fieldAt b 16 4

/-- The header and the signature block of an image for component `k` have the form of Tables 14.3 and 2.17. -/
def fwFormOk (k : Nat) (b : Bytes) : Bool :=
  let so := fwSigOff b
  let lms := fieldAt b (so + 4) 4
  fieldAt b 0 4 == 0x4D495746 && fieldAt b 4 1 == k && fieldAt b 5 1 == 0 && fieldAt b 7 1 == 0 &&
  decide (4096 ≤ b.length ∧ b.length ≤ 8388608) && fieldAt b 12 4 == b.length && so % 8 == 0 && decide (64 ≤ so) &&
  (fieldAt b 20 2 == 0x0A09 || fieldAt b 20 2 == 0xFFFF) && allZero (slice b 22 42) &&
  fieldAt b so 2 == 1 && decide (fieldAt b (so + 2) 1 ≤ 3) && fieldAt b (so + 3) 1 == 0 &&
  decide (1 ≤ lms ∧ lms ≤ 16384 ∧ so + 104 + lms ≤ b.length)

/-- Identifier of a key pair held as 153 public bytes: bytes 0 to 5 of their digest (SEC_IMPKEY). -/
def keyPairId (keys : Bytes) : Nat := (Config.sha384 keys).toNat % 2 ^ 48

/-- The key pair that signs an image, if it may: for an owner record the owner key of the record in force, else a fused key
pair that is not revoked (R333, R336). -/
def State.fwKey (s : State) (k : Nat) (b : Bytes) : Option Nat :=
  let slot := fieldAt b (fwSigOff b + 2) 1
  if k = 5 ∧ s.sec.ownerInForce ≠ [] then
    if slot = 0 then some (keyPairId (slice s.sec.ownerInForce 200 153)) else none
  else if bitOf Config.fusedKeys.toNat slot then some (2 ^ 48 + (Config.keyDigest slot).toNat) else none

/-- The measured digest of an image (R336). -/
def fwDigest (b : Bytes) : BitVec 384 := Config.sha384 (b.take (fwSigOff b))

/-- An image is accepted for component `k` (R333). -/
def State.fwOk (s : State) (k : Nat) (b : Bytes) : Bool :=
  let so := fwSigOff b
  fwFormOk k b && decide (s.sec.arb.getD (k - 1) 0 ≤ fwSvn b) &&
  match s.fwKey k b with
  | none => false
  | some key => Config.ecdsaOk key (fwDigest b) (slice b (so + 8) 96) &&
      Config.lmsOk key (fwDigest b) (slice b (so + 0x68) (fieldAt b (so + 4) 4))

/-! ## Transfer and activation (R338) -/

/-- A firmware component changes. -/
def setFw (k : Nat) (f : FwComponent → FwComponent) : Act :=
  act [.sec fun x => { x with firmware := tabMod (fun _ => {}) x.firmware k f }]

/-- A staged image awaits activation. -/
def State.anyStaged (s : State) : Bool := (List.range 5).any fun i => (s.fw (i + 1)).staged.isSome

/-- SEC_STATUS.staged follows the staged images. -/
def showStaged : Act := fun s => [.fld Fld.secStatusStaged (b2n s.anyStaged)]

/-- A whole image has been written: it is staged when it verifies. -/
def stageImage (k : Nat) (b : Bytes) (yes no : Act) : Act := fun s =>
  if s.fwOk k b then seqA [setFw k fun f => { f with staged := some b, transfer := [] }, showStaged, yes] s
  else seqA [setFw k fun f => { f with transfer := [] }, no] s

/-- The inactive copy of a component is overwritten: nothing is staged and no fallback is left. -/
def beginTransfer (k : Nat) : Act :=
  seqA [setFw k fun f => { f with staged := none, activating := false, fallback := [], transfer := [] }, showStaged]

/-- Transfer FW. -/
def fwTransfer (k off : Nat) (d : Bytes) (last : Bool) : Act := fun s =>
  if k = 0 ∨ (off ≠ 0 ∧ off ≠ (s.fw k).transfer.length) ∨ 8388608 < off + d.length then reply Mb.invalid [] s
  else seqA [if off = 0 then beginTransfer k else nothing, fun t =>
    let b := (t.fw k).transfer ++ d
    if last then stageImage k b (reply 0 []) (reply Mb.invalid []) t
    else seqA [setFw k fun f => { f with transfer := b }, reply 0 []] t] s

/-- Activate FW. -/
def fwActivate (k : Nat) : Act := fun s =>
  if k = 0 ∨ (s.fw k).staged.isNone then reply Mb.invalid [] s
  else if (k = 4 ∧ s.flag Fld.reqCtrlEnable) ∨ (k = 2 ∧ s.sec.imports ≠ []) then reply Mb.busy [] s
  else seqA [setFw k fun f => { f with activating := true }, reply 0 []] s

/-- A staged copy becomes the active one, and the previous copy the fallback. -/
def FwComponent.swap (f : FwComponent) : FwComponent :=
  match f.staged with
  | some b => if f.activating then { f with stored := b, fallback := f.stored, staged := none, activating := false } else f
  | none => f

/-! ## Digests and measurements (Table 14.7) -/

/-- The 48 bytes of a digest. -/
def digestBytes (d : BitVec 384) : Bytes := leBytes 48 d.toNat

/-- The measurement of the running image of a component; zero when no copy runs. -/
def State.runningDigest (s : State) (k : Nat) : BitVec 384 :=
  let f := s.fw k
  if f.dead then 0 else if f.running = [] then Config.factoryMeasurement k else fwDigest f.running

/-- The registers whose values the protection setup is measured over, in offset order; IMP_POLICY lies in a higher block. -/
def setupRegs : List Nat :=
  [Reg.secProt, Reg.secCtxtab, Reg.secTagtab, Reg.secArb] ++
  ((List.range 8).flatMap fun r => [Reg.secFwBase r, Reg.secFwLimit r]) ++ [Reg.impPolicy]

/-- A measurement: its index, its context (0xFF none) and its digest. -/
structure Measure where
  index : Nat
  ctx : Nat
  digest : BitVec 384
  deriving DecidableEq, Repr

/-- The measurements of the module now, in ascending index. -/
def State.measures (s : State) : List Measure :=
  [⟨0, 0xFF, Config.romDigest⟩] ++ ([1, 2, 3, 4].map fun k => ⟨k, 0xFF, s.runningDigest k⟩) ++
  [⟨5, 0xFF, Config.sha384 (setupRegs.flatMap fun a => leBytes 8 (s.rd a).toNat)⟩,
   ⟨6, 0xFF, if s.sec.ownerInForce = [] then 0 else fwDigest s.sec.ownerInForce⟩] ++
  ((List.range 5).filterMap fun i => (s.fw (i + 1)).staged.map fun b => ⟨9 + i, 0xFF, fwDigest b⟩) ++
  ((List.range 16).filterMap fun c => if s.ctxState c = 0 then none else some ⟨16 + c, c, (s.image c).digest⟩) ++
  ((List.range 16).filterMap fun c => if (s.ctx c).keyContent = 0 then none else (s.ctx c).packageDigest.map fun h => ⟨32 + c, c, h⟩)

/-! ## The layered identity (R332, R340, R341) -/

/-- The CDI of the firmware layer, over measurements 1 to 6, is derived (Table 14.5, log entry 45). -/
def deriveCdi : Act := fun s =>
  let ms := s.measures.filter fun m => decide (1 ≤ m.index ∧ m.index ≤ 6)
  let cdi := Config.hmac384 (leBytes 32 Config.uds.toNat) (ms.flatMap fun m => digestBytes m.digest)
  [.sec fun x => { x with udsClosed := true, cdi := cdi }]

/-- An ECDSA signature made with the Alias key. -/
def State.aliasSign (s : State) (d : BitVec 384) : Bytes := Config.ecdsaSign s.sec.cdi d

/-- The certificate chain of SPDM slot 0: the Cytia root, DeviceID, Alias (R341). -/
def State.certificateChain (s : State) : Bytes :=
  Config.rootCertificate ++ Config.deviceCertificate Config.publicKeys ++
    Config.aliasCertificate (Config.identity "DeviceID") (Config.ecdsaPublic s.sec.cdi)

/-- The security engine restarts with new firmware: every SPDM session ends, and leaves reserved and not used are skipped (R343,
R350, R359). -/
def engineRestart : Act := fun s =>
  seqA [act [.sec fun x => { x with restarting := true, sessions := [], exchanging := [], colophonWait := [], leaf := max x.leaf x.nvmLeaf },
      .fld Fld.secLmsLeaf (max s.sec.leaf s.sec.nvmLeaf)],
    act ((List.range 12).map fun l => .link l fun x => { x with keyExchanged := false, spdmOpen := false }), deriveCdi, debugOff] s

/-- The instant at which a staged image becomes the running one (Table 14.4). -/
def fwInstant (k : Nat) : Act := fun s =>
  if !(s.fw k).activating ∨ (s.fw k).staged.isNone ∨ !s.sec.booted ∨ !(k = 2 ∨ k = 3 ∨ k = 4) ∨
      (k = 4 ∧ s.flag Fld.reqCtrlEnable) ∨ (k = 2 ∧ s.sec.imports ≠ []) then []
  else seqA [setFw k fun f => { f.swap with running := f.swap.stored, dead := false }, showStaged,
    if k = 2 then engineRestart else nothing] s

/-! ## The owner record (R337, Table 14.16) -/

/-- The registers of the protection setup that a record gives: address, value, and the bits that the register holds. -/
def ownerSetup (r : Bytes) : List (Nat × Nat × Nat) :=
  let prot := fieldAt r 65 1
  [(Reg.secProt, prot % 2 + bitsOf prot 1 2 * 4 + bitsOf prot 3 1 * 16, 0x1D),
   (Reg.impPolicy, bitsOf prot 4 1, 1),
   (Reg.secCtxtab, fieldAt r 72 8, 0xFF_FFFF_F000), (Reg.secTagtab, fieldAt r 80 8, 0xFF_FFFF_0000)] ++
  (List.range 7).flatMap fun i =>
    [(Reg.secFwBase (i + 1), fieldAt r (88 + 16 * i) 8, 0x1FF_FFF0_0007), (Reg.secFwLimit (i + 1), fieldAt r (96 + 16 * i) 8, 0x1FF_FFF0_0001)]

/-- Writes of the setup. -/
def putSetup (r : Bytes) : List Upd := (ownerSetup r).map fun p => .reg p.1 (BitVec.ofNat 64 (p.2.1 &&& p.2.2))

/-- A range lies in a valid region that denies all three classes (R335). -/
def State.guarded (s : State) (a n : Nat) : Bool :=
  (List.range 8).any fun r =>
    s.flag (Fld.secFwLimitValid r) && s.fget (Fld.secFwBaseDeny r) == 7 && decide (a + n ≤ Config.fastEnd) &&
    decide (s.fget (Fld.secFwBaseBase r) * 2 ^ 20 ≤ a) && decide (a + n ≤ (s.fget (Fld.secFwLimitLimit r) + 1) * 2 ^ 20)

/-- The key slots that a record enrols. -/
def ownerSlots (r : Bytes) : List Nat := setBits 4 (fieldAt r 66 1)

/-- Bytes of the key pair that a record gives for imposition-signer slot `k`. -/
def ownerKey (r : Bytes) (k : Nat) : Bytes := slice r (360 + 160 * k) 160

/-- The rsvd fields of the body are zero; those of key slots that are not enrolled are ignored. -/
def ownerRsvdOk (r : Bytes) : Bool :=
  decide (fieldAt r 65 1 < 32) && decide (fieldAt r 66 1 < 16) && allZero (slice r 67 5) && allZero (slice r 353 7) &&
  (ownerSlots r).all fun k => allZero ((ownerKey r k).drop 153)

/-- A record that R337 does not treat as absent, in a state whose setup it has written; its own tables and regions count. -/
def State.ownerGood (s : State) (r : Bytes) : Bool :=
  fieldAt r 64 1 == 1 && ownerRsvdOk r && bitsOf (fieldAt r 65 1) 1 2 != 3 &&
  s.guarded (s.fget Fld.secCtxtabBase * 4096) 1024 && s.guarded (s.fget Fld.secTagtabBase * 65536) 26214400

/-- The imposition-signer slots of a record; none without one. -/
def enrol (r : Bytes) : Act := act ((List.range 4).flatMap fun k =>
  if (ownerSlots r).contains k then [.fld (Fld.secImpkeyEnrolled k) 1, .fld (Fld.secImpkeyId k) (keyPairId ((ownerKey r k).take 153))]
  else [.reg (Reg.secImpkey k) 0])

/-! ## Boot (R332 to R334) -/

/-- The copy of a component that a boot finds: copy A, else copy B, each when its verdict is good and its svn is not below the
anti-rollback counter. -/
def FwComponent.boot (f : FwComponent) (arb : Nat) (a b : Bool) : Option (Bytes × Bool) :=
  let second := f.staged.getD f.fallback
  if a ∧ arb ≤ fwSvn f.stored then some (f.stored, true)
  else if b ∧ arb ≤ fwSvn second then some (second, false)
  else none

/-- A component is booted, and a boot from copy B is recorded. -/
def bootOne (k : Nat) (a b : Bool) : Act := fun s =>
  match ((s.fw k).swap).boot (s.sec.arb.getD (k - 1) 0) a b with
  | some (i, true) => setFw k (fun f => { f.swap with running := i, dead := false }) s
  | some (i, false) =>
    seqA [setFw k fun f => { f.swap with running := i, dead := false, staged := none, activating := false, fallback := i },
      faultRecord 0x0E 0 0xFF k 2 0 0 false] s
  | none => setFw k (fun f => { f.swap with dead := true }) s

/-- The owner record in force: the stored one unless R337 treats it as absent. -/
def ownerBoot (good cold : Bool) : Act := fun s =>
  let r := ((s.fw 5).swap).stored
  let ok := good && r != [] && decide (s.sec.arb.getD 4 0 ≤ fwSvn r) &&
    (s.run (putSetup r)).ownerGood r
  seqA [setFw 5 FwComponent.swap, if ok ∧ cold then act (putSetup r) else nothing, enrol (if ok then r else []),
    act [.sec fun x => { x with ownerInForce := if ok then r else [] }]] s

/-- At a module cold reset each anti-rollback counter rises to the svn of the image accepted, and SEC_ARB shows them. -/
def raiseArb : Act := fun s =>
  let svn (k : Nat) : Nat := if k = 5 then fwSvn s.sec.ownerInForce else if (s.fw k).dead then 0 else fwSvn (s.fw k).running
  let arb := (List.range 5).map fun i => max (s.sec.arb.getD i 0) (svn (i + 1))
  [.sec fun x => { x with arb := arb }, .reg Reg.secArb (BitVec.ofNat 64 (leNat (arb.map (BitVec.ofNat 8 ·))))]

/-- Leaves of a tree (R342). -/
def treeLeaves : Nat := 2 ^ 20

/-- A failed commit of an LMS index is recorded (R343). -/
def commitFailed : Act := seqA [act [.draw], faultRecord 0x0E 0 0xFF 2 1 0 0 false]

/-- A new LMS subtree: the top index is committed first, and a failed commit leaves no leaf to sign with; when the top tree is used
up, colophons end (R343, R344, log entry 45). -/
def newSubtree : Act := fun s =>
  if treeLeaves ≤ s.sec.nvmTop then [.fld Fld.secStatusLmsExhausted 1]
  else if Config.commitFails s.free then
    seqA [commitFailed, act [.sec fun x => { x with nvmLeaf := treeLeaves, leaf := treeLeaves }]] s
  else
    [.draw, .sec fun x => { x with nvmTop := x.nvmTop + 1, nvmLeaf := 0, leaf := 0 }, .fld Fld.secLmsSubtree s.sec.nvmTop,
     .fld Fld.secLmsLeaf 0]

/-- The boot reaches hub ready, or the module is held. -/
def bootEnd : Act := fun s =>
  if (s.fw 2).dead ∨ (s.fw 3).dead then [.sec fun x => { x with held := true }]
  else seqA [showStaged, deriveCdi, newSubtree, act [.sec fun x => { x with booted := true }],
    if (s.fw 4).dead then enterBasic 5 else nothing] s

/-- The boot of the security domain, given which copies of components 1 to 5 are intact in boot flash. -/
def domainBoot (copyA copyB : List Bool) : Act := fun s =>
  let cold := s.power.coldReset
  let one (k : Nat) : Act := bootOne k (copyA.getD (k - 1) false) (copyB.getD (k - 1) false)
  if !s.powered ∨ s.sec.booted ∨ s.sec.held then []
  else seqA [act [.sec fun x => { x with udsClosed := true }], one 1, fun t =>
    if (t.fw 1).dead then [.sec fun x => { x with held := true }]
    else seqA [act [.sec fun x => { x with bootCount := (x.bootCount + 1) % 2 ^ 32 }],
      fun u => [.fld Fld.secStatusBootCount u.sec.bootCount],
      ownerBoot (copyA.getD 4 false) cold, forA [2, 3, 4] one, if cold then raiseArb else nothing,
      act [.fld Fld.secProtLock 1, .fld Fld.secStatusLocked 1], bootEnd] t] s

/-! ## Update over the management interface (R385) -/

/-- An answer to a firmware update over MCTP. -/
def pldmAnswer (k : Nat) (ok : Bool) : Act := act [.out (.mctp (Config.standardReply 0x500 [BitVec.ofNat 8 k, BitVec.ofNat 8 (b2n ok)]))]

/-- A whole image over PLDM: staged when it verifies; a held module takes it as its active copy, without boot code only a
boot-code image. -/
def pldmUpdate (k : Nat) (b : Bytes) : Act := fun s =>
  if !s.mgmtUp then []
  else if k = 0 ∨ (s.sec.held ∧ (s.fw 1).dead ∧ k ≠ 1) then pldmAnswer k false s
  else if s.sec.held then
    if s.fwOk k b then seqA [setFw k fun f => { f with stored := b, fallback := f.stored, staged := none }, pldmAnswer k true] s
    else pldmAnswer k false s
  else seqA [beginTransfer k, stageImage k b (pldmAnswer k true) (pldmAnswer k false)] s

/-! ## Debug mode (R359) -/

/-- A write of 1 to SEC_DBG.enable. -/
def debugOn : Act := fun s =>
  if s.flag Fld.secProtDebugLock ∨ s.confidential then [.fld Fld.secDbgRefused 1]
  else [.fld Fld.secDbgEnable 1, .fld Fld.secStatusDebug 1, .fld Fld.secStatusDebugUsed 1]

/-! ## The commands -/

/-- GET_FW_INFO (R294). -/
def execGetFwInfo (s : State) : Host.Outcome State Fault Refusal :=
  done (mailboxCmd fun s => reply 0 (Config.standardReply 0x0200 ((List.range 5).flatMap fun i =>
    [BitVec.ofNat 8 (b2n (s.fw (i + 1)).staged.isSome), BitVec.ofNat 8 (b2n (s.fw (i + 1)).activating)] ++
    slice (s.fw (i + 1)).running 8 4)) s) s

/-- TRANSFER_FW (R333, R338). -/
def execTransferFw (component : Fin 6) (offset : Nat) (data : Bytes) (last : Bool) (s : State) : Host.Outcome State Fault Refusal :=
  done (mailboxCmd (fwTransfer component offset data last)) s

/-- ACTIVATE_FW (R338). -/
def execActivateFw (component : Fin 6) (s : State) : Host.Outcome State Fault Refusal := done (mailboxCmd (fwActivate component)) s

/-- FW_ACTIVATION_INSTANT (R338, R348, R350). -/
def execFwActivationInstant (component : Fin 6) (s : State) : Host.Outcome State Fault Refusal := done (fwInstant component) s

/-- PLDM_FIRMWARE_UPDATE (R333, R385). -/
def execPldmFirmwareUpdate (component : Fin 6) (image : Bytes) (s : State) : Host.Outcome State Fault Refusal :=
  done (pldmUpdate component image) s

/-- SECURITY_DOMAIN_READY (R332 to R334, R337, R343). -/
def execSecurityDomainReady (copyA copyB : List Bool) (s : State) : Host.Outcome State Fault Refusal := done (domainBoot copyA copyB) s

/-- SECURITY_ENGINE_RESTART_DONE (R350). -/
def execSecurityEngineRestartDone (s : State) : Host.Outcome State Fault Refusal :=
  done (act [.sec fun x => { x with restarting := false }]) s

/-- DEBUG_ENABLE (R359). -/
def execDebugEnable (s : State) : Host.Outcome State Fault Refusal := done (whenA State.bound debugOn) s

/-- DEBUG_DISABLE (R359). -/
def execDebugDisable (s : State) : Host.Outcome State Fault Refusal := done (whenA State.bound debugOff) s

end Sys2Proof.Machine
end

