-- ==== Sys2Proof/Machine/Inbound.lean ====
section
/-! DEFINITION. Frames from links: the checks of Table 13.7, reads and writes of windows, coded transfers, forwarding, and
answers to this module's requests. R302 to R304, R310, R315 to R321, R225. -/

namespace Sys2Proof.Machine

open Sys2Proof

/-! ## Check 2 (R304) -/

/-- Channel of a frame type. -/
def vcOfKind (k : Nat) : Nat := if k = Ft.write ∨ k = Ft.readReq then 0 else 1

/-- Lines that a frame's payload carries; a coded payload fills the frame. -/
def Head.payloadLines (h : Head) : Nat :=
  if h.kind = Ft.write ∧ h.coded then 4 else if h.kind = Ft.write ∨ h.kind = Ft.readRsp then h.count + 1 else 0

/-- Type, channel, rsvd fields and padding. -/
def State.frameOk (s : State) (l : Nat) (f : Frame) : Bool :=
  let h := frameHead f
  1 ≤ h.kind && h.kind ≤ 5 && h.vc == vcOfKind h.kind && allZero ((frameBytes f).drop (64 * h.payloadLines)) &&
  (s.modeAtCounter l ((s.link l).rxCounter + 2 ^ 64 - 1) == 1 || h.crc == 0) && (h.kind == Ft.write || !h.coded)

/-! ## Forwarding (R310, R321) -/

/-- A frame for another module goes on, or is refused. -/
def forwardFrame (l : Nat) (f : Frame) : Act := fun s =>
  let h := frameHead f
  if !s.linkNew l then refuseFrame l h Hr.version s
  else if h.hops = 0 then refuseFrame l h Hr.noRoute s
  else match s.routeTo h.dst with
    | none => refuseFrame l h Hr.noRoute s
    | some k =>
      if !s.linkNew k then refuseFrame l h Hr.version s
      else sendOn k (.data { f with header := { h with hops := h.hops - 1, seqLo := 0, crc := 0 }.bits, tag := 0 }) s

/-! ## Checks 3 to 10 (R315) -/

/-- The cores whose galleys hold a line of a range. -/
def galleyCores (a n : Nat) : List Nat :=
  let first := (a - Config.galleyBase) / Config.galleyBytes
  (List.range ((a + n - 1 - Config.galleyBase) / Config.galleyBytes - first + 1)).map (first + ·)

/-- The banks that hold a line of a range. -/
def poolBanksOf (a n : Nat) : List Nat :=
  let first := (a - Config.poolBase) / Config.bankBytes
  (List.range ((a + n - 1 - Config.poolBase) / Config.bankBytes - first + 1)).map (first + ·)

/-- A core runs a context for its galley windows: its cluster holds the context, taken, and no takeover runs on it. -/
def State.coreRuns (s : State) (n c : Nat) : Bool :=
  (s.cluster (clusterOf n)).ctx == some c && (s.cluster (clusterOf n)).taken && s.inService (clusterOf n) && !s.flt.noCore.contains n

/-- The refusal before the window is looked at: NO_ROUTE before READY (R327), and SPOOF where the path towards the source does
not leave by the arrival link (check 3). -/
def State.checkSource (s : State) (l : Nat) (h : Head) : Option Nat :=
  if !s.fabricReady then some Hr.noRoute else if s.routeTo h.src ≠ some l then some Hr.spoof else none

/-- A bank is OFF, or leaves ON for OFF: it refuses every request (R171). -/
def State.bankOff (s : State) (b : Nat) : Bool :=
  s.fget (Fld.poolStateStatus b) != 3 && (s.fget (Fld.poolStateCurrent b) == 2 || (s.bank b).goal == some 2)

/-- Some bank of a range of `n` lines refuses the request. -/
def State.banksRefuse (s : State) (a n : Nat) : Bool := regionOf a == .pool && (poolBanksOf a (64 * n)).any s.bankOff

/-- What the checks say of a request of `n` lines: a reason, or the first address of the lines. -/
def State.checkRequest (s : State) (l : Nat) (h : Head) (n : Nat) : Except Nat Nat :=
  match s.checkSource l h with
  | some r => .error r
  | none => if s.basic ∨ !s.ctxLive h.ctx then .error Hr.noWindow
  else match s.windows.find? (fun w => w.ctx == h.ctx && w.id == h.window) with
    | none => .error Hr.noWindow
    | some w =>
      let a := w.base + 64 * h.offset
      if !w.peers.contains h.src then .error Hr.peer
      else if !bitOf w.direction (if h.kind = Ft.write then 0 else 1) then .error Hr.direction
      else if w.size < (h.offset + n) * 64 then .error Hr.range
      else if !s.linkNew l ∧ !((s.image h.ctx).links.any fun e => e.link == l && e.role == 2) then .error Hr.version
      else if regionOf a = .galley then
        (if !(galleyCores a (64 * n)).all (s.coreRuns · h.ctx) then .error Hr.notRunning
         else if !(galleyCores a (64 * n)).all (s.engineTurn · 7) then .error Hr.noTurn
         else .ok a)
      else if s.banksRefuse a n then .error Hr.notRunning
      else .ok a

/-- Banks of a range that hold the request: in RETAIN or on the way there, or under test (R171, R176). -/
def State.holdingBanks (s : State) (a n : Nat) : List Nat :=
  if regionOf a ≠ .pool then [] else
  (poolBanksOf a n).filter fun b => s.fget (Fld.poolStateStatus b) == 3 || s.fget (Fld.poolStateCurrent b) == 1 ||
    (s.bank b).goal.isSome

/-- The banks that hold a request are woken for it where they are in RETAIN (R171). -/
def wakeBanks (bs : List Nat) : Act := forA bs fun b => fun s =>
  if s.fget (Fld.poolStateStatus b) = 3 then [] else poolTarget b 0 s

/-! ## Performing a request (R316, R319) -/

/-- Every protected unit of a line is poisoned without an entry in an error log (R162, R316). -/
def poisonLine (a : Nat) : List Upd := (unitPieces a 64).map fun p => .mark p.1 .poisoned

/-- Lines of a WRITE are stored; a line with its poison bit is written poisoned, without the memory-error event. -/
def storeLines (a poison : Nat) (b : Bytes) : Act :=
  forA (List.range (b.length / 64)) fun i =>
    seqA [storePlain (a + 64 * i) (slice b (64 * i) 64), if bitOf poison i then act (poisonLine (a + 64 * i)) else nothing]

/-- An answer to a request. -/
def answer (l : Nat) (h : Head) (kind count poison : Nat) (b : Bytes) : Act := fun s =>
  sendBack l { h.answer kind s.ownId with count := count, poison := poison } b s

/-- Staging regions of the commands that the cores of a galley range hold stay undefined data, whatever is written to them (R161). -/
def restage (a n : Nat) : Act := if regionOf a = .galley then forA (galleyCores a n) stagesUndef else nothing

/-- A request is performed on the `n` lines at `a`. -/
def perform (l : Nat) (h : Head) (a n : Nat) (lines : Bytes) : Act := fun s =>
  if h.kind = Ft.write then seqA [storeLines a (if h.coded then 0 else h.poison) lines, restage a (64 * n), answer l h Ft.writeAck h.count 0 []] s
  else
    let bad (i : Nat) := s.poisoned (a + 64 * i)
    let bits := ((List.range n).map fun i => if bad i then 2 ^ i else 0).sum
    let line (i : Nat) : Bytes := if bad i then (List.range 64).map (fun j => Config.freeByte s.free (a + 64 * i + j))
      else s.peekN (a + 64 * i) 64
    seqA [act (if bits = 0 then [] else [.draw]), answer l h Ft.readRsp h.count bits ((List.range n).flatMap line)] s

/-- A refusal counts at the pool banks that refuse (R167), or at the galleys whose wheel pattern has no turn (R160, R179). -/
def refusalCounts (reason a n : Nat) : Act := fun s =>
  if reason = Hr.notRunning ∧ s.banksRefuse a n then ((poolBanksOf a (64 * n)).filter s.bankOff).map fun b => .inc (Fld.poolCntRefused b) 1
  else if reason = Hr.noTurn then ((galleyCores a (64 * n)).filter fun c => !s.engineTurn c 7).map fun c => .inc (Fld.galCntRefused c) 1
  else []

/-- The first address that a request names in its window. -/
def State.requestAddr (s : State) (h : Head) : Nat :=
  ((s.windows.find? fun w => w.ctx == h.ctx && w.id == h.window).map (·.base)).getD 0 + 64 * h.offset

/-- A request is held. -/
def holdFrame (l : Nat) (r : HeldFrame) : Act := act [.link l fun x => { x with held := x.held ++ [r] }]

/-- A request past every check is performed at once, or held until its banks are ON, or until the host has answered for a line that it
holds (R291); a bank that goes OFF meanwhile refuses it.
What happens to the window meanwhile changes nothing (R171, R318). -/
def performOrHold (l : Nat) (r : HeldFrame) : Act := fun s =>
  let h := headOf r.header
  let bs := s.holdingBanks r.addr (64 * r.count)
  if s.banksRefuse r.addr r.count then seqA [refusalCounts Hr.notRunning r.addr r.count, refuseFrame l h Hr.notRunning] s
  else if bs ≠ [] then seqA [holdFrame l r, wakeBanks bs] s
  else
    let ls := (s.heldLines [(r.addr, 64 * r.count)]).filter (!s.port.lostLines.contains ·)
    if ls ≠ [] then seqA [holdFrame l r, forA ls awaitLine] s
    else withHost (fun _ => [(r.addr, 64 * r.count)]) (perform l h r.addr r.count r.lines) s

/-- A request that passed check 2 is refused, held for a bank, or performed. `lines` are the raw lines of a WRITE. -/
def serve (l : Nat) (header : BitVec 128) (n : Nat) (lines : Bytes) : Act := fun s =>
  let h := headOf header
  match s.checkRequest l h n with
  | .error r => seqA [refusalCounts r (s.requestAddr h) n, refuseFrame l h r] s
  | .ok a => performOrHold l ⟨header, a, n, lines⟩ s

/-! ## Coded transfers (R225, R320) -/

/-- The gathered transfer of a link. -/
def setGather (l : Nat) (g : Option CodedGather) : Act := act [.link l fun x => { x with gather := g }]

/-- A frame begins with a right segment header. -/
def opensSegment (f : Frame) : Bool := segHeaderOk ((frameBytes f).take segHeaderBytes) none

/-- A frame belongs to the transfer in hand: it repeats source, context, window, offset and tag, and the segment is not yet whole.
Of a refused transfer whose length is not known, the frames run on until one opens a segment (log entry 36). -/
def CodedGather.continues (g : CodedGather) (f : Frame) : Bool :=
  let x := headOf g.header
  let h := frameHead f
  g.tag == h.tag && x.src == h.src && x.ctx == h.ctx && x.window == h.window && x.offset == h.offset &&
  (if g.need = 0 then !opensSegment f else decide (g.got < g.need))

/-- A frame counted into its transfer: the one in hand, or a new one that it begins. -/
def State.gathering (s : State) (l : Nat) (f : Frame) : CodedGather :=
  let need := if opensSegment f then fieldAt (frameBytes f) 8 4 else 0
  let new : CodedGather := { tag := (frameHead f).tag, header := f.header, data := [], need := need }
  let g := match (s.link l).gather with
    | some g => if g.continues f then g else new
    | none => new
  { g with got := g.got + 256, data := if g.refused then [] else g.data ++ frameBytes f }

/-- A transfer is refused once; its later frames are passed over. -/
def codedRefuse (l : Nat) (g : CodedGather) (reason : Nat) : Act :=
  seqA [setGather l (some { g with refused := true, data := [] }), refuseFrame l (headOf g.header) reason]

/-- A transfer is refused with CODED, and its decode error is logged (R217, R320). -/
def codedBad (l : Nat) (g : CodedGather) (detail : Nat) : Act :=
  let h := headOf g.header
  seqA [logCmp (h.offset * 64) h.ctx 1 l detail 0, codedRefuse l g Hr.coded]

/-- A frame of a coded transfer joins what has been gathered: check 3 runs for every frame, and the last frame, with count 3,
decodes the segment; checks 4 to 10 then run once (R315, R320). -/
def codedFrame (l : Nat) (f : Frame) (h : Head) : Act := fun s =>
  let g := s.gathering l f
  if g.refused then setGather l (some g) s
  else match s.checkSource l h with
    | some r => codedRefuse l g r s
    | none =>
      if g.need = 0 then codedBad l g Dec.header s
      else if g.got < g.need then setGather l (some g) s
      else if h.count ≠ 3 then codedRefuse l g Hr.coded s
      else match decodeSegment (g.data.take g.need) with
        | .error e => codedBad l g e s
        | .ok raw => seqA [setGather l (some { g with data := [] }), serve l g.header (raw.length / 64) raw] s

/-- The requests of a link that a bank held are tried again. -/
def retryLink (l : Nat) : Act := fun s =>
  let rs := (s.link l).held
  seqA [act [.link l fun x => { x with held := [] }], forA rs (performOrHold l)] s

/-- Requests that wait for a pool bank are tried again. -/
def retryHeld : Act := fun s => forA ((List.range 12).filter fun l => (s.link l).held != []) retryLink s

/-! ## Frames by type -/

/-- A frame of a type that passes check 1: check 2, forwarding, then what its type does here. -/
def frameIn (l : Nat) (f : Frame) (kind : Nat) (here : Frame → Head → Act) : Act := fun s =>
  let h := frameHead f
  if h.kind ≠ kind then []
  else recvFrame l f (fun f => seqA [frameFree l f, fun t =>
    if !t.frameOk l f then refuseFrame l h Hr.rsvd t
    else if h.dst ≠ t.ownId then forwardFrame l f t
    else here f h t]) s

/-- A WRITE for this module. A coded payload comes only over Huras 3.0. -/
def writeIn (l : Nat) (f : Frame) (h : Head) : Act := fun s =>
  if h.coded then (if s.linkNew l then codedFrame l f h s else refuseFrame l h Hr.version s)
  else serve l f.header (h.count + 1) ((frameBytes f).take (64 * (h.count + 1))) s

/-- A frame of a reserved type is refused with RSVD; IDLE frames fill the line and are passed over. -/
def reservedFrame (l : Nat) (f : Frame) : Act := fun s =>
  if (frameHead f).kind < 8 then [] else recvFrame l f (fun f => seqA [frameFree l f, refuseFrame l (frameHead f) Hr.rsvd]) s

/-! ## The commands -/

/-- WRITE_FRAME (R315 to R321). -/
def execWriteFrame (link : LinkId) (frame : Frame) (s : State) : Host.Outcome State Fault Refusal :=
  done (frameIn link frame Ft.write (writeIn link)) s

/-- READ_REQ (R315 to R321). -/
def execReadReq (link : LinkId) (frame : Frame) (s : State) : Host.Outcome State Fault Refusal :=
  done (frameIn link frame Ft.readReq fun f h => serve link f.header (h.count + 1) []) s

/-- READ_RSP (R313, R319, R405). -/
def execReadRsp (link : LinkId) (frame : Frame) (s : State) : Host.Outcome State Fault Refusal :=
  done (frameIn link frame Ft.readRsp fun f h => answerIn link h (linesIn h (frameBytes f))) s

/-- NACK: the originating command ends with a TRANSLATION fault (R316). -/
def execNack (link : LinkId) (frame : Frame) (s : State) : Host.Outcome State Fault Refusal :=
  done (frameIn link frame Ft.nack fun _ h => answerIn link h (askerFault · Cmd.translation)) s

/-- WRITE_ACK (R313). -/
def execWriteAck (link : LinkId) (frame : Frame) (s : State) : Host.Outcome State Fault Refusal :=
  done (frameIn link frame Ft.writeAck fun _ h => answerIn link h fun r => pumpSends r.core r.cmd) s

/-- RESERVED_FRAME_TYPE (R304). -/
def execReservedFrameType (link : LinkId) (frame : Frame) (s : State) : Host.Outcome State Fault Refusal :=
  done (reservedFrame link frame) s

/-- POOL_STATE_REACHED: a bank reaches the state it moves to, and what it held goes on (R171 to R174). -/
def execPoolStateReached (bank : BankId) (s : State) : Host.Outcome State Fault Refusal := done (seqA [poolReached bank, retryHeld]) s

/-- A keep-warm tick of 10 ns: with it a turn of a march run may end, and what its banks held goes on. -/
def tick : Act := seqA [act [.tick], fun s => if s.march.isSome then seqA [marchTick, retryHeld] s else []]

/-- MARCH_COMPLETE: a march run ends (R175, R176, R178). -/
def execMarchComplete (failedBanks : List BankId) (s : State) : Host.Outcome State Fault Refusal :=
  done (seqA [marchEnd (failedBanks.map (·.val)), retryHeld]) s

end Sys2Proof.Machine
end

