-- ==== Sys2Proof/Machine/HostPort.lean ====
section
/-! DEFINITION. The CXL port: bring-up, link-down, function resets, watched lines and polling, host reads and their timeouts,
the host-managed region with its snoop filter, coalescing, IDE. R282 to R292, R298, R405. Log entry 44. -/

namespace Sys2Proof.Machine

open Sys2Proof

/-! ## Watched lines (R284, R285) -/

/-- The read that watches a line. -/
def askLine : WatchLine → Act
  | .tail r => askTail r
  | .head slot => askHead slot

/-- What a host read of a watched line reads. -/
def WatchRead (l : WatchLine) : HostRead :=
  match l with
  | .tail r => .tailLine r
  | .head slot => .headLine slot

/-- A line is watched: the tail of an enabled ring, or the head of a PAUSED request with a watch entry, while CXL.cache is
enabled. -/
def State.watches (s : State) : WatchLine → Bool
  | .tail r => s.flag Fld.cxlStatusCacheEnabled && s.flag (Fld.reqCringEnable r)
  | .head slot => s.headWatched slot

/-- Rings that are enabled. -/
def State.ringsOn (s : State) : List RingId := (List.finRange 64).filter fun r => s.flag (Fld.reqCringEnable r)

/-- PAUSED requests as slots, in the order in which they paused. -/
def State.pausedSlots (s : State) : List SlotId := s.pausedOrder.filterMap fun k => if h : k < 262144 then some ⟨k, h⟩ else none

/-- Every watched line is read once. -/
def readWatched : Act := fun s =>
  seqA [forA s.ringsOn askTail, forA (s.pausedSlots.filter fun (k : SlotId) => s.headWatched k.val) askHead] s

/-- CXL.cache is enabled. -/
def cacheOn : Act := seqA [act [.fld Fld.cxlStatusCacheEnabled 1, .fld Fld.cxlStatusPollMode 0], readWatched]

/-- CXL.cache is disabled: lines are polled. -/
def cacheOff : Act := act [.fld Fld.cxlStatusCacheEnabled 0, .fld Fld.cxlStatusPollMode 1]

/-! ## Resets of the function (R283, R296) -/

/-- Function Level Reset, hot reset, and the return of the link. -/
def functionReset : Act :=
  seqA [unbind, forA (List.finRange 64) ringDisable, act ((List.range 16).map fun c => .fld (Fld.cxlPevEnable c) 0),
    act [.port fun p => { p with msixTable := [], msixOn := false, msixMask := false, msixPending := [], coalesce := [] }]]

/-- The data link goes down: counted, recorded, and every serving period ends. -/
def linkDown (detail : Nat) : Act := fun s =>
  if !s.linkUp then []
  else seqA [act [.fld Fld.cxlLinkState 0, .fld Fld.cxlLinkRate 0, .fld Fld.cxlLinkWidth 0, .inc Fld.cxlErrCntLinkDown 1,
      .port fun p => { p with configReady := false }],
    faultRecord 0x0D 0 0xFF 0 detail 0 0 false, endPeriods] s

/-- Link training completes. -/
def linkComesUp (rate width : Nat) (cache : Bool) : Act := fun s =>
  if !s.power.hubReady ∨ s.port.perst ∨ s.linkUp ∨ !([64, 32, 16].contains rate) ∨ !([16, 8, 4].contains width) then []
  else
    let again := s.port.lastRate != 0
    let changed := s.port.lastRate != rate || s.port.lastWidth != width
    seqA [act [.fld Fld.cxlLinkState 2, .fld Fld.cxlLinkRate rate, .fld Fld.cxlLinkWidth width,
        .port fun p => { p with lastRate := rate, lastWidth := width, sris := s.flag Fld.clkCtrlSris }],
      if again then functionReset else nothing, if again ∧ changed then raise Vec.port else nothing,
      if cache then cacheOn else cacheOff] s

/-! ## Configuration space (R280, R282, R283, R289, R292) -/

/-- Mem_Active of the CXL DVSEC: the mailbox is ready and the slow tier is initialized (Table 12.3, step 5). -/
def State.memActive (s : State) : Bool := s.port.mailboxReady && s.fget Fld.memsStatusReady != 0

/-- The lower word of a base address register pair of a BAR: its address bits, and that it is a 64-bit memory BAR, prefetchable or not. -/
def barLow (base : Nat) (prefetch : Bool) : BitVec 32 := BitVec.ofNat 32 (base % 2 ^ 32 + 4 + 8 * b2n prefetch)

/-- The value that configuration space reads. Bits that PCI Express and CXL fix beside those the manual names are open. -/
def State.configRead (s : State) (r : ConfigReg) : BitVec 32 :=
  let rest := Config.configSpace r
  match r with
  | .header off => match off.toNat / 4 * 4 with
    | 0x00 => 0x0A09C71A#32
    | 0x08 => BitVec.ofNat 32 (0x120000 * 256 + s.fget Fld.hubIdStepping)
    | 0x10 => barLow s.port.bar0 false
    | 0x14 => BitVec.ofNat 32 (s.port.bar0 / 2 ^ 32)
    | 0x18 => barLow s.port.bar2 false
    | 0x1C => BitVec.ofNat 32 (s.port.bar2 / 2 ^ 32)
    | 0x20 => barLow s.port.bar4 true
    | 0x24 => BitVec.ofNat 32 (s.port.bar4 / 2 ^ 32)
    | _ => rest
  | .msixControl => BitVec.ofNat 32 (b2n s.port.msixOn * 2 ^ 31 + b2n s.port.msixMask * 2 ^ 30 + 95 * 2 ^ 16 + rest.toNat % 2 ^ 16)
  | .deviceControl2 => (rest >>> 4 <<< 4) ||| s.port.timeoutCode.setWidth 32
  | .aerUncorrectable => s.port.aerUncorrectable
  | .aerCorrectable => s.port.aerCorrectable
  | .cxlRange => (rest &&& 0xFFFFFFFD#32) ||| BitVec.ofNat 32 (2 * b2n s.memActive)
  | .other _ => rest

/-- A base address takes a written half; the bits below the size stay 0. -/
def barPut (size base : Nat) (high : Bool) (v : Nat) : Nat :=
  (if high then v * 2 ^ 32 + base % 2 ^ 32 else base / 2 ^ 32 * 2 ^ 32 + v) / size * size

/-- A write of configuration space; a register beside those of the model keeps nothing of it. -/
def configPut (r : ConfigReg) (v : BitVec 32) (p : Port) : Port :=
  match r with
  | .header off => match off.toNat / 4 * 4 with
    | 0x10 => { p with bar0 := barPut (2 ^ 25) p.bar0 false v.toNat }
    | 0x14 => { p with bar0 := barPut (2 ^ 25) p.bar0 true v.toNat }
    | 0x18 => { p with bar2 := barPut (2 ^ 17) p.bar2 false v.toNat }
    | 0x1C => { p with bar2 := barPut (2 ^ 17) p.bar2 true v.toNat }
    | 0x20 => { p with bar4 := barPut (2 ^ 34) p.bar4 false v.toNat }
    | 0x24 => { p with bar4 := barPut (2 ^ 34) p.bar4 true v.toNat }
    | _ => p
  | .msixControl => { p with msixOn := v.getLsbD 31, msixMask := v.getLsbD 30 }
  | .deviceControl2 => { p with timeoutCode := v.setWidth 4 }
  | .aerUncorrectable => { p with aerUncorrectable := p.aerUncorrectable &&& ~~~v }
  | .aerCorrectable => { p with aerCorrectable := p.aerCorrectable &&& ~~~v }
  | .cxlRange | .other _ => p

/-- A configuration request is answered: Retry Status before configuration space is ready; a write is answered with 0. -/
def configAnswer (q : ConfigRequest) : Act := fun s =>
  if !s.linkUp then []
  else if !s.port.configReady then [.out (.configReply none)]
  else match q with
    | .read r => [.out (.configReply (some (s.configRead r)))]
    | .write r v => seqA [act [.port (configPut r v), .out (.configReply (some 0))], sendPending] s

/-! ## Host reads (R284, R289, R405) -/

/-- What a read of host memory is used for (Table 12.4). -/
def readUse (what : HostRead) (res : HostResult) : Act :=
  match what with
  | .tailLine r => tailRead r res
  | .commandEntry r => match res with
    | .ok b => entryArrived r b
    | .failed _ => takeUnreadable r
  | .commandBlock r => blockArrived r res
  | .headLine slot => match res with
    | .ok b => headSeen slot (fieldAt b 0 4)
    | .failed _ => endRequest slot End.ringError
  | .completionLine r => cplHeadRead r res
  | .goldenLine line => goldenRead line res
  | .moveData => moveEnd res
  | .tree _ => nothing
  | .prompt _ => nothing
  | .package => nothing

/-- A line that was invalidated while its read was in flight is read once more (R284). -/
def readAgain (what : HostRead) : Act := fun s =>
  if !s.port.again.contains what then []
  else seqA [act [.port fun p => { p with again := p.again.filter (· != what) }], match what with
    | .tailLine r => askTail r
    | .headLine slot => askHead slot
    | .completionLine r => askCplHead r
    | _ => nothing] s

/-- A host read ends with data, or fails. One whose timeout was declared is late: counted and discarded. -/
def readEnds (what : HostRead) (res : HostResult) : Act := fun s =>
  if s.port.outstanding.contains what then seqA [hostReadOver what, readUse what res, readAgain what] s
  else if s.port.timedOut.contains what then
    [.inc Fld.cxlErrCntLate 1, .port fun p => { p with timedOut := eraseFirst (· == what) p.timedOut }]
  else []

/-- A host read times out; a read over CXL.io is reported in AER as a Completion Timeout. -/
def readTimeout (io : Bool) (what : HostRead) : Act := fun s =>
  if !s.port.outstanding.contains what then []
  else seqA [act [.inc Fld.cxlErrCntTimeouts 1, .port fun p => { p with
      timedOut := p.timedOut ++ [what]
      aerUncorrectable := if io then p.aerUncorrectable ||| 0x4000#32 else p.aerUncorrectable }], hostReadOver what,
    readUse what (.failed false), readAgain what] s

/-- Commands wait at a ring whose completion ring is full: its line 0 is read again (R192, R232; log entry 44). -/
def State.cplBlocked (s : State) (r : RingId) : Bool :=
  s.ringLive r && (s.ring r).tail != (s.ring r).taken && !s.canTake r

/-- The poller's 2 µs tick: tails of enabled rings in poll mode, lines whose last read failed, and line 0 of completion
rings that are full (R192, R286, Table 12.4). -/
def pollTails (tails : List (RingId × HostResult)) : Act := fun s =>
  if !s.hostUp then []
  else seqA [noteTimeouts (tails.map fun p => (.tailLine p.1, p.2)), forA s.ringsOn (fun r => fun t =>
    let res := ((tails.find? fun p => p.1 == r).map (·.2)).getD (.failed false)
    seqA [if t.flag Fld.cxlStatusPollMode ∨ (t.ring r).tailFailed then seqA [act [.inc Fld.cxlCntPolls 1], tailRead r res] else nothing,
      if (t.ring r).headFailed ∨ t.cplBlocked r then askCplHead r else nothing] t)] s

/-! ## The host-managed region (R290, R291) -/

/-- Lines that the snoop filter holds at most. -/
def filterLines : Nat := 1048576

/-- An HDM decoder commit. -/
def hdmCommit (ways gran : Nat) (bi mem : Bool) : Act := fun s =>
  if !s.ioUp then []
  else
    let good := s.fget Fld.memsHdmSizeGib != 0 && bi && [1, 2, 4, 8, 16].contains ways &&
      [256, 512, 1024, 2048, 4096, 8192, 16384].contains gran
    let on := s.port.hdmCommitted || good
    [.fld Fld.cxlStatusBiEnabled (b2n bi), .fld Fld.cxlStatusMemEnabled (b2n (on && mem)),
     .port fun p => { p with
       hdmCommitted := on
       hdmError := !on
       hdmWays := if p.hdmCommitted then p.hdmWays else ways
       hdmGranularity := if p.hdmCommitted then p.hdmGranularity else gran
       memEnable := mem }]

/-- The device address of an offset of the region, when CXL.mem is enabled and the offset lies in the region. -/
def State.hdmAddr (s : State) (off : Nat) : Option Nat :=
  if s.linkUp ∧ s.flag Fld.cxlStatusMemEnabled ∧ off < Config.slowEnd - s.hdmBase then some ((s.hdmBase + off) / 64 * 64) else none

/-- A CXL.mem read or write of a line is refused: the slow tier is out of service, the page is retired, or the class is
denied (R188, R205, R335). -/
def State.memRefused (s : State) (a : Nat) : Bool := !s.inTier a || s.retired a || s.denied 2 a

/-- Open data for a response with poison. -/
def State.openLine (s : State) (a : Nat) : Bytes := (List.range 64).map fun i => Config.freeByte s.free (a + i)

/-- A host read of a line: poison where the line is poisoned or refused; a full filter holds it while the oldest line is
back-invalidated. -/
def hdmRead (off : Nat) : Act := fun s =>
  match s.hdmAddr off with
  | none => []
  | some a =>
    if s.memRefused a ∨ s.unreadable a then seqA [act [.out (.memData (s.openLine a) true), .draw], if s.memRefused a then nothing else noteReads 0 6 a 64] s
    else if s.port.filter.contains (a / 64) ∨ s.port.filter.length < filterLines then
      seqA [act [.out (.memData (s.seenN 0 a 64) false),
       .port fun p => { p with filter := p.filter.filter (· != a / 64) ++ [a / 64] }], noteReads 0 6 a 64] s
    else
      let l := s.port.filter.headD 0
      (if s.port.heldAccesses.any (·.line == l) then [] else [.out (.biSnoop l)]) ++
        [.port fun p => { p with heldAccesses := p.heldAccesses ++ [{ line := l, host := some off }] }]

/-- A host write of the enabled bytes of a line. -/
def hdmWrite (off : Nat) (data : BitVec 512) (enables : BitVec 64) : Act := fun s =>
  match s.hdmAddr off with
  | none => []
  | some a =>
    if s.memRefused a then []
    else if enables = 0xFFFFFFFFFFFFFFFF#64 then storeLine s 0 a (leBytes 64 data.toNat)
    else if s.badUnit a then []
    else storeLine s 0 a ((List.range 64).map fun i =>
      if enables.getLsbD i then BitVec.ofNat 8 (data.toNat / 256 ^ i) else s.seen 0 (a + i))

/-- The host answers a back-invalidate: the line leaves the filter, and what waited goes on. An answer after its timeout is
late. -/
def snoopAnswer (l : Nat) : Act := fun s =>
  let hs := s.port.heldAccesses.filter (·.line == l)
  if hs = [] then
    (if s.port.snoopLate.contains l then
      [.inc Fld.cxlErrCntLate 1, .port fun p => { p with snoopLate := eraseFirst (· == l) p.snoopLate }] else [])
  else seqA [act [.port fun p => { p with
      filter := p.filter.filter (· != l)
      heldAccesses := p.heldAccesses.filter (·.line != l) }], forA (hs.filterMap (·.host)) hdmRead, retryHeld] s

/-- A command whose back-invalidate timed out: its reads of the line are poisoned, its writes dropped. -/
def loseLine (l core cmd : Nat) : Act :=
  act [.core core fun x => { x with queue := x.queue.map fun q => if q.id = cmd then { q with lost := l :: q.lost } else q }]

/-- A back-invalidate times out. -/
def snoopTimeout (l : Nat) : Act := fun s =>
  let hs := s.port.heldAccesses.filter (·.line == l)
  if hs = [] then []
  else seqA [act [.inc Fld.cxlErrCntTimeouts 1, .port fun p => { p with
        snoopLate := p.snoopLate ++ [l]
        heldAccesses := p.heldAccesses.filter (·.line != l) }],
    forA hs (fun h => match h.host with
      | some off => fun t => [.out (.memData (t.openLine (t.hdmBase + off)) true), .draw]
      | none => if h.agent then act [.port fun p => { p with lostLines := p.lostLines.filter (· != l) ++ [l] }] else loseLine l h.core h.cmd),
    retryHeld] s

/-! ## Coalescing and IDE (R292, R298) -/

/-- The coalescing interval of a ring ends: one further message for the events that were held. -/
def coalesceEnd (r : Nat) : Act := fun s =>
  let c := tabGet (fun _ => {}) s.port.coalesce r
  if !c.held ∨ s.ticks < c.until_ then []
  else [.port fun p => { p with coalesce := tabSet (fun _ => {}) p.coalesce r ⟨s.ticks + s.fget Fld.cxlIrqCoalUsec * 100, false⟩ },
    .msix (16 + r)]

/-- An IDE stream fails its integrity check. -/
def ideFails : IdeStream → Act
  | .io => fun s =>
    if !s.linkUp ∨ !s.flag Fld.cxlStatusIdeIo then []
    else seqA [act [.fld Fld.cxlStatusIdeIo 0, .port fun p => { p with ioInsecure := true }], raise Vec.port,
      faultRecord 0x0D 0 0xFF 0 2 0 0 false] s
  | .cachemem => fun s =>
    if !s.flag Fld.cxlStatusIdeCm then [] else seqA [act [.fld Fld.cxlStatusIdeCm 0], raise Vec.port, linkDown 3] s

/-- Field that reports an IDE stream. -/
def ideFld : IdeStream → Fld
  | .io => Fld.cxlStatusIdeIo
  | .cachemem => Fld.cxlStatusIdeCm

/-- An IDE_KM message in the DOE session: keys that take force make the stream secure. -/
def ideKeys (st : IdeStream) (sets : Bool) : Act := fun s =>
  if !s.linkUp ∨ !sets ∨ !s.sec.sessions.contains .doe then []
  else seqA [if s.flag (ideFld st) then nothing else raise Vec.port, act [.fld (ideFld st) 1],
    match st with
    | .io => seqA [act [.port fun p => { p with ioInsecure := false }], sendPending]
    | .cachemem => nothing] s

/-! ## The commands -/

/-- PERST_DEASSERT (R282). -/
def execPerstDeassert (s : State) : Host.Outcome State Fault Refusal :=
  done (fun s => [.port fun p => { p with perst := false }] ++
    if s.power.hubReady ∧ s.port.perst then [.fld (Fld.clkDomState 11) 2, .fld Fld.cxlLinkState 1] else []) s

/-- CXL_LINK_UP (R282, R283, R284). -/
def execCxlLinkUp (rate width : Nat) (cacheOn : Bool) (s : State) : Host.Outcome State Fault Refusal :=
  done (linkComesUp rate width cacheOn) s

/-- CONFIG_REQUEST (R280, R282, R289, R292). -/
def execConfigRequest (request : ConfigRequest) (s : State) : Host.Outcome State Fault Refusal := done (configAnswer request) s

/-- CXL_LINK_DOWN (R283). -/
def execCxlLinkDown (s : State) : Host.Outcome State Fault Refusal := done (linkDown 1) s

/-- FUNCTION_LEVEL_RESET (R283, R296). -/
def execFunctionLevelReset (s : State) : Host.Outcome State Fault Refusal := done (whenA State.linkUp functionReset) s

/-- HOT_RESET (R283). -/
def execHotReset (s : State) : Host.Outcome State Fault Refusal := done (whenA State.linkUp functionReset) s

/-- SNOOP_INVALIDATION (R284). -/
def execSnoopInvalidation (line : WatchLine) (s : State) : Host.Outcome State Fault Refusal :=
  done (fun s => if s.linkUp ∧ s.watches line then seqA [act [.inc Fld.cxlCntSnoops 1], askLine line] s else []) s

/-- WATCHED_LINE_DATA (R284, R287). -/
def execWatchedLineData (line : WatchLine) (value : BitVec 32) (s : State) : Host.Outcome State Fault Refusal :=
  done (readEnds (WatchRead line) (.ok (leBytes 4 value.toNat))) s

/-- POLL_TICK (R286, Table 12.4). -/
def execPollTick (tails : List (RingId × HostResult)) (s : State) : Host.Outcome State Fault Refusal := done (pollTails tails) s

/-- HOST_READ_COMPLETION (R289, R405). -/
def execHostReadCompletion (what : HostRead) (result : HostResult) (s : State) : Host.Outcome State Fault Refusal :=
  done (readEnds what result) s

/-- CXL_CACHE_READ_TIMEOUT (R289, R405). -/
def execCxlCacheReadTimeout (what : HostRead) (s : State) : Host.Outcome State Fault Refusal := done (readTimeout false what) s

/-- CXL_IO_READ_TIMEOUT (R289, R405). -/
def execCxlIoReadTimeout (what : HostRead) (s : State) : Host.Outcome State Fault Refusal := done (readTimeout true what) s

/-- CXL_CACHE_ENABLE (R284, R286). -/
def execCxlCacheEnable (s : State) : Host.Outcome State Fault Refusal := done (whenA State.linkUp Sys2Proof.Machine.cacheOn) s

/-- CXL_CACHE_DISABLE (R286). -/
def execCxlCacheDisable (s : State) : Host.Outcome State Fault Refusal := done (whenA State.linkUp cacheOff) s

/-- HDM_DECODER_COMMIT (R290). -/
def execHdmDecoderCommit (ways granularity : Nat) (backInvalidate memEnable : Bool) (s : State) : Host.Outcome State Fault Refusal :=
  done (hdmCommit ways granularity backInvalidate memEnable) s

/-- CXL_MEM_READ (R184, R205, R291, R335). -/
def execCxlMemRead (offset : BitVec 38) (s : State) : Host.Outcome State Fault Refusal := done (hdmRead offset.toNat) s

/-- CXL_MEM_WRITE (R183, R205, R291, R335). -/
def execCxlMemWrite (offset : BitVec 38) (data : BitVec 512) (enables : BitVec 64) (s : State) : Host.Outcome State Fault Refusal :=
  done (hdmWrite offset.toNat data enables) s

/-- BI_SNOOP_RESPONSE (R291, R405). -/
def execBiSnoopResponse (line : Nat) (s : State) : Host.Outcome State Fault Refusal := done (snoopAnswer line) s

/-- BACK_INVALIDATE_TIMEOUT (R291, R405). -/
def execBackInvalidateTimeout (line : Nat) (s : State) : Host.Outcome State Fault Refusal := done (snoopTimeout line) s

/-- IRQ_COALESCE_EXPIRY (R292). -/
def execIrqCoalesceExpiry (ring : RingId) (s : State) : Host.Outcome State Fault Refusal := done (coalesceEnd ring) s

/-- IDE_INTEGRITY_FAILURE (R298). -/
def execIdeIntegrityFailure (stream : IdeStream) (s : State) : Host.Outcome State Fault Refusal := done (ideFails stream) s

/-- IDE_KM_MESSAGE (R298). -/
def execIdeKmMessage (stream : IdeStream) (setsKeys : Bool) (s : State) : Host.Outcome State Fault Refusal :=
  done (ideKeys stream setsKeys) s

end Sys2Proof.Machine
end

