-- ==== Sys2Proof/Machine/Image.lean ====
section
/-! DEFINITION. The imposition image: its layout, and the checks of the loader in the order of Table 2.24.
R20 to R35, R361. A failed check answers the cause of Table 2.21 and the fail_offset. -/

namespace Sys2Proof.Machine

open Sys2Proof

/-- Rejection causes (Table 2.21). -/
def Cause.badMagic : Nat := 0x01
def Cause.formatVersion : Nat := 0x02
def Cause.size : Nat := 0x03
def Cause.crc : Nat := 0x04
def Cause.sigFail : Nat := 0x05
def Cause.sigRequired : Nat := 0x06
def Cause.target : Nat := 0x07
def Cause.sectionTable : Nat := 0x08
def Cause.unknownSection : Nat := 0x09
def Cause.sectionVersion : Nat := 0x0A
def Cause.duplicateSection : Nat := 0x0B
def Cause.missingSection : Nat := 0x0C
def Cause.field : Nat := 0x0D
def Cause.placement : Nat := 0x0E
def Cause.wheel : Nat := 0x0F
def Cause.laneCount : Nat := 0x10
def Cause.seed : Nat := 0x11
def Cause.bankConflict : Nat := 0x12
def Cause.linkConflict : Nat := 0x13
def Cause.linkProtection : Nat := 0x14
def Cause.window : Nat := 0x15
def Cause.contextState : Nat := 0x16
def Cause.inUse : Nat := 0x17
def Cause.keySlot : Nat := 0x18

/-- A check that passes with a value or fails with (cause, fail_offset). -/
abbrev Check (α : Type) := Except (Nat × Nat) α

/-- A condition of a check. -/
def needImg (c : Bool) (cause off : Nat) : Check Unit := if c then .ok () else .error (cause, off)

/-- Checks on each element in order. -/
def eachOk {α : Type} (xs : List α) (f : α → Check Unit) : Check Unit :=
  match xs with
  | [] => .ok ()
  | x :: t => match f x with
    | .error e => .error e
    | .ok () => eachOk t f

/-- A rsvd field of `n` bytes is zero (R20). -/
def rsvdZero (bs : Bytes) (off n : Nat) : Check Unit := needImg (fieldAt bs off n == 0) Cause.field off

/-- A field lies within its stated range (R25). -/
def inRange (bs : Bytes) (off n lo hi : Nat) : Check Unit :=
  needImg (lo ≤ fieldAt bs off n && fieldAt bs off n ≤ hi) Cause.field off

/-- A section of a known type and version: its type, place, length and the offset of its table entry. -/
structure Sect where
  ty : Nat
  off : Nat
  len : Nat
  entry : Nat
  deriving DecidableEq, Repr

/-- A section is at least as long as the body its counts imply (R25). -/
def fits (sec : Sect) (body : Nat) : Check Unit := needImg (body ≤ sec.len) Cause.field (sec.entry + 0x0C)

/-! ## Steps 1 to 5 -/

/-- flags.signed. -/
def imgSigned (b : Bytes) : Bool := bitOf (fieldAt b 0x0E 2) 0
/-- flags.confidential. -/
def imgConfidential (b : Bytes) : Bool := bitOf (fieldAt b 0x0E 2) 1
/-- signature_offset. -/
def imgSigOff (b : Bytes) : Nat := fieldAt b 0x14 4
/-- C: the end of the bytes that the CRC covers (R22). -/
def imgCovered (b : Bytes) : Nat := if imgSigned b then imgSigOff b else fieldAt b 0x08 4

/-- Step 1: magic, header_size, fmt_major. -/
def imgStep1 (b : Bytes) : Check Unit := do
  needImg (fieldAt b 0 4 == 0x4F504D49) Cause.badMagic 0
  needImg (fieldAt b 0x06 2 == 64) Cause.field 0x06
  needImg (fieldAt b 0x04 1 == 3) Cause.formatVersion 0x04

/-- Step 2: sizes and rsvd fields of the header. -/
def imgStep2 (b : Bytes) (len : Nat) : Check Unit := do
  let size := fieldAt b 0x08 4
  let n := fieldAt b 0x0C 2
  let so := imgSigOff b
  needImg (size == len) Cause.size 0x08
  inRange b 0x0C 2 1 64
  needImg (fieldAt b 0x10 4 == 64) Cause.field 0x10
  needImg (bitsOf (fieldAt b 0x0E 2) 2 14 == 0) Cause.field 0x0E
  rsvdZero b 0x1B 1
  rsvdZero b 0x28 20
  if imgSigned b then
    needImg (so % 8 == 0 && decide (64 + 16 * n ≤ so) && decide (so + 104 ≤ size)) Cause.size 0x14
    let lms := fieldAt b (so + 4) 4
    needImg (1 ≤ lms && lms ≤ 16384) Cause.size (so + 4)
    needImg (size == so + 104 + lms) Cause.size 0x08
  else
    needImg (so == 0) Cause.size 0x14

/-- Step 3: the CRC over the covered bytes, with its own field read as zero (R21, R22). -/
def imgStep3 (b : Bytes) : Check Unit :=
  needImg ((crc32c ((putAt b 0x3C (zeros 4)).take (imgCovered b))).toNat == fieldAt b 0x3C 4) Cause.crc 0x3C

/-- Step 4: the signature rules of R34, then the confidential-mode policy of R361. -/
def imgStep4 (s : State) (b : Bytes) : Check Unit := do
  let so := imgSigOff b
  let conf := imgConfidential b
  if imgSigned b then
    let slot := fieldAt b (so + 2) 1
    needImg (fieldAt b so 2 == 1) Cause.field so
    needImg (fieldAt b (so + 3) 1 == 0) Cause.field (so + 3)
    needImg (slot ≤ 3) Cause.field (so + 2)
    needImg (s.flag (Fld.secImpkeyEnrolled slot)) Cause.keySlot (so + 2)
    let key := s.fget (Fld.secImpkeyId slot)
    let digest := Config.sha384 (b.take so)
    needImg (Config.ecdsaOk key digest (slice b (so + 8) 96) &&
      Config.lmsOk key digest (slice b (so + 0x68) (fieldAt b (so + 4) 4))) Cause.sigFail 0
  else
    needImg (!s.flag Fld.impPolicyRequireSigned && !conf) Cause.sigRequired 0x0E
  needImg (!(s.fget Fld.secProtConfPolicy == 0 && conf)) Cause.field 0x0E
  needImg (!(s.fget Fld.secProtConfPolicy == 2 && !conf)) Cause.field 0x0E

/-- Step 5: target_part and min_benok_minor against HUB_ID. -/
def imgStep5 (s : State) (b : Bytes) : Check Unit := do
  let part := fieldAt b 0x18 2
  needImg (part == s.fget Fld.hubIdPart || (part == 0xFFFF && s.fget Fld.hubIdBenokMajor == 3)) Cause.target 0x18
  needImg (fieldAt b 0x1A 1 ≤ s.fget Fld.hubIdBenokMinor) Cause.target 0x1A

/-! ## Step 6: the section table -/

/-- A section type this device knows (Table 2.3). -/
def sectKnown (ty : Nat) : Bool := 1 ≤ ty && ty ≤ 12

/-- One section table entry (R23, R24, R35). `prev` is the end of what came before, `seen` the types listed. A section whose end lies too
far is named by its offset field, and all rows of an entry are checked before the next entry (log entry 49). -/
def imgEntry (s : State) (b : Bytes) (i prev : Nat) (seen : List Nat) : Check (Option Sect) := do
  let e := 64 + 16 * i
  let ty := fieldAt b e 2
  let flags := fieldAt b (e + 4) 2
  let off := fieldAt b (e + 8) 4
  let len := fieldAt b (e + 0x0C) 4
  needImg (ty != 0) Cause.sectionTable e
  needImg (flags / 2 == 0) Cause.field (e + 4)
  rsvdZero b (e + 6) 2
  needImg (4 ≤ len && len ≤ 4194048) Cause.sectionTable (e + 0x0C)
  needImg (off % 8 == 0 && decide (prev ≤ off) && decide (off + len ≤ imgCovered b)) Cause.sectionTable (e + 8)
  let skip := bitOf flags 0
  if sectKnown ty then
    needImg (fieldAt b (e + 2) 1 == 1 || skip) Cause.sectionVersion (e + 2)
  else
    needImg skip (if s.fget Fld.impCapFmtMinorMax < fieldAt b 0x05 1 then Cause.formatVersion else Cause.unknownSection) e
  needImg (!seen.contains ty) Cause.duplicateSection e
  pure (if sectKnown ty && fieldAt b (e + 2) 1 == 1 then some ⟨ty, off, len, e⟩ else none)

/-- The entries from `i` on; answers the sections to interpret and the end of the last section. -/
def imgEntries (s : State) (b : Bytes) : Nat → Nat → Nat → List Nat → Check (List Sect × Nat)
  | 0, _, prev, _ => .ok ([], prev)
  | k + 1, i, prev, seen => do
    let e := 64 + 16 * i
    let r ← imgEntry s b i prev seen
    let (t, last) ← imgEntries s b k (i + 1) (fieldAt b (e + 8) 4 + fieldAt b (e + 0x0C) 4) (fieldAt b e 2 :: seen)
    pure (r.toList ++ t, last)

/-- Step 6: every entry, the required types, and the relation of R22. A type listed by a skipped entry alone is absent (log entry 49). -/
def imgStep6 (s : State) (b : Bytes) : Check (List Sect) := do
  let n := fieldAt b 0x0C 2
  let (secs, last) ← imgEntries s b n 0 (64 + 16 * n) []
  needImg ([1, 2, 3].all fun t => secs.any (·.ty == t)) Cause.missingSection 0
  if imgSigned b then needImg (imgSigOff b == alignUp last 8) Cause.size 0x14
  else needImg (fieldAt b 0x08 4 == last) Cause.size 0x08
  pure secs

/-! ## Step 7: the sections -/

/-- The section of a type. -/
def sectOf (secs : List Sect) (ty : Nat) : Option Sect := secs.find? (·.ty == ty)

/-- Offset of element `i` of an array of `size`-byte elements after a header of `head` bytes. -/
def elemAt (sec : Sect) (head size i : Nat) : Nat := sec.off + head + size * i

/-- The number of elements a section can hold, at most `count`. -/
def elemCount (sec : Sect) (head size count : Nat) : Nat := min count ((sec.len - head) / size)

/-- CORE_GROUPS entries as written, without their wheel patterns (Table 2.4). -/
def readGroups (b : Bytes) (sec : Sect) : List Group :=
  (List.range (elemCount sec 4 8 (fieldAt b sec.off 2))).map fun g =>
    let a := elemAt sec 4 8 g
    ⟨fieldAt b (a + 4) 1, fieldAt b a 2, fieldAt b (a + 2) 2, fieldAt b (a + 5) 1, 0⟩

/-- POOL_OWNERS entries (Table 2.8). -/
def readPools (b : Bytes) (sec : Sect) : List PoolEntry :=
  (List.range (elemCount sec 4 4 (fieldAt b sec.off 2))).map fun i =>
    let a := elemAt sec 4 4 i
    ⟨fieldAt b a 1, fieldAt b (a + 1) 1, fieldAt b (a + 2) 2⟩

/-- LANE_ROLES entries (Table 2.9). -/
def readLanes (b : Bytes) (sec : Sect) : List LaneRole :=
  (List.range (elemCount sec 4 12 (fieldAt b sec.off 4))).map fun i =>
    let a := elemAt sec 4 12 i
    ⟨fieldAt b a 2, fieldAt b (a + 2) 1, fieldAt b (a + 4) 2, fieldAt b (a + 8) 4⟩

/-- LINKS entries (Table 2.15). -/
def readLinks (b : Bytes) (sec : Sect) : List LinkEntry :=
  (List.range (elemCount sec 4 4 (fieldAt b sec.off 1))).map fun i =>
    let a := elemAt sec 4 4 i
    ⟨fieldAt b a 1, fieldAt b (a + 1) 1, fieldAt b (a + 2) 1⟩

/-- WINDOWS entries with their peer lists (Table 2.16), owned by context `c`. -/
def readWindows (b : Bytes) (c : Nat) (sec : Sect) : List Window :=
  (List.range (elemCount sec 4 32 (fieldAt b sec.off 2))).map fun i =>
    let a := elemAt sec 4 32 i
    ⟨c, fieldAt b a 2, fieldAt b (a + 2) 1, fieldAt b (a + 8) 8, fieldAt b (a + 16) 8,
      (List.range (fieldAt b (a + 4) 2)).map fun k => fieldAt b (sec.off + fieldAt b (a + 24) 4 + 2 * k) 2⟩

/-- The core belongs to one of the groups. -/
def inGroups (gs : List Group) (core : Nat) : Bool := gs.any fun g => g.first ≤ core && core < g.first + g.count

/-- A group's cores lie in granted clusters (R26). -/
def groupGranted (map : Nat) (g : Group) : Bool :=
  (List.range 64).all fun k => bitOf map k || !rangesMeet (k * 32) 32 g.first g.count

/-- What the checks of step 7 read ahead from other sections. -/
structure Ahead where
  groups : List Group
  map : Nat
  grant : Nat
  refit : Bool
  pools : List PoolEntry
  windows : List Window
  deriving DecidableEq, Repr

/-- CORE_GROUPS (Table 2.4, R26). -/
def chkGroups (b : Bytes) (sec : Sect) (ah : Ahead) : Check Unit := do
  inRange b sec.off 2 1 64
  rsvdZero b (sec.off + 2) 2
  fits sec (4 + 8 * fieldAt b sec.off 2)
  let gs := ah.groups.zipIdx
  eachOk gs fun (g, i) => do
    let a := elemAt sec 4 8 i
    needImg (g.first ≤ 2047) Cause.field a
    needImg (1 ≤ g.count && decide (g.first + g.count ≤ 2048)) Cause.field (a + 2)
    needImg (g.id ≤ 63 && !(ah.groups.take i).any (·.id == g.id)) Cause.field (a + 4)
    inRange b (a + 5) 1 0 2
    rsvdZero b (a + 6) 2
  eachOk gs fun (g, i) =>
    needImg (groupGranted ah.map g && !(ah.groups.take i).any fun o => rangesMeet g.first g.count o.first o.count)
      Cause.placement (elemAt sec 4 8 i)

/-- PLACEMENT (Table 2.5, R28). -/
def chkPlacement (s : State) (b : Bytes) (sec : Sect) (ah : Ahead) : Check Unit := do
  fits sec 16
  needImg (ah.map != 0) Cause.field sec.off
  needImg (fieldAt b (sec.off + 8) 4 / 2 == 0) Cause.field (sec.off + 8)
  rsvdZero b (sec.off + 12) 4
  needImg (ah.refit || (ah.map &&& s.fget Fld.fltOutClusters) == 0) Cause.placement sec.off
  needImg (ah.grant != 0) Cause.placement sec.off

/-- The engine codes of a wheel pattern, slot 0 first (Table 2.7). -/
def wheelSlots (p : Nat) : List Nat := (List.range 16).map fun i => bitsOf p (4 * i) 4

/-- A group has a window on one of its galleys (R29). -/
def windowTargets (ws : List Window) (g : Group) : Bool :=
  ws.any fun w => rangesMeet w.base w.size (galleyOf g.first) (g.count * Config.galleyBytes)

/-- WHEEL (Tables 2.6 and 2.7, R29). -/
def chkWheel (b : Bytes) (sec : Sect) (ah : Ahead) : Check Unit := do
  let pc := fieldAt b sec.off 1
  let gn := ah.groups.length
  let gp := sec.off + 4 + 8 * pc
  let body := alignUp (4 + 8 * pc + gn) 4
  inRange b sec.off 1 1 8
  rsvdZero b (sec.off + 1) 3
  fits sec body
  eachOk (List.range pc) fun p =>
    let slots := wheelSlots (fieldAt b (elemAt sec 4 8 p) 8)
    needImg (slots.all (· ≤ 8) && (List.range 7).all slots.contains) Cause.wheel (elemAt sec 4 8 p)
  eachOk (List.range gn) fun g => needImg (fieldAt b (gp + g) 1 < pc) Cause.field (gp + g)
  rsvdZero b (gp + gn) (body - (4 + 8 * pc + gn))
  eachOk ah.groups.zipIdx fun (g, i) =>
    let p := fieldAt b (gp + i) 1
    needImg (!windowTargets ah.windows g || (wheelSlots (fieldAt b (elemAt sec 4 8 p) 8)).contains 7) Cause.wheel
      (elemAt sec 4 8 p)

/-- POOL_OWNERS (Table 2.8, R30). The die of a bank is judged by the grant that R28 leaves (log entry 49). -/
def chkPools (b : Bytes) (sec : Sect) (ah : Ahead) : Check Unit := do
  inRange b sec.off 2 0 256
  rsvdZero b (sec.off + 2) 2
  fits sec (4 + 4 * fieldAt b sec.off 2)
  eachOk ah.pools.zipIdx fun (p, i) => do
    let a := elemAt sec 4 4 i
    inRange b (a + 1) 1 0 2
    needImg (p.owner ≤ 2047 || p.owner == 0xFFFE) Cause.field (a + 2)
    needImg (bitsOf ah.grant (p.bank / 64 * 16) 16 != 0) Cause.placement a
    needImg (p.owner == 0xFFFE || inGroups ah.groups p.owner) Cause.placement (a + 2)
    needImg (!(ah.pools.take i).any (·.bank == p.bank)) Cause.field a

/-- LANE_ROLES (Table 2.9, R31). -/
def chkLanes (b : Bytes) (sec : Sect) (ah : Ahead) : Check Unit := do
  inRange b sec.off 4 0 8192
  fits sec (4 + 12 * fieldAt b sec.off 4)
  let ls := readLanes b sec
  eachOk ls.zipIdx fun (l, i) => do
    let a := elemAt sec 4 12 i
    let before := ls.take i
    inRange b (a + 2) 1 0 63
    inRange b (a + 3) 1 1 1
    rsvdZero b (a + 6) 2
    needImg ((before.filter (·.core == l.core)).length < 4) Cause.laneCount a
    needImg (inGroups ah.groups l.core) Cause.placement a
    needImg (!before.any fun o => o.core == l.core && o.lane == l.lane) Cause.field a
    needImg (l.seed != 0 && !before.any fun o => o.group == l.group && o.seed == l.seed) Cause.seed (a + 8)

/-- COMPRESSION (Table 2.10). -/
def chkComp (b : Bytes) (sec : Sect) : Check Unit := do
  fits sec 8
  needImg (fieldAt b sec.off 1 < 16) Cause.field sec.off
  inRange b (sec.off + 1) 1 0 1
  inRange b (sec.off + 2) 2 0 500
  inRange b (sec.off + 4) 1 12 20
  rsvdZero b (sec.off + 5) 3

/-- SPARSITY (Table 2.11). -/
def chkSparse (b : Bytes) (sec : Sect) : Check Unit := do
  fits sec 16
  needImg (fieldAt b sec.off 1 < 32) Cause.field sec.off
  rsvdZero b (sec.off + 1) 1
  inRange b (sec.off + 2) 2 0 1024
  eachOk (List.range 5) fun i => inRange b (sec.off + 4 + i) 1 1 100
  rsvdZero b (sec.off + 9) 7

/-- KV (Table 2.12). -/
def chkKv (b : Bytes) (sec : Sect) : Check Unit := do
  fits sec 8
  inRange b sec.off 1 0 2
  rsvdZero b (sec.off + 1) 7

/-- PERIOD (Table 2.13). -/
def chkPeriod (b : Bytes) (sec : Sect) : Check Unit := do
  fits sec 16
  inRange b sec.off 4 1000 200000
  inRange b (sec.off + 4) 2 0 1000
  inRange b (sec.off + 6) 2 1 16384
  inRange b (sec.off + 8) 2 1 8192
  rsvdZero b (sec.off + 0x0A) 6

/-- NUMERICS (Table 2.14). -/
def chkNumerics (b : Bytes) (sec : Sect) : Check Unit := do
  fits sec 8
  inRange b sec.off 2 0 1023
  inRange b (sec.off + 2) 1 0 3
  rsvdZero b (sec.off + 3) 1
  inRange b (sec.off + 4) 2 0 256
  rsvdZero b (sec.off + 6) 2
  fits sec (8 + 4 * fieldAt b (sec.off + 4) 2)
  eachOk (List.range (fieldAt b (sec.off + 4) 2)) fun r =>
    let a := elemAt sec 8 4 r
    needImg (fieldAt b a 2 ≤ fieldAt b (a + 2) 2) Cause.field (a + 2)

/-- LINKS (Table 2.15, R32). -/
def chkLinks (s : State) (b : Bytes) (sec : Sect) : Check Unit := do
  inRange b sec.off 1 1 12
  rsvdZero b (sec.off + 1) 3
  fits sec (4 + 4 * fieldAt b sec.off 1)
  let ls := readLinks b sec
  eachOk ls.zipIdx fun (l, i) => do
    let a := elemAt sec 4 4 i
    inRange b a 1 0 11
    needImg (!(ls.take i).any (·.link == l.link)) Cause.field a
    inRange b (a + 1) 1 1 2
    inRange b (a + 2) 1 0 1
    rsvdZero b (a + 3) 1
    needImg (l.protection == 0 || s.flag Fld.secProtRackTrust) Cause.linkProtection (a + 2)

/-- A window lies wholly inside galleys of the context's cores, or inside pool banks it owns (R33). -/
def windowInside (gs : List Group) (ps : List PoolEntry) (w : Window) : Bool :=
  let last := w.base + w.size - 1
  if Config.galleyBase ≤ w.base ∧ last < Config.galleyEnd then
    let lo := (w.base - Config.galleyBase) / Config.galleyBytes
    let hi := (last - Config.galleyBase) / Config.galleyBytes
    (List.range (hi - lo + 1)).all fun i => inGroups gs (lo + i)
  else if Config.poolBase ≤ w.base ∧ last < Config.poolEnd then
    let lo := (w.base - Config.poolBase) / Config.bankBytes
    let hi := (last - Config.poolBase) / Config.bankBytes
    (List.range (hi - lo + 1)).all fun i => ps.any (·.bank == lo + i)
  else false

/-- WINDOWS (Table 2.16, R33). A peer list that reaches into the window entries is refused as one outside the section (log entry 49). -/
def chkWindows (b : Bytes) (sec : Sect) (ah : Ahead) : Check Unit := do
  inRange b sec.off 2 0 256
  rsvdZero b (sec.off + 2) 2
  fits sec (4 + 32 * fieldAt b sec.off 2)
  eachOk ah.windows.zipIdx fun (w, i) => do
    let a := elemAt sec 4 32 i
    let peers := fieldAt b (a + 4) 2
    let list := fieldAt b (a + 24) 4
    needImg (!(ah.windows.take i).any (·.id == w.id)) Cause.field a
    inRange b (a + 2) 1 1 3
    rsvdZero b (a + 3) 1
    inRange b (a + 4) 2 1 512
    rsvdZero b (a + 6) 2
    needImg (w.base % 64 == 0) Cause.field (a + 8)
    needImg (w.size % 64 == 0 && 64 ≤ w.size && w.size ≤ 268435456) Cause.field (a + 16)
    needImg (list % 2 == 0) Cause.field (a + 24)
    needImg (decide (4 + 32 * ah.windows.length ≤ list) && decide (list + 2 * peers ≤ sec.len)) Cause.window (a + 24)
    eachOk (List.range peers) fun k =>
      let p := sec.off + list + 2 * k
      needImg (fieldAt b p 2 ≤ 511 && !(w.peers.take k).contains (fieldAt b p 2)) Cause.field p
    needImg (windowInside ah.groups ah.pools w) Cause.window (a + 8)
    needImg (!(ah.windows.take i).any fun o => rangesMeet w.base w.size o.base o.size) Cause.window (a + 8)

/-- Step 7 for one section. -/
def chkSect (s : State) (b : Bytes) (ah : Ahead) (sec : Sect) : Check Unit :=
  match sec.ty with
  | 1 => chkGroups b sec ah
  | 2 => chkPlacement s b sec ah
  | 3 => chkWheel b sec ah
  | 4 => chkPools b sec ah
  | 5 => chkLanes b sec ah
  | 6 => chkComp b sec
  | 7 => chkSparse b sec
  | 8 => chkKv b sec
  | 9 => chkPeriod b sec
  | 10 => chkLinks s b sec
  | 11 => chkWindows b sec ah
  | 12 => chkNumerics b sec
  | _ => .ok ()

/-- The values that checks of one section needImg from others. -/
def lookAhead (s : State) (b : Bytes) (c : Nat) (secs : List Sect) : Ahead :=
  let po := ((sectOf secs 2).map (·.off)).getD 0
  let map := fieldAt b po 8
  let refit := bitOf (fieldAt b (po + 8) 4) 0
  { groups := ((sectOf secs 1).map (readGroups b)).getD []
    map := map
    grant := if refit then map &&& ((2 ^ 64 - 1) ^^^ s.fget Fld.fltOutClusters) else map
    refit := refit
    pools := ((sectOf secs 4).map (readPools b)).getD []
    windows := ((sectOf secs 11).map (readWindows b c)).getD [] }

/-- The settings of an image whose sections have passed (Table 2.3 gives the values of absent sections). -/
def buildImage (b : Bytes) (secs : List Sect) (ah : Ahead) : Image :=
  let pat (i : Nat) : Nat := match sectOf secs 3 with
    | none => 0
    | some w => fieldAt b (w.off + 4 + 8 * fieldAt b w.off 1 + i) 1
  { groups := ah.groups.zipIdx.map fun (g, i) => { g with pattern := pat i }
    clusterMap := ah.grant
    refitOk := ah.refit
    patterns := match sectOf secs 3 with
      | none => []
      | some w => (List.range (fieldAt b w.off 1)).map fun p => fieldAt b (elemAt w 4 8 p) 8
    pools := ah.pools
    lanes := ((sectOf secs 5).map (readLanes b)).getD []
    comp := match sectOf secs 6 with
      | none => {}
      | some x => ⟨fieldAt b x.off 1, fieldAt b (x.off + 1) 1 == 1, fieldAt b (x.off + 2) 2, fieldAt b (x.off + 4) 1⟩
    sparsity := match sectOf secs 7 with
      | none => {}
      | some x => ⟨fieldAt b x.off 1, fieldAt b (x.off + 2) 2, fieldAt b (x.off + 4) 1, fieldAt b (x.off + 5) 1,
          fieldAt b (x.off + 6) 1, fieldAt b (x.off + 7) 1, fieldAt b (x.off + 8) 1⟩
    pageCode := match sectOf secs 8 with
      | none => 1
      | some x => fieldAt b x.off 1
    period := (sectOf secs 9).map fun x => ⟨fieldAt b x.off 4, fieldAt b (x.off + 4) 2, fieldAt b (x.off + 6) 2, fieldAt b (x.off + 8) 2⟩
    links := ((sectOf secs 10).map (readLinks b)).getD []
    windows := ah.windows
    numerics := match sectOf secs 12 with
      | none => {}
      | some x => ⟨fieldAt b x.off 2, fieldAt b (x.off + 2) 1,
          (List.range (fieldAt b (x.off + 4) 2)).map fun r => (fieldAt b (elemAt x 8 4 r) 2, fieldAt b (elemAt x 8 4 r + 2) 2)⟩
    confidential := imgConfidential b
    digest := Config.sha384 b }

/-! ## Step 8 and the end of step 7 -/

/-- A context slot holds a resident image other than `c` (R30, R32). -/
def State.others (s : State) (c : Nat) : List Nat := (List.range 16).filter fun o => o != c && s.ctxState o != 0

/-- Banks that another context holds, by its image in force or by an accepted replacement (R30, R39). -/
def State.bankHeld (s : State) (c bank : Nat) : Bool :=
  (s.others c).any fun o =>
    (((s.ctx o).image.map (·.pools)).getD [] ++ ((s.ctx o).held.map (·.pools)).getD []).any (·.bank == bank)

/-- A link that another context lists with another role or protection (R32). -/
def State.linkClash (s : State) (c : Nat) (l : LinkEntry) : Bool :=
  (s.others c).any fun o =>
    (((s.ctx o).image.map (·.links)).getD [] ++ ((s.ctx o).held.map (·.links)).getD []).any fun e =>
      e.link == l.link && (e.role != l.role || e.protection != l.protection)

/-- Some request slot of a context is in use (R39). -/
def State.slotsInUse (s : State) (c : Nat) : Bool := s.reqs.any fun (_, r) => r.state != 0 && r.ctx == c

/-- R39 IN_USE: a replacement that changes the KV page size, or adds or removes PERIOD, while a slot is in use. -/
def chkInUse (s : State) (c : Nat) (secs : List Sect) (img : Image) : Check Unit :=
  let old := s.image c
  if !s.slotsInUse c then .ok ()
  else if img.pageCode ≠ old.pageCode then
    .error (Cause.inUse, match sectOf secs 8 with | some x => x.off | none => 0)
  else needImg (img.period.isSome == old.period.isSome) Cause.inUse 0

/-- A bank entry is free of other contexts and of march failures (R30, R178). -/
def chkBank (s : State) (c : Nat) (x : Sect) : PoolEntry × Nat → Check Unit := fun (p, i) =>
  needImg (!s.bankHeld c p.bank && !bitOf (s.fget (Fld.poolMarchFailBanks (p.bank / 64))) (p.bank % 64))
    Cause.bankConflict (elemAt x 4 4 i)

/-- A link entry agrees with every other resident context (R32). -/
def chkLink (s : State) (c : Nat) (x : Sect) : LinkEntry × Nat → Check Unit := fun (l, i) =>
  needImg (!s.linkClash c l) Cause.linkConflict (elemAt x 4 4 i)

/-- Step 8: banks, then links (R30, R32, R178). -/
def imgStep8 (s : State) (c : Nat) (secs : List Sect) (img : Image) : Check Unit := do
  match sectOf secs 4 with
  | none => pure ()
  | some x => eachOk img.pools.zipIdx (chkBank s c x)
  match sectOf secs 10 with
  | none => pure ()
  | some x => eachOk img.links.zipIdx (chkLink s c x)

/-- Steps 1 to 8 of R38 on the loader's copy, for slot `c`. -/
def checkImage (s : State) (c len : Nat) (replace : Bool) (b : Bytes) : Check Image := do
  imgStep1 b
  imgStep2 b len
  imgStep3 b
  imgStep4 s b
  imgStep5 s b
  let secs ← imgStep6 s b
  let ah := lookAhead s b c secs
  eachOk secs (chkSect s b ah)
  let img := buildImage b secs ah
  if replace then chkInUse s c secs img
  imgStep8 s c secs img
  pure img

end Sys2Proof.Machine
end

