-- ==== Sys2Proof/Machine/Spdm.lean ====
section
/-! DEFINITION. The SPDM responder, colophons and LMS state. R340 to R351. Log entries 45 and 47. -/

namespace Sys2Proof.Machine

open Sys2Proof

/-- A measurement entry (Table 14.6). -/
def Measure.bytes (m : Measure) : Bytes := leBytes 1 m.index ++ leBytes 1 m.ctx ++ zeros 2 ++ digestBytes m.digest

/-! ## Colophons (R347, Table 14.6) -/

/-- Colophon flags. -/
def State.colophonFlags (s : State) : Nat :=
  b2n s.confidential + 2 * b2n s.debug + 4 * s.fget Fld.secStatusDebugUsed + 8 * b2n s.anyStaged + 16 * b2n s.basic +
  32 * s.fget Fld.secProtRackTrust + 64 * b2n (s.fget Fld.secProtConfPolicy == 2)

/-- The bytes of a colophon before its signatures, for a nonce and the leaf that signs. -/
def State.colophonBody (s : State) (nonce : BitVec 256) : Bytes :=
  let ms := s.measures
  leBytes 4 0x4F4C4F43 ++ [1, 0] ++ leBytes 2 s.colophonFlags ++ digestBytes Config.fingerprint ++ leBytes 32 nonce.toNat ++
  leBytes 4 s.sec.bootCount ++ leBytes 4 (s.fget Fld.secResetgenCount) ++ leBytes 1 (s.fget Fld.secStatusLastReset) ++
  leBytes 1 ms.length ++ leBytes 2 s.ownId ++ leBytes 4 (s.fget Fld.secLmsSubtree) ++ leBytes 4 s.sec.leaf ++ zeros 20 ++
  ms.flatMap Measure.bytes

/-- A whole colophon: both signatures over one digest, and the LMS signature of 3,604 bytes (R342). -/
def State.colophon (s : State) (nonce : BitVec 256) : Bytes :=
  let b := s.colophonBody nonce
  let d := Config.sha384 b
  b ++ padTo 96 ((s.aliasSign d).take 96) ++ leBytes 4 3604 ++
    padTo 3604 ((Config.lmsSign (s.fget Fld.secLmsSubtree) s.sec.leaf d).take 3604)

/-! ## Answers -/

/-- A port carries SPDM messages. -/
def State.spdmOpen (s : State) : SpdmPort → Bool
  | .doe => s.linkUp && s.port.configReady
  | .mctp => s.mgmtUp
  | .link l _ => s.linkState l == Ls.attest || s.linkIsUp l

/-- An answer leaves by the port of its request; on a link it is a CTRL message. -/
def spdmSay (p : SpdmPort) (r : SpdmReply) : Act :=
  match p with
  | .link l _ => sendCtrl l (.spdm r)
  | _ => act [.out (.spdm p r)]

/-- An ERROR of SPDM: InvalidRequest 0x01, Busy 0x03, UnexpectedRequest 0x04, Unspecified 0x05, DecryptError 0x06,
UnsupportedRequest 0x07. -/
def spdmError (p : SpdmPort) (code : Nat) : Act := spdmSay p (.error code)

/-- A request arrives: it is served by a security domain that is up and not restarting (R350). On a link it is a CTRL message. -/
def spdmServe (p : SpdmPort) (f : Act) : Act := fun s =>
  let serve := if s.sec.restarting ∨ !s.sec.booted then spdmError p 0x03 else f
  if !s.spdmOpen p then []
  else match p with
    | .link l ctl => recvCtrl l ctl serve s
    | _ => serve s

/-! ## LMS (R343, R344) -/

/-- A colophon is signed: the index is committed 64 leaves ahead first when the leaf begins a run of 64; a failed commit ends
the signing. -/
def colophonSign (p : SpdmPort) (nonce : BitVec 256) : Act := fun s =>
  if s.sec.nvmLeaf ≤ s.sec.leaf ∧ Config.commitFails s.free then
    seqA [commitFailed, spdmError p 0x05] s
  else
    seqA [act [.draw, .sec fun x => { x with nvmLeaf := max x.nvmLeaf (x.leaf / 64 * 64 + 64), leaf := x.leaf + 1 },
      .fld Fld.secLmsLeaf (s.sec.leaf + 1)], spdmSay p (.colophon (s.colophon nonce))] s

/-- The subtree is used up. -/
def State.leavesGone (s : State) : Bool := decide (treeLeaves ≤ s.sec.leaf)

/-- A request for a colophon. -/
def colophonAsk (p : SpdmPort) (nonce : BitVec 256) : Act := fun s =>
  if s.flag Fld.secStatusLmsExhausted ∨ (s.leavesGone ∧ treeLeaves ≤ s.sec.nvmTop) then spdmError p 0x05 s
  else if s.flag Fld.secStatusLmsRenewing ∨ s.leavesGone then
    seqA [act [.sec fun x => { x with colophonWait := x.colophonWait ++ [(p, nonce)] }], spdmSay p (.notReady 19)] s
  else colophonSign p nonce s

/-- The subtree is used up: a renewal starts, or the top tree is used up too. -/
def subtreeGone : Act := fun s =>
  if !s.sec.booted ∨ !s.leavesGone ∨ s.flag Fld.secStatusLmsRenewing ∨ s.flag Fld.secStatusLmsExhausted then []
  else if treeLeaves ≤ s.sec.nvmTop then [.fld Fld.secStatusLmsExhausted 1]
  else [.fld Fld.secStatusLmsRenewing 1]

/-- A renewal ends, and the requests that waited are served; when its commit failed, their signing ends with Unspecified. -/
def renewed : Act := fun s =>
  if !s.flag Fld.secStatusLmsRenewing then []
  else seqA [newSubtree, act [.fld Fld.secStatusLmsRenewing 0, .sec fun x => { x with colophonWait := [] }],
    forA s.sec.colophonWait fun (p, n) => whenA (·.spdmOpen p) fun t =>
      if t.leavesGone then spdmError p 0x05 t else colophonAsk p n t] s

/-! ## Requests (R346, R351) -/

/-- GET_MEASUREMENTS: index 0xF0 is a colophon, 0xFF every measurement, another index that measurement. -/
def measure (p : SpdmPort) (index : Nat) (nonce : Option (BitVec 256)) : Act := fun s =>
  if index = 0xF0 then colophonAsk p (nonce.getD 0) s
  else
    let ms := s.measures.filter fun m => index == 0xFF || m.index == index
    if ms = [] then spdmError p 0x01 s
    else
      let rec_ := ms.flatMap Measure.bytes
      let sig := match nonce with | some n => s.aliasSign (Config.sha384 (rec_ ++ leBytes 32 n.toNat)) | none => []
      spdmSay p (.measurements index rec_ sig) s

/-- GET_CERTIFICATE: the chain is in slot 0. -/
def certificate (p : SpdmPort) (slot off len : Nat) : Act := fun s =>
  let chain := s.certificateChain
  if slot ≠ 0 ∨ chain.length < off then spdmError p 0x01 s else spdmSay p (.certificate ((chain.drop off).take len)) s

/-- CHALLENGE. -/
def challenge (p : SpdmPort) (nonce : BitVec 256) : Act := fun s =>
  spdmSay p (.challengeAuth (s.aliasSign (Config.sha384 (leBytes 32 nonce.toNat ++ s.measures.flatMap Measure.bytes)))) s

/-- KEY_EXCHANGE: on a link, with mutual authentication alone. -/
def keyExchange (p : SpdmPort) (mutAuth : Bool) : Act := fun s =>
  match p with
  | .link l _ =>
    if !mutAuth ∨ s.linkState l ≠ Ls.attest then spdmError p 0x01 s
    else seqA [act [.link l fun x => { x with keyExchanged := true }], spdmSay p .keyExchangeRsp] s
  | _ => seqA [act [.sec fun x => { x with exchanging := x.exchanging.filter (· != p) ++ [p] }], spdmSay p .keyExchangeRsp] s

/-- FINISH on a link (R351): the certificate must yield the fingerprint of the hello; each end then asks for one colophon of the
other, and the link is up. `trust` is what the partner's colophon says of the rack-trust enable (log entry 47). -/
def finishLink (p : SpdmPort) (l : LinkId) (ok : Bool) (fp : BitVec 384) (trust : Bool) : Act := fun s =>
  if !(s.link l).keyExchanged ∨ s.linkState l ≠ Ls.attest then spdmError p 0x04 s
  else if !ok ∨ fp ≠ (s.link l).peerFingerprint then fenceLink l Hr.fenceAttest s
  else
    let nonce := BitVec.ofNat 256 (leNat ((List.range 32).map fun i => Config.freeByte s.free i))
    seqA [act [.draw, .link l fun x => { x with spdmOpen := true, peerTrust := trust }], spdmSay p .finishRsp,
      spdmSay p (.askColophon nonce), Sys2Proof.Machine.linkUp l] s

/-- FINISH on another port: the session is open. -/
def finishPort (p : SpdmPort) (ok : Bool) : Act := fun s =>
  if !s.sec.exchanging.contains p then spdmError p 0x04 s
  else if !ok then seqA [act [.sec fun x => { x with exchanging := x.exchanging.filter (· != p) }], spdmError p 0x06] s
  else seqA [act [.sec fun x => { x with exchanging := x.exchanging.filter (· != p), sessions := x.sessions.filter (· != p) ++ [p] }],
    spdmSay p .finishRsp] s

/-- FINISH. -/
def finish (p : SpdmPort) (ok : Bool) (fp : BitVec 384) (trust : Bool) : Act :=
  match p with
  | .link l _ => finishLink p l ok fp trust
  | _ => finishPort p ok

/-- A session is open on a port. -/
def State.inSession (s : State) : SpdmPort → Bool
  | .link l _ => (s.link l).spdmOpen
  | p => s.sec.sessions.contains p

/-- KEY_UPDATE, within a session. -/
def keyUpdate (p : SpdmPort) : Act := fun s => if s.inSession p then spdmSay p .keyUpdateAck s else spdmError p 0x04 s

/-- END_SESSION: the session of a port is closed. -/
def endSession (p : SpdmPort) : Act := fun s =>
  if !s.inSession p then spdmError p 0x04 s
  else seqA [spdmSay p .endSessionAck, match p with
    | .link l _ => act [.link l fun x => { x with spdmOpen := false }]
    | _ => act [.sec fun x => { x with sessions := x.sessions.filter (· != p) }]] s

/-- Request codes that have a command of their own: certificate, challenge, measurements, key exchange, finish, key update. -/
def spdmOwnRow : List Nat := [0x82, 0x83, 0xE0, 0xE4, 0xE5, 0xE9]

/-- A request by its code (R346): GET_DIGESTS, GET_VERSION, GET_CAPABILITIES, NEGOTIATE_ALGORITHMS and END_SESSION are served;
any other request that has no command of its own is not supported. -/
def spdmOther (p : SpdmPort) (code : Nat) : Act := fun s =>
  if code = 0x81 then spdmSay p (.digests (Config.sha384 s.certificateChain)) s
  else if code = 0x84 then spdmSay p (.versions [0x12, 0x13]) s
  else if code = 0xE1 ∨ code = 0xE3 then spdmSay p (.negotiated (Config.standardReply (0x600 + code) [])) s
  else if code = 0xEC then endSession p s
  else spdmError p 0x07 s

/-! ## The commands -/

/-- SPDM_GET_MEASUREMENTS (R343 to R347). -/
def execSpdmGetMeasurements (port : SpdmPort) (index : Byte) (nonce : Option (BitVec 256)) (s : State) :
    Host.Outcome State Fault Refusal := done (spdmServe port (measure port index.toNat nonce)) s

/-- SPDM_GET_CERTIFICATE (R341). -/
def execSpdmGetCertificate (port : SpdmPort) (slot : Fin 8) (offset length : Nat) (s : State) : Host.Outcome State Fault Refusal :=
  done (spdmServe port (certificate port slot offset length)) s

/-- SPDM_CHALLENGE (R346). -/
def execSpdmChallenge (port : SpdmPort) (nonce : BitVec 256) (s : State) : Host.Outcome State Fault Refusal :=
  done (spdmServe port (challenge port nonce)) s

/-- SPDM_KEY_EXCHANGE (R346, R351). -/
def execSpdmKeyExchange (port : SpdmPort) (mutAuth : Bool) (s : State) : Host.Outcome State Fault Refusal :=
  done (spdmServe port (keyExchange port mutAuth)) s

/-- SPDM_FINISH (R346, R351). -/
def execSpdmFinish (port : SpdmPort) (verified : Bool) (peer : PeerProof) (s : State) : Host.Outcome State Fault Refusal :=
  done (spdmServe port (finish port verified peer.fingerprint peer.trust)) s

/-- SPDM_KEY_UPDATE (R346). -/
def execSpdmKeyUpdate (port : SpdmPort) (s : State) : Host.Outcome State Fault Refusal := done (spdmServe port (keyUpdate port)) s

/-- SPDM_UNSUPPORTED_REQUEST (R346): a request by its code; a code that has a command of its own is no request of this row. -/
def execSpdmUnsupportedRequest (port : SpdmPort) (code : Byte) (s : State) : Host.Outcome State Fault Refusal :=
  done (if spdmOwnRow.contains code.toNat then nothing else spdmServe port (spdmOther port code.toNat)) s

/-- LMS_SUBTREE_EXHAUSTED (R344). -/
def execLmsSubtreeExhausted (s : State) : Host.Outcome State Fault Refusal := done subtreeGone s

/-- LMS_RENEWAL_COMPLETE (R343, R344). -/
def execLmsRenewalComplete (s : State) : Host.Outcome State Fault Refusal := done renewed s

end Sys2Proof.Machine
end

