-- ==== Sys2Proof/Machine/SecOps.lean ====
section
/-! DEFINITION. Security operations: context roots, frame tags and model packages. R352, R355 to R358, R362 to R364.
Log entry 48. -/

namespace Sys2Proof.Machine

open Sys2Proof

/-! ## Records (Table 14.13) -/

/-- Status codes. -/
def Ss.ok : Nat := 0
/-- BAD_DESC. -/
def Ss.badDesc : Nat := 1
/-- CONTEXT_STATE. -/
def Ss.contextState : Nat := 2
/-- NOT_LISTED. -/
def Ss.notListed : Nat := 3
/-- UNWRAP. -/
def Ss.unwrap : Nat := 4
/-- DIGEST. -/
def Ss.digest : Nat := 5
/-- KEY_BUSY. -/
def Ss.keyBusy : Nat := 6
/-- TRANSLATION. -/
def Ss.translation : Nat := 7
/-- HOST_READ. -/
def Ss.hostRead : Nat := 8
/-- POISON. -/
def Ss.poison : Nat := 9

/-- A completion record of a descriptor. -/
def secRecord (d : Bytes) (status done_ : Nat) : Act :=
  writeCpl secPlace (leBytes 4 (fieldAt d 4 4) ++ leBytes 1 status ++ zeros 3 ++ leBytes 8 done_)

/-- The next descriptor ends with a status. -/
def secEnd (d : Bytes) (status done_ : Nat) : Act := seqA [takeDesc secPlace, secRecord d status done_]

/-- The next descriptor, when it passes a test of its kind. -/
def secDesc (is : Nat → Bool) (f : Bytes → Act) : Act := fun s =>
  match s.nextDesc secPlace s.sec.imports.length with
  | some d => if is (fieldAt d 0 1) then f d s else []
  | none => []

/-- Fields of Table 14.12 that no kind leaves open. -/
def secFieldsOk (d : Bytes) : Bool :=
  let kind := fieldAt d 0 1
  decide (fieldAt d 2 1 < 16) && (if kind = 3 then decide (fieldAt d 1 1 < 2) else fieldAt d 1 1 == 0 && fieldAt d 16 8 == 0) &&
  (kind != 1 || fieldAt d 24 8 == 0) && (kind != 2 || decide (fieldAt d 3 1 < 3))

/-! ## CTX_ROOT -/

/-- A root that CTX_ROOT may write: 0, or a 4 KiB aligned address in a tag-0 frame of a tier. -/
def State.rootOk (s : State) (r : Nat) : Bool := r == 0 || (r % 4096 == 0 && s.inTier r && s.keyTag r == 0)

/-- CTX_ROOT. -/
def ctxRootOp (d : Bytes) : Act := fun s =>
  let c := fieldAt d 2 1
  let r := fieldAt d 8 8
  if !secFieldsOk d ∨ !s.rootOk r then secEnd d Ss.badDesc 0 s
  else if s.ctxState c = 0 then secEnd d Ss.contextState 0 s
  else seqA [storePlain (s.ctxEntry c) (leBytes 8 (if r = 0 then 0 else r + 1)), act [dropContext c], secEnd d Ss.ok 0] s

/-! ## ASSIGN -/

/-- The tag of key `k` of context `c` (R356). -/
def tagOf (c k : Nat) : Nat := if k = 0 then 0 else 2 * c + k

/-- ASSIGN may retag the range (R362). -/
def State.assignOk (s : State) (d : Bytes) : Bool :=
  let a := fieldAt d 8 8
  let n := fieldAt d 24 8
  let k := fieldAt d 3 1
  secFieldsOk d && a % 65536 == 0 && n % 65536 == 0 && (n == 0 || (s.rangeInTier a n && !s.rangeDenied 0 a n)) &&
  (k == 0 || (!s.meetsHdm a n && s.ctxState (fieldAt d 2 1) != 0 && s.keyOf (fieldAt d 2 1) (k - 1) != 0))

/-- ASSIGN: held while a frame of the range migrates. -/
def assignOp (d : Bytes) : Act := fun s =>
  let a := fieldAt d 8 8
  let n := fieldAt d 24 8
  if !s.assignOk d then secEnd d Ss.badDesc 0 s
  else if s.rangeMigrates a n then []
  else seqA [storePlain (s.tagAddr a) (List.replicate (n / 65536) (BitVec.ofNat 8 (tagOf (fieldAt d 2 1) (fieldAt d 3 1)))),
    secEnd d Ss.ok n] s

/-! ## Packages (R363, Table 14.14) -/

/-- Bytes of one unit of content. -/
def unitLen : Nat := 4096

/-- Where an entry of a package lies. -/
def pkgEntry (n : Nat) : Nat := 0xC0 + 1696 * n

/-- Where the content of a package begins. -/
def pkgContent (h : Bytes) : Nat := alignUp (pkgEntry (fieldAt h 6 2)) 4096

/-- The header of a package is valid for a descriptor. -/
def pkgOk (d h : Bytes) : Bool :=
  fieldAt h 0 4 == 0x474B504D && fieldAt h 4 1 == 1 && fieldAt h 5 1 == 0 && decide (1 ≤ fieldAt h 6 2 ∧ fieldAt h 6 2 ≤ 1024) &&
  fieldAt h 8 8 % unitLen == 0 && fieldAt h 8 8 == fieldAt d 24 8 && fieldAt h 16 16 != 0 && allZero (slice h 0xB1 15) &&
  fieldAt d 16 8 % 65536 == 0 && decide (fieldAt d 16 8 < 2 ^ 57) && fieldAt d 8 8 % 4096 == 0

/-- The entry of a package with this device's fingerprint. -/
def pkgOwnEntry (h : Bytes) : Option Bytes :=
  ((List.range (fieldAt h 6 2)).map fun n => slice h (pkgEntry n) 1696).find? fun e =>
    slice e 0 48 == digestBytes Config.fingerprint

/-- The package lies in host memory. -/
def inHost (d : Bytes) : Bool := bitOf (fieldAt d 1 1) 0

/-- Bytes of a package in a tier, or the status that ends the reading. -/
def State.pkgRead (s : State) (a n : Nat) : Except Nat Bytes :=
  if n = 0 then .ok []
  else if !s.rangeInTier a n then .error Ss.badDesc
  else if (linePieces a n).any fun p => s.unreadable p.1 then .error Ss.poison
  else .ok (s.cipherN a n)

/-- The header and the entries of a package. -/
def State.pkgHead (s : State) (d : Bytes) (host : HostResult) : Except Nat Bytes :=
  if inHost d then match host with
    | .ok b => .ok (slice b 0 (pkgEntry (fieldAt b 6 2)))
    | .failed _ => .error Ss.hostRead
  else match s.pkgRead (fieldAt d 8 8) 192 with
    | .error e => .error e
    | .ok h => if 1024 < fieldAt h 6 2 then .ok h else s.pkgRead (fieldAt d 8 8) (pkgEntry (fieldAt h 6 2))

/-! ## IMPORT (R364) -/

/-- The flags of the context table entry are written (Table 14.9). -/
def writeCtxFlags (c : Nat) : Act := fun s =>
  storePlain (s.ctxEntry c + 8) (leBytes 4 (b2n (s.image c).confidential + 2 * b2n ((s.ctx c).keyContent != 0))) s

/-- Step 4: the key enters the content slot, and the content is streamed. -/
def importGo (d h : Bytes) (c : Nat) (key : BitVec 512) : Act :=
  let id := 2 ^ 64 + key.toNat
  seqA [takeDesc secPlace,
    act [.ctx c (fun x => { x with keyContent := id, packageId := fieldAt h 16 16 }),
      .sec (fun x => { x with imports := x.imports ++ [⟨d, c, h, id⟩] })],
    writeCtxFlags c]

/-- Steps 2 to 4 for a package whose header and entries have been read. -/
def importEntry (d h : Bytes) (c : Nat) : Act := fun s =>
  if !pkgOk d h then secEnd d Ss.badDesc 0 s
  else match pkgOwnEntry h with
    | none => secEnd d Ss.notListed 0 s
    | some e => match Config.unwrapKey (Config.identity "binding") (Config.sha384 (slice h 0 0xC0)) (slice h 0x50 97 ++ e) with
      | none => secEnd d Ss.unwrap 0 s
      | some key =>
        if (s.ctx c).keyContent ≠ 0 ∧ (s.ctx c).packageId ≠ fieldAt h 16 16 then secEnd d Ss.keyBusy 0 s
        else importGo d h c key s

/-- IMPORT. -/
def importOp (host : HostResult) (d : Bytes) : Act := fun s =>
  let c := fieldAt d 2 1
  if !secFieldsOk d then secEnd d Ss.badDesc 0 s
  else if !s.ctxLive c then secEnd d Ss.contextState 0 s
  else seqA [if inHost d then nothing else noteReads 0 1 (fieldAt d 8 8) 192, match s.pkgHead d host with
    | .error e => secEnd d e 0
    | .ok h => importEntry d h c] s

/-- A failure after step 4: the content key is destroyed and its slot is cleared. -/
def clearContent (c : Nat) : Act :=
  seqA [act [.ctx c fun x => { x with keyContent := 0, packageId := 0, packageDigest := none }], writeCtxEntry c]

/-- The security engine as an agent of a context. -/
def importAgent (c : Nat) : Agent := { code := 8, ctx := c }

/-- Where unit `i` of an import goes; none is a TRANSLATION failure. -/
def State.importDst (s : State) (o : ImportOp) (i : Nat) : Option Nat :=
  match s.walk (importAgent o.ctx) (fieldAt o.desc 16 8 + unitLen * i) 1 with
  | .ok w => if s.meetsHdm w.pa unitLen then none else some w.pa
  | .error _ => none

/-- A unit is written in plaintext under the content key after its frame has taken the content tag. -/
def putUnit (o : ImportOp) (pa i : Nat) (cipher : Bytes) : Act :=
  seqA [setTag pa (tagOf o.ctx 2), storeKeyed (fun _ _ => o.key) pa
    ((List.range unitLen).map fun j => Config.contentByte o.key i cipher j)]

/-- Units `i` and on are written until one fails; the status and the bytes done. -/
def streamUnits (o : ImportOp) : List Bytes → Nat → State → List Upd × Nat × Nat
  | [], i, _ => ([], Ss.ok, unitLen * i)
  | u :: t, i, s =>
    match s.importDst o i with
    | none => ([], Ss.translation, unitLen * i)
    | some pa =>
      let us := putUnit o pa i u s
      let r := streamUnits o t (i + 1) (s.run us)
      (us ++ r.1, r.2)

/-- The import has left step 5 with a status. -/
def importDone (o : ImportOp) (status done_ : Nat) : Act :=
  seqA [if status = Ss.ok then seqA [act [.ctx o.ctx fun x =>
      if x.keyContent = o.key then { x with packageDigest := some (Config.sha384 (slice o.header 0 0xC0)) } else x], writeCtxEntry o.ctx]
    else clearContent o.ctx, act [.sec fun x => { x with imports := eraseFirst (· == o) x.imports }], secRecord o.desc status done_]

/-- The content arrives as `cipher`, of which the first `n` units can be read; `bad` is the status of the unit after them. -/
def importStream (o : ImportOp) (cipher : Bytes) (n bad : Nat) : Act := fun s =>
  let units := chunksOf unitLen (cipher.length / unitLen + 1) cipher
  let r := streamUnits o (units.take n) 0 s
  let status := if r.2.1 ≠ Ss.ok then r.2.1 else if n < units.length then bad
    else if leNat (slice o.header 0x20 48) ≠ (Config.sha384 cipher).toNat then Ss.digest else Ss.ok
  seqA [act r.1, importDone o status r.2.2] s

/-- A host read of the content failed: of the units written before it an open number holds open data under the content tag. -/
def importBroken (o : ImportOp) : Act := fun s =>
  let n := (Config.freeWord s.free).toNat % (fieldAt o.header 8 8 / unitLen + 1)
  let written := (List.range n).takeWhile fun i => (s.importDst o i).isSome
  seqA [act [.draw], forA (written.filterMap (s.importDst o ·)) fun pa =>
      seqA [setTag pa (tagOf o.ctx 2), act [.undef pa unitLen]],
    importDone o Ss.hostRead (unitLen * written.length)] s

/-- A frame that an import would retag lies in a migration: the import is held (R358). -/
def State.importHeld (s : State) (o : ImportOp) : Bool :=
  (List.range (fieldAt o.header 8 8 / unitLen)).any fun i => (s.importDst o i).any fun pa => s.rangeMigrates pa unitLen

/-- The oldest import ends. -/
def importEnds (content : HostResult) : Act := fun s =>
  match s.sec.imports with
  | [] => []
  | o :: _ =>
    let n := fieldAt o.header 8 8
    if s.importHeld o then []
    else if inHost o.desc then match content with
      | .ok b => importStream o (slice b 0 n) (n / unitLen) Ss.hostRead s
      | .failed _ => importBroken o s
    else
      let a := fieldAt o.desc 8 8 + pkgContent o.header
      let good := (List.range (n / unitLen)).takeWhile fun i => match s.pkgRead (a + unitLen * i) unitLen with
        | .ok _ => true
        | .error _ => false
      seqA [noteReads 0 1 a n, importStream o (s.cipherN a n) good.length (if s.rangeInTier a n then Ss.poison else Ss.translation)] s

/-- Imports of an unloading context end with CONTEXT_STATE (R362). -/
def endImports (c : Nat) : Act := fun s =>
  forA (s.sec.imports.filter (·.ctx == c)) (fun o => importDone o Ss.contextState 0) s

/-! ## The commands -/

/-- CTX_ROOT (R352, R362). -/
def execCtxRoot (s : State) : Host.Outcome State Fault Refusal := done (secDesc (· == 1) ctxRootOp) s

/-- ASSIGN (R356, R358, R362). -/
def execAssign (s : State) : Host.Outcome State Fault Refusal := done (secDesc (· == 2) assignOp) s

/-- IMPORT (R362, R364). -/
def execImportPackage (header : HostResult) (s : State) : Host.Outcome State Fault Refusal := done (secDesc (· == 3) (importOp header)) s

/-- IMPORT_COMPLETE (R364). -/
def execImportComplete (content : HostResult) (s : State) : Host.Outcome State Fault Refusal := done (importEnds content) s

/-- RESERVED_SEC_OP_KIND (R362). -/
def execReservedSecOpKind (s : State) : Host.Outcome State Fault Refusal :=
  done (secDesc (fun k => k == 0 || 4 ≤ k) fun d => secEnd d Ss.badDesc 0) s

end Sys2Proof.Machine
end

