-- ==== Sys2Proof/Machine/Loader.lean ====
section
/-! DEFINITION. The imposition loader: LOAD, REPLACE, UNLOAD and VALIDATE. R36 to R41, R245, R355, R362, R399.
Log entry 49. -/

namespace Sys2Proof.Machine

open Sys2Proof

/-! ## Operations and slots (Tables 2.18 and 2.19) -/

/-- Operation codes of IMP_CTRL. -/
def Lop.load : Nat := 1
/-- REPLACE. -/
def Lop.replace : Nat := 2
/-- UNLOAD. -/
def Lop.unload : Nat := 3
/-- VALIDATE. -/
def Lop.validate : Nat := 4

/-- Slot states of IMP_CTX_STATE. -/
def Cst.empty : Nat := 0
/-- LOADING. -/
def Cst.loading : Nat := 1
/-- RESIDENT. -/
def Cst.resident : Nat := 2
/-- DRAINING. -/
def Cst.draining : Nat := 4
/-- UNLOADING. -/
def Cst.unloading : Nat := 5
/-- PENDING. -/
def Cst.pending : Nat := 6

/-- A slot enters a state. -/
def slotTo (c st : Nat) : Upd := .fld (Fld.impCtxStateOf c) st

/-- The states in which an operation is accepted (Table 2.19). -/
def opAccepts (op st : Nat) : Bool :=
  if op = Lop.load then st == 0 || st == 5 else if op = Lop.replace then st == 2 || st == 3
  else if op = Lop.unload then st == 2 || st == 3 || st == 6 else true

/-! ## Ends of operations -/

/-- The loader is idle again: done is set and vector 3 is raised. -/
def loaderDone : Act :=
  seqA [act [.loader fun x => { x with phase := .idle, buf := if x.pending.isSome then x.buf else [] },
    .fld Fld.impStatusBusy 0, .fld Fld.impStatusDone 1], raise Vec.loader]

/-- A rejected operation: a LOAD leaves its slot EMPTY, or UNLOADING while the unload before it runs. -/
def loaderReject (cause off : Nat) : Act := fun s =>
  let c := s.loader.ctx
  seqA [if s.ctxState c = Cst.loading ∨ (s.ctxState c = Cst.pending ∧ s.loader.op = Lop.load ∧ s.loader.unloadDone)
      then act [slotTo c Cst.empty]
    else if s.ctxState c = Cst.pending ∧ s.loader.op = Lop.load then act [slotTo c Cst.unloading] else nothing,
    act [.loader (fun x => { x with pending := none, copied := false, unloadDone := false }), .fld Fld.impStatusPending 0,
      .fld Fld.impStatusCause cause, .fld Fld.impStatusFailOffset off, .inc Fld.impCountRejects 1],
    loaderDone] s

/-- An operation that is refused at its write: nothing of the loader's work changes. -/
def opRefused (cause : Nat) : Act :=
  seqA [act [.fld Fld.impStatusCause cause, .fld Fld.impStatusFailOffset 0, .fld Fld.impStatusDone 1, .inc Fld.impCountRejects 1],
    raise Vec.loader]

/-! ## UNLOAD (R39) -/

/-- The work of a DRAINING context is cancelled, its ISSUE commands and its requests end, its imports end. -/
def drainWork (c : Nat) : Act := fun s =>
  seqA [endPeriod c, cancelCmds (·.ctx == c),
    act [.issues fun is => is.map fun i =>
      if i.ctx = c ∧ s.issues.any (fun j => j.ring == i.ring && j.index == i.index && j.left != 0) then
        { i with status := Cpl.ctxState } else i],
    forA (s.slotsOf c) unloadRequest, endImports c, showActive, lateBoundary] s

/-- The context is drained; a replacement that waits is forgotten. -/
def drain (c : Nat) : Act :=
  seqA [act [slotTo c Cst.draining, .ctx c fun x => { x with held := none }], drainWork c]

/-- UNLOAD of an accepted slot: a pending load is withdrawn, or the context is drained. -/
def unloadOp (c : Nat) : Act := fun s =>
  if s.ctxState c = Cst.pending then
    [slotTo c (if s.loader.unloadDone then Cst.empty else Cst.unloading), .fld Fld.impStatusPending 0,
     .loader fun x => { x with pending := none, copied := false, unloadDone := false, buf := [] }]
  else drain c s

/-! ## A write of IMP_CTRL (R36 to R38) -/

/-- IMP_LEN and IMP_SRC pass the first check of step 0. -/
def State.stagedOk (s : State) : Bool :=
  let n := s.fget Fld.impLenLength
  decide (256 ≤ n ∧ n ≤ 4194304 ∧ s.fget Fld.impSrcAddr + n ≤ Config.fastEnd)

/-- The copy begins; a LOAD takes its slot. -/
def copyBegins (op c : Nat) : Act := fun s =>
  let src := s.fget Fld.impSrcAddr
  let n := s.fget Fld.impLenLength
  seqA [act [.fld Fld.impStatusBusy 1,
      .loader fun x => { x with phase := .copying, op := op, ctx := c, src := src, len := n, buf := [] }],
    if op ≠ Lop.load then nothing
    else if s.ctxState c = Cst.empty then act [slotTo c Cst.loading]
    else act [slotTo c Cst.pending, .fld Fld.impStatusPending 1,
      .loader fun x => { x with pending := some c, copied := false, unloadDone := false }]] s

/-- An operation is written. -/
def loaderOp (op c : Nat) : Act := fun s =>
  if s.flag Fld.impStatusBusy then [.fld Fld.impStatusOverrun 1]
  else seqA [act [.fld Fld.impStatusOp op, .fld Fld.impStatusContext c, .fld Fld.impStatusCause 0, .fld Fld.impStatusFailOffset 0],
    if (s.loader.pending.isSome ∧ op ≠ Lop.unload) ∨ !opAccepts op (s.ctxState c) ∨
        (s.basic ∧ (op = Lop.load ∨ op = Lop.replace)) then opRefused Cause.contextState
    else if op = Lop.unload then seqA [unloadOp c, act [.fld Fld.impStatusDone 1], raise Vec.loader]
    else if s.stagedOk then copyBegins op c
    else opRefused Cause.size] s

/-! ## The copy (R36, R38 step 0) -/

/-- A staged line is read: it gives data, has tag 0, and is not denied to the loader, which is judged as the engines of a context
(Table 14.11, log entry 49). -/
def State.stagedLine (s : State) (a : Nat) : Bool :=
  !s.unreadable a && s.keyTag a == 0 && !s.denied 0 a

/-- The copy is complete, or its first line that failed rejects the image. -/
def copyDone : Act := fun s =>
  let l := s.loader
  if l.phase ≠ .copying then []
  else seqA [noteReads 0 1 l.src l.len, fun s => match (linePieces l.src l.len).find? fun p => !s.stagedLine p.1 with
    | some (a, _) => loaderReject Cause.crc (a - l.src) s
    | none =>
      seqA [act [.loader fun x => { x with buf := s.seenN 0 l.src l.len }],
        if s.ctxState l.ctx = Cst.pending ∧ l.op = Lop.load then
          act [.fld Fld.impStatusBusy 0, .loader fun x => { x with phase := .idle, copied := true }]
        else act [.loader fun x => { x with phase := .validating }]] s] s

/-- Validation of a pending load starts once its slot has been unloaded. -/
def pendingStarts : Act := fun s =>
  match s.loader.pending with
  | none => []
  | some c =>
    if !s.loader.copied ∨ !s.loader.unloadDone then []
    else [slotTo c Cst.loading, .fld Fld.impStatusBusy 1, .fld Fld.impStatusPending 0, .fld Fld.impStatusOp Lop.load,
      .fld Fld.impStatusContext c, .fld Fld.impStatusCause 0, .fld Fld.impStatusFailOffset 0,
      .loader fun x => { x with phase := .validating, op := Lop.load, ctx := c, pending := none, copied := false, unloadDone := false }]

/-! ## Validation and application (R37 to R39) -/

/-- Step 6 of a LOAD (Table 2.20): a fresh private key, the settings, banks, links and windows of the image, its
measurement. -/
def applyLoad (c : Nat) (img : Image) : Act := fun s =>
  seqA [act [.ctx c fun x => { image := some img, keyPrivate := s.sec.nextKey, generation := (x.generation + 1) % 2 ^ 32 },
      .sec fun x => { x with nextKey := x.nextKey + 1 }, slotTo c Cst.resident, .fld Fld.cmpStatusHouseStartup 0,
      .inc Fld.impCountLoads 1], installImage c {}] s

/-- The checks end: the image is applied, held, or only judged. -/
def validated : Act := fun s =>
  let l := s.loader
  if l.phase ≠ .validating then []
  else match checkImage s l.ctx l.len (l.op == Lop.replace) l.buf with
    | .error (cause, off) => loaderReject cause off s
    | .ok img =>
      seqA [if l.op = Lop.load then applyLoad l.ctx img
        else if l.op = Lop.replace then act [.ctx l.ctx fun x => { x with held := some img }, .inc Fld.impCountLoads 1]
        else nothing, loaderDone] s

/-! ## The end of an unload (R39, R174, R354, R355) -/

/-- A cluster is cleared of a context that leaves it. -/
def leaveCluster (k : Nat) : Act :=
  seqA [clearCluster k, act [.cluster k fun x => { x with ctx := none, taken := false }], forA (coresOf k) setWheel]

/-- Every request of a DRAINING context is FREE and every ISSUE has completed: its resources are released. -/
def drained (c : Nat) : Act := fun s =>
  if s.ctxState c ≠ Cst.draining ∨ s.slotsOf c ≠ [] ∨ s.issues.any (·.ctx == c) then []
  else seqA [act [slotTo c Cst.unloading, .windows (fun ws => ws.filter (·.ctx != c)),
      .pages (fun g => { g with reqs := g.reqs.filter (·.ctx != c), compactions := g.compactions.filter (·.ctx != c) })],
    forA ((s.image c).pools.map (·.bank)) releaseBank,
    forA ((List.range 64).filter fun k => (s.cluster k).ctx == some c) leaveCluster, act [dropContext c]] s

/-- Release and clearing end: the slot is EMPTY, its keys are destroyed, and a load held PENDING may be validated. -/
def released (c : Nat) : Act := fun s =>
  let pend := s.loader.pending = some c
  if !(s.ctxState c = Cst.unloading ∨ (s.ctxState c = Cst.pending ∧ pend ∧ !s.loader.unloadDone)) then []
  else seqA [forA ((s.image c).pools.map (·.bank)) finishRelease,
    act [.ctx c fun x => { generation := x.generation }, .fld (Fld.fltCtxStopContexts.item c) 0,
      if pend then .loader fun x => { x with unloadDone := true } else slotTo c Cst.empty],
    writeCtxEntry c, showConfidential, reviewModes] s

/-! ## The commands -/

/-- LOAD (R36 to R38). -/
def execLoad (ctx : Ctx) (s : State) : Host.Outcome State Fault Refusal := done (whenA State.bound3 (loaderOp Lop.load ctx)) s

/-- REPLACE (R37 to R39). -/
def execReplace (ctx : Ctx) (s : State) : Host.Outcome State Fault Refusal := done (whenA State.bound3 (loaderOp Lop.replace ctx)) s

/-- UNLOAD (R36, R37, R39, R362). -/
def execUnload (ctx : Ctx) (s : State) : Host.Outcome State Fault Refusal := done (whenA State.bound3 (loaderOp Lop.unload ctx)) s

/-- VALIDATE (R37, R38). -/
def execValidate (ctx : Ctx) (s : State) : Host.Outcome State Fault Refusal :=
  done (whenA State.bound3 (loaderOp Lop.validate ctx)) s

/-- IMAGE_COPY_COMPLETE (R36, R38). -/
def execImageCopyComplete (s : State) : Host.Outcome State Fault Refusal := done copyDone s

/-- PENDING_LOAD_VALIDATION_START (R36). -/
def execPendingLoadValidationStart (s : State) : Host.Outcome State Fault Refusal := done pendingStarts s

/-- IMAGE_VALIDATION_COMPLETE (R38, R39, R355). -/
def execImageValidationComplete (s : State) : Host.Outcome State Fault Refusal := done validated s

/-- UNLOAD_DRAIN_COMPLETE (R39, R174). -/
def execUnloadDrainComplete (ctx : Ctx) (s : State) : Host.Outcome State Fault Refusal := done (drained ctx) s

/-- UNLOAD_RELEASE_COMPLETE (R36, R39, R355, R360). -/
def execUnloadReleaseComplete (ctx : Ctx) (s : State) : Host.Outcome State Fault Refusal := done (released ctx) s

end Sys2Proof.Machine
end

