-- ==== Sys2Proof/Machine/Reduce.lean ====
section
/-! DEFINITION. COMBINE, TOPK, MATCH, PREFLIGHT and DMA commands. R59, R109 to R116, R119 to R121, R141 to R146, R151, R164, R165. -/

namespace Sys2Proof.Machine

open Sys2Proof

/-! ## COMBINE (R109 to R114) -/

/-- A COMBINE command (Table 5.4). -/
structure CombCmd where
  mode : Nat
  inBf : Bool
  countLog2 : Nat
  elements : Nat
  inVa : Nat
  stride : Nat
  outVa : Nat
  deriving DecidableEq, Repr

/-- The fields of Table 5.4. -/
def combOf (b : Bytes) : CombCmd :=
  { mode := bitsOf (fieldAt b 1 1) 0 2, inBf := bitOf (fieldAt b 1 1) 2, countLog2 := fieldAt b 2 1, elements := fieldAt b 8 4
    inVa := fieldAt b 0x10 8 % 2 ^ 57, stride := fieldAt b 0x18 8, outVa := fieldAt b 0x20 8 % 2 ^ 57 }

/-- Rsvd fields and reserved codes of Table 5.4. -/
def combCodesOk (b : Bytes) : Bool :=
  fieldAt b 1 1 < 8 && bitsOf (fieldAt b 1 1) 0 2 != 3 && fieldAt b 3 3 == 0 && fieldAt b 7 1 == 0 && vaRsvdOk b [0x10, 0x20] && allZero (slice b 0x28 20)

/-- Width of an input element. -/
def CombCmd.inWidth (c : CombCmd) : Nat := if c.inBf then 2 else 4
/-- Width of an output element. -/
def CombCmd.outWidth (c : CombCmd) : Nat := if c.mode = 0 then 4 else 2

/-- Stated ranges of Table 5.4. -/
def combShapeOk (b : Bytes) : Bool :=
  let c := combOf b
  stageOk (fieldAt b 0x3C 2) (fieldAt b 0x3E 2) && 1 ≤ c.countLog2 && c.countLog2 ≤ 4 && 1 ≤ c.elements && c.elements ≤ 16777216 &&
  c.inVa % 64 == 0 && c.outVa % 64 == 0 && c.stride % 64 == 0 && c.elements * c.inWidth ≤ c.stride

/-- A node of the tree in the compensated modes: the error of the sum of the s values joins both c values (R110). -/
def pairNode (a b : Pair) : Pair :=
  let s := fAdd a.s b.s
  let e := toF32 (((f32v a.s).add (f32v b.s)).add (f32v s).negate)
  ⟨s, fAdd (fAdd a.c b.c) e⟩

/-- The tree of Table 5.3 over 2^d leaves. -/
def combTree : Nat → List Pair → Pair
  | 0, xs => xs.headD {}
  | d + 1, xs => pairNode (combTree d (xs.take (2 ^ d))) (combTree d (xs.drop (2 ^ d)))

/-- The tree in stochastic mode: nodes in post-order take draws from `draw`, starting at number `k`; answers the value and
the next number (R110, R113, R114). -/
def srTree (draw : Nat → BitVec 32) : Nat → List Fv → Nat → Fv × Nat
  | 0, xs, k => (xs.headD .nan, k)
  | d + 1, xs, k =>
    let (a, k) := srTree draw d (xs.take (2 ^ d)) k
    let (b, k) := srTree draw d (xs.drop (2 ^ d)) k
    (bf16v (srRound (a.add b) (draw k)), k + 1)

/-- The stochastic-rounding lanes of a core in a context, ascending, with their seeds (R31, R114). -/
def State.seedLanes (s : State) (c n : Nat) : List (Nat × Nat) := (s.srLanes c n).map fun l => (l.lane, l.seed)

/-- Counter of a lane. -/
def State.srCount (s : State) (c n lane : Nat) : Nat := tabGet (fun _ => 0) s.srCtr (srKey c n lane)

/-- Element `e` of a stochastic COMBINE: the lane of rank e mod L draws its m − 1 values for it. -/
def srElement (s : State) (c n d : Nat) (lanes : List (Nat × Nat)) (xs : List Fv) (e : Nat) : Nat :=
  let (lane, seed) := lanes.getD (e % lanes.length) (0, 0)
  let first := s.srCount c n lane + e / lanes.length * (2 ^ d - 1)
  ((srTree (fun k => srDraw (BitVec.ofNat 32 seed) (BitVec.ofNat 64 k)) d xs first).1).encode bf16

/-- Draws that each lane makes for `count` elements. -/
def srAdvance (s : State) (c n d count : Nat) (lanes : List (Nat × Nat)) : List Upd :=
  lanes.zipIdx.map fun ((lane, _), i) =>
    .srCtr (srKey c n lane) ((s.srCount c n lane + (count + lanes.length - 1 - i) / lanes.length * (2 ^ d - 1)) % 2 ^ 64)

/-- What a COMBINE command computes. -/
def combRun (n : Nat) (q : QCmd) (s : State) : Run Unit := do
  let c := combOf q.bytes
  let lanes := s.seedLanes q.ctx n
  need (combCodesOk q.bytes) Cmd.command
  need (combShapeOk q.bytes && (c.mode != 2 || lanes != [])) Cmd.shape
  let ins ← (List.range (2 ^ c.countLog2)).mapM fun j => do
    pure (fltUnpack (if c.inBf then 1 else 0) (← opRead s n q (c.inVa + j * c.stride) (c.elements * c.inWidth)))
  let leaves (e : Nat) : List Fv := ins.map (·.getD e .nan)
  if c.mode = 2 then
    gather fun t => { t with extra := srAdvance s q.ctx n c.countLog2 c.elements lanes }
    opWrite s n q c.outVa ((List.range c.elements).flatMap fun e => leBytes 2 (srElement s q.ctx n c.countLog2 lanes (leaves e) e))
  else
    opWrite s n q c.outVa ((List.range c.elements).flatMap fun e =>
      let p := combTree c.countLog2 ((leaves e).map fun v => ⟨toF32 v, 0⟩)
      outBytes (c.mode == 1) (fAdd p.s p.c))

/-- A COMBINE command runs. -/
def combCmd (n : Nat) (q : QCmd) : Act :=
  let c := combOf q.bytes
  runUnit n q [(c.outVa, c.elements * c.outWidth)] (combRun n q)

/-! ## TOPK (R119 to R121) -/

/-- A TOPK command (Table 5.7). -/
structure TopkCmd where
  merge : Bool
  inBf : Bool
  k : Nat
  lists : Nat
  count : Nat
  srcVa : Nat
  stride : Nat
  base : Nat
  dstVa : Nat
  deriving DecidableEq, Repr

/-- The fields of Table 5.7. -/
def topkOf (b : Bytes) : TopkCmd :=
  { merge := bitOf (fieldAt b 1 1) 0, inBf := bitOf (fieldAt b 1 1) 1, k := fieldAt b 2 2, lists := fieldAt b 4 2, count := fieldAt b 8 4
    srcVa := fieldAt b 0x10 8 % 2 ^ 57, stride := fieldAt b 0x18 8, base := fieldAt b 0x20 4, dstVa := fieldAt b 0x28 8 % 2 ^ 57 }

/-- Rsvd fields of Table 5.7. -/
def topkCodesOk (b : Bytes) : Bool :=
  fieldAt b 1 1 < 4 && fieldAt b 7 1 == 0 && fieldAt b 0x24 4 == 0 && vaRsvdOk b [0x10, 0x28] && allZero (slice b 0x30 12)

/-- Stated ranges of Table 5.7, and no index wraps (R120). -/
def topkShapeOk (b : Bytes) : Bool :=
  let c := topkOf b
  stageOk (fieldAt b 0x3C 2) (fieldAt b 0x3E 2) && c.dstVa % 64 == 0 &&
  (if c.merge then 1 ≤ c.k && c.k ≤ 1024 && 2 ≤ c.lists && c.lists ≤ 64 && 1 ≤ c.count && c.count ≤ 1024 && c.stride % 64 == 0 &&
      c.base == 0 && !c.inBf
    else 1 ≤ c.k && c.k ≤ 64 && c.lists == 0 && 1 ≤ c.count && c.count ≤ 16777216 && c.stride == 0 && c.base + c.count ≤ 0xFFFFFFFF)

/-- A record: an FP32 code and an index. -/
structure TopRec where
  value : F32
  index : Nat
  deriving DecidableEq, Repr

/-- A value ranks above another; a NaN ranks below everything, zeros are equal (R120). -/
def fAbove (a b : F32) : Bool :=
  match f32v a, f32v b with
  | .nan, _ => false
  | _, .nan => true
  | x, y => y.lt x

/-- A record comes before another: the greater value, then the lower index. -/
def TopRec.before (a b : TopRec) : Bool := fAbove a.value b.value || (!fAbove b.value a.value && decide (a.index < b.index))

/-- The fill of records that no value takes. -/
def topFill : TopRec := ⟨0xFF800000#32, 0xFFFFFFFF⟩

/-- The `k` first records. -/
def topSelect (k : Nat) (rs : List TopRec) : List TopRec := rs.foldl (fun acc r => (insertBy TopRec.before r acc).take k) []

/-- The place of the list whose head comes first; the lowest list on equal heads. -/
def bestHead : List (List TopRec) → Nat → Option (Nat × TopRec) → Option (Nat × TopRec)
  | [], _, b => b
  | [] :: t, i, b => bestHead t (i + 1) b
  | (r :: _) :: t, i, none => bestHead t (i + 1) (some (i, r))
  | (r :: _) :: t, i, some (j, x) => bestHead t (i + 1) (if r.before x then some (i, r) else some (j, x))

/-- `k` steps of a merge. -/
def topMerge : Nat → List (List TopRec) → List TopRec
  | 0, _ => []
  | k + 1, ls => match bestHead ls 0 none with
    | none => []
    | some (i, r) => r :: topMerge k (ls.zipIdx.map fun (l, j) => if j = i then l.drop 1 else l)

/-- Bytes of records, filled up to `k`. -/
def topBytes (k : Nat) (rs : List TopRec) : Bytes :=
  (rs ++ List.replicate (k - rs.length) topFill).flatMap fun r => leBytes 4 r.value.toNat ++ leBytes 4 r.index

/-- What a TOPK command computes. -/
def topkRun (n : Nat) (q : QCmd) (s : State) : Run Unit := do
  let c := topkOf q.bytes
  need (topkCodesOk q.bytes) Cmd.command
  need (topkShapeOk q.bytes) Cmd.shape
  let rs ← if c.merge then (do
      let ls ← (List.range c.lists).mapM fun j => do
        let b ← opRead s n q (c.srcVa + j * c.stride) (8 * c.count)
        pure ((List.range c.count).map fun i => (⟨BitVec.ofNat 32 (fieldAt b (8 * i) 4), fieldAt b (8 * i + 4) 4⟩ : TopRec))
      pure (topMerge c.k ls))
    else (do
      let f := if c.inBf then 1 else 0
      let b ← opRead s n q c.srcVa (c.count * fltWidth f)
      pure (topSelect c.k ((List.range c.count).map fun i =>
        (⟨if c.inBf then ofBf16 (fieldAt b (2 * i) 2) else BitVec.ofNat 32 (fieldAt b (4 * i) 4), c.base + i⟩ : TopRec))))
  opWrite s n q c.dstVa (topBytes c.k rs)

/-- A TOPK command runs. -/
def topkCmd (n : Nat) (q : QCmd) : Act := runUnit n q [((topkOf q.bytes).dstVa, 8 * (topkOf q.bytes).k)] (topkRun n q)

/-! ## MATCH (R141 to R143) -/

/-- A MATCH command (Table 6.5). -/
structure MatchCmd where
  auto : Bool
  vectors : Nat
  length : Nat
  aVa : Nat
  bVa : Nat
  stride : Nat
  dstVa : Nat
  deriving DecidableEq, Repr

/-- The fields of Table 6.5. -/
def matchOf (b : Bytes) : MatchCmd :=
  { auto := bitOf (fieldAt b 1 1) 0, vectors := fieldAt b 2 2, length := fieldAt b 8 4, aVa := fieldAt b 0x10 8 % 2 ^ 57
    bVa := fieldAt b 0x18 8 % 2 ^ 57, stride := fieldAt b 0x20 8, dstVa := fieldAt b 0x28 8 % 2 ^ 57 }

/-- Rsvd fields of Table 6.5. -/
def matchCodesOk (b : Bytes) : Bool :=
  fieldAt b 1 1 < 2 && fieldAt b 4 2 == 0 && fieldAt b 7 1 == 0 && vaRsvdOk b [0x10, 0x18, 0x28] && allZero (slice b 0x30 12)

/-- Stated ranges of Table 6.5; SPARSITY.formats bit 4 is set. -/
def matchShapeOk (formats : Nat) (b : Bytes) : Bool :=
  let c := matchOf b
  stageOk (fieldAt b 0x3C 2) (fieldAt b 0x3E 2) && bitOf formats 4 && 1 ≤ c.vectors && c.vectors ≤ 4096 && 1 ≤ c.length &&
  c.length ≤ 16777216 && c.aVa % 8 == 0 && c.bVa % 64 == 0 && c.stride % 64 == 0

/-- Entries of a vector from entry `i` on, `left` of them in pieces of 256; each is checked before it is used (R151, R152).
`last` is one more than the index before, `base` the operand's base address. -/
def vectorEntries (s : State) (n : Nat) (q : QCmd) (va base length : Nat) :
    Nat → Nat → Nat → Nat → Run (List (Nat × F32))
  | 0, _, _, _ => pure []
  | fuel + 1, i, left, last => do
    if left = 0 then pure []
    else
      let k := min 256 left
      let b ← opRead s n q (va + 8 + 8 * i) (8 * k)
      let es := (List.range k).map fun j => (fieldAt b (8 * j) 4, (BitVec.ofNat 32 (fieldAt b (8 * j + 4) 4) : F32))
      es.zipIdx.forM fun ((x, _), j) => do
        let a := va + 8 + 8 * (i + j)
        if length ≤ x then sparseHalt 0x0A a base
        else if (if j = 0 then decide (x + 1 ≤ last) else decide (x ≤ (es.getD (j - 1) (0, 0)).1)) then sparseHalt 0x0B a base
        else pure ()
      let rest ← vectorEntries s n q va base length fuel (i + k) (left - k) ((es.getLastD (0, 0)).1 + 1)
      pure (es ++ rest)

/-- A sparse vector: its entries in ascending order. -/
def sparseVector (s : State) (n : Nat) (q : QCmd) (va base length : Nat) : Run (List (Nat × F32)) := do
  let count := fieldAt (← opRead s n q va 8) 0 4
  vectorEntries s n q va base length (min count (length + 1) / 256 + 1) 0 count 0

/-- The result of one vector: products in ascending order, added by the Neumaier step and folded once (R142). -/
def matchSum (a b : List (Nat × F32)) : F32 :=
  let p := b.foldl (fun (p : Pair) e => match a.find? (·.1 == e.1) with
    | some x => accAdd p (fMul x.2 e.2)
    | none => p) {}
  fAdd p.s p.c

/-- What a MATCH command computes. -/
def matchRun (n : Nat) (q : QCmd) (s : State) : Run Unit := do
  let c := matchOf q.bytes
  let st := (s.image q.ctx).sparsity
  need (matchCodesOk q.bytes) Cmd.command
  need (matchShapeOk st.formats q.bytes) Cmd.shape
  let a ← sparseVector s n q c.aVa c.aVa c.length
  if c.auto ∧ st.thrMatch * c.length < a.length * 100 ∧ c.length * 4 ≤ q.stage.2 * 32 then bump (Fld.coreCntSparseGather n) 1
  else gather fun t => { t with matchUnit := (a.map (·.1)).drop ((a.length - 1) / 256 * 256) }
  let ys ← (List.range c.vectors).mapM fun v => do
    let b ← sparseVector s n q (c.bVa + v * c.stride) c.bVa c.length
    pure (matchSum a b)
  opWrite s n q c.dstVa (ys.flatMap fun y => leBytes 4 y.toNat)

/-- A MATCH command runs. -/
def matchAct (n : Nat) (q : QCmd) : Act := runUnit n q [((matchOf q.bytes).dstVa, 4 * (matchOf q.bytes).vectors)] (matchRun n q)

/-! ## PREFLIGHT (R144 to R146) -/

/-- A PREFLIGHT command (Table 6.6). -/
structure PreCmd where
  fp8 : Bool
  groups : Nat
  audit : Nat
  columns : Nat
  hVa : Nat
  vVa : Nat
  dst0 : Nat
  dst1 : Nat
  missThr : F32
  deriving DecidableEq, Repr

/-- The fields of Table 6.6. -/
def preOf (b : Bytes) : PreCmd :=
  { fp8 := bitOf (fieldAt b 1 1) 0, groups := fieldAt b 2 2, audit := fieldAt b 4 1, columns := fieldAt b 5 1
    hVa := fieldAt b 0x10 8 % 2 ^ 57, vVa := fieldAt b 0x18 8 % 2 ^ 57, dst0 := fieldAt b 0x20 8 % 2 ^ 57
    dst1 := fieldAt b 0x28 8 % 2 ^ 57, missThr := BitVec.ofNat 32 (fieldAt b 0x30 4) }

/-- Rsvd fields of Table 6.6. -/
def preCodesOk (b : Bytes) : Bool :=
  fieldAt b 1 1 < 2 && fieldAt b 7 5 == 0 && vaRsvdOk b [0x10, 0x18, 0x20, 0x28] && fieldAt b 0x34 8 == 0

/-- Stated ranges of Table 6.6. -/
def preShapeOk (b : Bytes) : Bool :=
  let c := preOf b
  stageOk (fieldAt b 0x3C 2) (fieldAt b 0x3E 2) && 1 ≤ c.groups && c.groups ≤ 1024 && c.audit ≤ 64 && 1 ≤ c.columns && c.columns ≤ 64 &&
  [c.hVa, c.vVa, c.dst0, c.dst1].all (· % 64 == 0) && fFin c.missThr && !(fLt c.missThr 0#32)

/-- The aggregate score of a bundle: the greatest of its column scores. -/
def bundleScore (hs : List (List Fv)) (v : List Fv) : F32 :=
  (hs.map fun h => cuSum 0 (List.zipWith (fun a b => toF32 (Fv.mul a b)) h v)).foldl (fun m x => if fAbove x m then x else m) 0x7FC00000#32

/-- Bundles in descending order of score; ties go to the lower bundle. -/
def rankBundles (scores : List F32) : List Nat :=
  (sortBy TopRec.before (scores.zipIdx.map fun (x, i) => ⟨x, i⟩)).map (·.index)

/-- Active and audit bundles, each ascending (R145). -/
def preflightLists (frac g audit : Nat) (rank : List Nat) : List Nat × List Nat :=
  if frac = 0 then (List.range g, [])
  else
    let n := max 1 (ceilDiv (g * frac) 1024)
    (sortBy (fun a b => decide (a < b)) (rank.take n), sortBy (fun a b => decide (a < b)) ((rank.drop n).take (min audit (g - n))))

/-- A list block (Table 6.7); bytes after its entries are not interpreted, and their values are open. -/
def listBlock (free : Nat) (c : PreCmd) (tag serial : Nat) (active audit : List Nat) : Bytes :=
  let head := leBytes 2 active.length ++ leBytes 2 audit.length ++ leBytes 2 c.groups ++ leBytes 2 0 ++ leBytes 4 c.missThr.toNat ++
    leBytes 2 tag ++ leBytes 2 0 ++ leBytes 8 serial ++ zeros 40 ++ (active ++ audit).flatMap (leBytes 2)
  head ++ (List.range (4096 - head.length)).map fun i => Config.freeByte free (head.length + i)

/-- What a PREFLIGHT command computes. -/
def preRun (n : Nat) (q : QCmd) (s : State) : Run Unit := do
  let c := preOf q.bytes
  need (preCodesOk q.bytes) Cmd.command
  need (preShapeOk q.bytes) Cmd.shape
  let f := if c.fp8 then 2 else 1
  let w := fltWidth f
  let hs ← (List.range c.columns).mapM fun i => do
    let h ← opRead s n q (c.hVa + 256 * i) 256
    pure ((fltUnpack 0 h).map fun x => Fv.decode (fltFmt f) (x.encode (fltFmt f)))
  let scores ← (List.range c.groups).mapM fun g => do
    pure (bundleScore hs (fltUnpack f (← opRead s n q (c.vVa + 64 * g * w) (64 * w))))
  let (active, audit) := preflightLists (s.image q.ctx).sparsity.preflightFrac c.groups c.audit (rankBundles scores)
  gather fun t => { t with extra := t.extra ++ [.draw] }
  let l := listBlock s.free c q.periodTag (if q.periodTag = 0 then 0 else (s.period q.ctx).serial) active audit
  ([c.dst0, c.dst1].filter (· != 0)).forM fun d => opWrite s n q d l

/-- A PREFLIGHT command runs. -/
def preflightCmd (n : Nat) (q : QCmd) : Act :=
  let c := preOf q.bytes
  runUnit n q (([c.dst0, c.dst1].filter (· != 0)).map fun d => (d, 4096)) (preRun n q)

/-! ## DMA (R164, R165) -/

/-- Rsvd fields and reserved kinds of Table 7.2. -/
def dmaCodesOk (b : Bytes) : Bool :=
  fieldAt b 1 1 < 2 && fieldAt b 2 4 == 0 && fieldAt b 7 1 == 0 && vaRsvdOk b [0x10, 0x18] && allZero (slice b 0x28 20)

/-- Stated ranges of Table 7.2. -/
def dmaShapeOk (b : Bytes) : Bool :=
  let n := fieldAt b 8 4
  stageOk (fieldAt b 0x3C 2) (fieldAt b 0x3E 2) && n % 64 == 0 && 64 ≤ n && n ≤ 268435456 && fieldAt b 0x10 8 % 64 == 0 &&
  fieldAt b 0x18 8 % 64 == 0 && fieldAt b 0x3E 2 % 2 == 0 && (if fieldAt b 1 1 = 1 then fieldAt b 0x10 8 == 0 else fieldAt b 0x20 8 == 0)

/-- A range reaches into a remote window (R165): its first such address. -/
def State.windowAt (s : State) (ag : Agent) (va n : Nat) : Option Nat :=
  (pagePieces va n).findSome? fun (a, _) => match s.xlate ag a 2 with
    | .ok w => if s.region w.pa == .window then some a else none
    | .error _ => none

/-- What a DMA command does: a copy through the staging region in chunks of half of it, or a fill. -/
def dmaRun (n : Nat) (q : QCmd) (s : State) : Run Unit := do
  let b := q.bytes
  let src := fieldAt b 0x10 8 % 2 ^ 57
  let dst := fieldAt b 0x18 8 % 2 ^ 57
  let len := fieldAt b 8 4
  need (dmaCodesOk b) Cmd.command
  need (dmaShapeOk b) Cmd.shape
  match s.windowAt (tileAgent n q) dst len with
  | some a => throw (.fault Cmd.translation a true 0 0)
  | none => pure ()
  if fieldAt b 1 1 = 1 then opWrite s n q dst ((List.replicate (len / 8) (slice b 0x20 8)).flatten)
  else
    let chunk := q.stage.2 / 2 * 64
    let overlap := rangesMeet src len dst len
    if overlap then gather fun t => { t with extra := t.extra ++ [.draw] } else pure ()
    (pieces chunk (len / chunk + 2) 0 len).forM fun (o, k) => do
      let d ← opRead s n q (src + o) k
      opWrite s n q (dst + o) (d.zipIdx.map fun (x, i) =>
        if overlap ∧ src ≤ dst + o + i ∧ dst + o + i < src + len then Config.freeByte s.free (dst + o + i) else x)

/-- A DMA command runs. -/
def dmaCmd (n : Nat) (q : QCmd) : Act := runUnit n q [(fieldAt q.bytes 0x18 8 % 2 ^ 57, fieldAt q.bytes 8 4)] (dmaRun n q)

/-! ## The commands -/

/-- COMBINE (R109 to R114). -/
def execCombine (core : CoreId) (s : State) : Host.Outcome State Fault Refusal := done (runNext core 0x0C (combCmd core)) s

/-- TOPK (R119 to R121). -/
def execTopk (core : CoreId) (s : State) : Host.Outcome State Fault Refusal := done (runNext core 9 (topkCmd core)) s

/-- MATCH (R141 to R143). -/
def execMatchCmd (core : CoreId) (s : State) : Host.Outcome State Fault Refusal := done (runNext core 0x0A (matchAct core)) s

/-- PREFLIGHT (R144 to R146). -/
def execPreflight (core : CoreId) (s : State) : Host.Outcome State Fault Refusal := done (runNext core 0x0F (preflightCmd core)) s

/-- DMA (R164, R165). -/
def execDma (core : CoreId) (s : State) : Host.Outcome State Fault Refusal := done (runNext core 0x0D (dmaCmd core)) s

end Sys2Proof.Machine
end

