-- ==== Sys2Proof/Machine/Views.lean ====
section
/-! DEFINITION. What a read of a register returns: the value held, or a view of the state, with the access types of Table 0.3.
R5 to R7, R41, R79, R128, R197, R210, R227, R253, R254, R278, R285, R299, R329, R365, R386, R405. -/

namespace Sys2Proof.Machine

open Sys2Proof

/-- A word with some of its fields replaced by views. -/
def putFields (w : Word) (vs : List (Fld × Nat)) : Word := vs.foldl (fun w p => p.1.put w p.2) w

/-- The head of an error log as its two registers show it; `valid` is the value of the valid bit. -/
def logHead (valid : Nat) (log : List (Nat × Nat)) (second : Bool) : Word :=
  match log with
  | [] => 0
  | (a, b) :: _ => BitVec.ofNat 64 (if second then b else valid + a)

/-- Lines watched: tail lines of enabled rings and head lines of PAUSED requests, while CXL.cache is enabled (R285). -/
def State.watchedLines (s : State) : Nat :=
  if s.flag Fld.cxlStatusCacheEnabled then s.ringsOn.length + min 65472 s.pausedOrder.length else 0

/-- PAUSED requests without a watch entry. -/
def State.polledRequests (s : State) : Nat :=
  if s.flag Fld.cxlStatusCacheEnabled then s.pausedOrder.length - 65472 else s.pausedOrder.length

/-- The route to an identity as HL_RDATA shows it. -/
def State.routeWord (s : State) (dst : Nat) : Word :=
  match tabGet (fun _ => none) s.fabric.routes dst with
  | none => 0
  | some r => BitVec.ofNat 64 (2 ^ 15 + r.hops * 2 ^ 8 + r.link)

/-- A request slot as REQ_QDATA shows it. -/
def State.slotWord (s : State) (k : Nat) : Word :=
  let r := s.req k
  BitVec.ofNat 64 (r.state * 2 ^ 60 + r.ctx * 2 ^ 56 + r.endStatus * 2 ^ 48 + r.position)

/-- The accumulator that CORE_ACC_SEL names. -/
def State.accSeen (s : State) (n : Nat) : AccEntry :=
  tabGet (fun _ => {}) (s.core n).acc (s.fget (Fld.coreAccSelTile n) * 16384 + s.fget (Fld.coreAccSelRow n) * 64 +
    s.fget (Fld.coreAccSelColumn n))

/-- The stochastic-rounding lanes of a core in the context its cluster holds. -/
def State.srSeen (s : State) (n : Nat) : List LaneRole :=
  match (s.cluster (clusterOf n)).ctx with
  | none => []
  | some c => s.srLanes c n

/-- The counter of a lane of a core. -/
def State.srCounter (s : State) (n lane : Nat) : Nat :=
  match (s.cluster (clusterOf n)).ctx with
  | none => 0
  | some c => tabGet (fun _ => 0) s.srCtr (srKey c n lane)

/-- CORE_STATE of a core. -/
def State.coreStateWord (s : State) (n : Nat) : Word :=
  let q := (s.core n).queue
  putFields (s.rd (Reg.coreState n))
    [(Fld.coreStateContext n, ((s.cluster (clusterOf n)).ctx).getD 0), (Fld.coreStateQueueUsed n, q.length),
     (Fld.coreStateQuiesced n, b2n (s.flag (Fld.coreCtrlQuiesce n) && q.isEmpty)), (Fld.coreStateBusy n, b2n (!q.isEmpty)),
     (Fld.coreStatePower n, if s.coreIdle n then 1 else s.fget (Fld.coreStatePower n))]

/-- Registers of a per-core block that show other state. -/
def State.coreView (s : State) (a : Nat) : Word :=
  let n := (a - Config.coreRegBase) / 0x1000
  let off := (a - Config.coreRegBase) % 0x1000
  if off = 0x18 then s.coreStateWord n
  else if off = 0x808 then
    let e := s.accSeen n
    BitVec.ofNat 64 (e.blockSum.toNat * 2 ^ 32 + e.clip % 256 * 2 ^ 24 + e.block % 2 ^ 24)
  else if off = 0x810 then
    let e := s.accSeen n
    BitVec.ofNat 64 (e.sum.toNat * 2 ^ 32 + e.comp.toNat)
  else if off = 0x840 then BitVec.ofNat 64 ((s.srSeen n).foldl (fun w l => w ||| 2 ^ l.lane) 0)
  else if 0x848 ≤ off ∧ off < 0x868 then
    match (s.srSeen n)[(off - 0x848) / 8]? with
    | some l => BitVec.ofNat 64 (l.seed % 2 ^ 32 * 2 ^ 32 + 0x80 + l.lane)
    | none => 0
  else if 0x868 ≤ off ∧ off < 0x888 then
    match (s.srSeen n)[(off - 0x868) / 8]? with
    | some l => BitVec.ofNat 64 (s.srCounter n l.lane)
    | none => 0
  else s.rd a

/-- The oldest entry of a tier's error log. -/
def State.tierLog (s : State) (t : Nat) : List (Nat × Nat) := (s.tier t).log.map fun e => (e.log0, e.log1)

/-- Registers of the memory blocks that show other state. -/
def State.memView (s : State) (a : Nat) : Word :=
  if a = Reg.memfErrLog0 then logHead 1 (s.tierLog 0) false
  else if a = Reg.memfErrLog1 then logHead 1 (s.tierLog 0) true
  else if a = Reg.memsErrLog0 then logHead 1 (s.tierLog 1) false
  else if a = Reg.memsErrLog1 then logHead 1 (s.tierLog 1) true
  else if a = Reg.memsMigStatus then
    BitVec.ofNat 64 (s.mig.poolFast.length * 2 ^ 48 + s.mig.poolSlow.length * 2 ^ 32 + s.mig.inflight.length * 2 ^ 24)
  else if a = Reg.xltRetireStatus then putFields (s.rd a) [(Fld.xltRetireStatusCount, s.xlt.retired.length)]
  else if a = Reg.xltFaultLog0 then logHead (2 ^ 63) (s.xlt.log.map fun e => (e.va, e.info)) false
  else if a = Reg.xltFaultLog1 then logHead (2 ^ 63) (s.xlt.log.map fun e => (e.va, e.info)) true
  else if a = Reg.cmpStatus then
    putFields (s.rd a) [(Fld.cmpStatusPackersBusy, s.packs.length), (Fld.cmpStatusHouseTest, s.fget Fld.cmpCtrlHouseOnly),
      (Fld.cmpStatusHouseRecovery, b2n (s.basic || s.repairing))]
  else if a = Reg.cmpErrLog0 then logHead (2 ^ 63) s.cmpErrs false
  else if a = Reg.cmpErrLog1 then logHead (2 ^ 63) s.cmpErrs true
  else s.rd a

/-- Registers of the engine, host and fabric blocks that show other state. -/
def State.hubView (s : State) (a : Nat) : Word :=
  if a = Reg.reqStatus then putFields (s.rd a) [(Fld.reqStatusInUse, (s.reqs.filter (·.2.state != 0)).length)]
  else if a = Reg.reqQdata then s.slotWord (s.fget Fld.reqQselSlot)
  else if a = Reg.attErrLog0 then logHead (2 ^ 63) s.attErrs false
  else if a = Reg.attErrLog1 then logHead (2 ^ 63) s.attErrs true
  else if a = Reg.cxlWatch then BitVec.ofNat 64 (s.watchedLines * 2 ^ 32 + s.polledRequests)
  else if a = Reg.hlErrLog0 then logHead (2 ^ 63) s.hlErrs false
  else if a = Reg.hlErrLog1 then logHead (2 ^ 63) s.hlErrs true
  else if a = Reg.hlRdata then s.routeWord (s.fget Fld.hlRselDst)
  else s.rd a

/-- Registers of the security, power, fault and loader blocks that show other state. -/
def State.ctlView (s : State) (a : Nat) : Word :=
  if Reg.secFprint 0 ≤ a ∧ a < Reg.secFprint 6 then
    BitVec.ofNat 64 (leNat (slice (digestBytes Config.fingerprint) (a - Reg.secFprint 0) 8))
  else if a = Reg.pwrStatus then putFields (s.rd a) [(Fld.pwrStatusVinMv, (Config.sensor 0 s.free).toNat)]
  else if a = Reg.fltStatus then
    putFields (s.rd a) [(Fld.fltStatusInService, if s.fget Fld.hlFabricStage = 0 then 0 else s.servedAll),
      (Fld.fltStatusRepairs, s.flt.repairs.length), (Fld.fltStatusQueued, s.flt.waiting.length)]
  else if Reg.impDigest 0 ≤ a ∧ a < Reg.impDigest 6 then
    BitVec.ofNat 64 (leNat (slice (digestBytes (s.image (s.fget Fld.impDigestSelContext)).digest) (a - Reg.impDigest 0) 8))
  else s.rd a

/-- The word of an assigned register before access types. -/
def State.viewWord (s : State) (a : Nat) : Word :=
  if Config.coreRegBase ≤ a then s.coreView a
  else if a < Reg.reqCap then s.memView a
  else if a < Reg.secCap then s.hubView a
  else s.ctlView a

/-- The bits of a field in a word. -/
def RegField.mask (f : RegField) : Nat := 2 ^ (f.hi + 1) - 2 ^ f.lo

/-- Whether a read shows a field: WO reads zero, DBG reads zero outside debug mode (Table 0.3). -/
def RegField.shown (f : RegField) (debug : Bool) : Bool :=
  match f.acc with
  | .ro | .rw | .w1c | .boot => true
  | .wo | .dbgWo => false
  | .dbgRo | .dbgRw => debug

/-- The bits that a read of a register may show; HUB_ID and IMP_CTX_STATE are among the rows. -/
def RegRow.readMask (r : RegRow) (debug : Bool) : Nat :=
  (r.fields.filter (·.shown debug)).foldl (fun m f => m ||| f.mask) 0

/-- A whole register as a 64-bit read returns it; an unassigned offset reads zero (R5). -/
def State.regWord (s : State) (a : Nat) : Word :=
  match regRow a with
  | none => 0
  | some (r, _) => s.viewWord a &&& BitVec.ofNat 64 (r.readMask s.debug)

/-- A read of `width` bytes at a register address (R5). -/
def State.readRegister (s : State) (a width : Nat) : Word :=
  if a % width ≠ 0 then 0
  else if width = 8 then s.regWord a
  else if width = 4 then (if a % 8 = 4 then s.regWord (a - 4) >>> 32 else s.regWord a &&& 0xFFFFFFFF#64)
  else 0

end Sys2Proof.Machine
end

