-- ==== Sys2Proof/Machine/Registers.lean ====
section
/-! DEFINITION. Writes of registers: widths, access types, values that have no effect, and the actions that writes carry.
R5 to R7, R168, R171, R177, R189, R192, R203, R207, R213, R232, R253, R278, R281, R292, R297, R314, R359, R378, R416. Log entry 50. -/

namespace Sys2Proof.Machine

open Sys2Proof

/-! ## What a write covers (R5) -/

/-- A write as it reaches a register: the lowest bit it covers, the bit after the highest, and its data in place. -/
structure RegWrite where
  lo : Nat
  hi : Nat
  data : Nat
  deriving DecidableEq, Repr

/-- An aligned write of 4 or 8 bytes; no other write has an effect. -/
def regWriteOf (a width : Nat) (v : Word) : Option RegWrite :=
  if width = 8 ∧ a % 8 = 0 then some ⟨0, 64, v.toNat⟩
  else if width = 4 ∧ a % 8 = 0 then some ⟨0, 32, v.toNat % 2 ^ 32⟩
  else if width = 4 ∧ a % 8 = 4 then some ⟨32, 64, v.toNat % 2 ^ 32 * 2 ^ 32⟩
  else none

/-- The write covers the whole of a field. -/
def RegWrite.covers (w : RegWrite) (f : Fld) : Bool := decide (w.lo ≤ f.lo ∧ f.lo + f.width ≤ w.hi)

/-- The value that a write gives an RW operand of an action: the one written, or the one stored. -/
def RegWrite.rw (w : RegWrite) (s : State) (f : Fld) : Nat := if w.covers f then bitsOf w.data f.lo f.width else s.fget f

/-- The value that a write gives a WO operand: 0 where it is not covered. -/
def RegWrite.wo (w : RegWrite) (f : Fld) : Nat := if w.covers f then bitsOf w.data f.lo f.width else 0

/-! ## Values that have no effect -/

/-- Fields that take only values of a range: a write of another value has no effect on the field. -/
def valueRanges : List (Fld × Nat × Nat) :=
  [(Fld.memfScrubHours, 1, 168), (Fld.memsScrubHours, 1, 168), (Fld.memsMigCtrlBwShare, 1, 100), (Fld.cxlIrqCoalUsec, 0, 1000),
   (Fld.hlTimeoutCreditMs, 1, 1000), (Fld.hlTimeoutReqUs, 10, 65535), (Fld.pwrLimitEmergW, 900, 1600),
   (Fld.pwrLimitTdpW, 900, 1600), (Fld.pwrThermThrottleC, 85, 105), (Fld.pwrThermHysteresisC, 1, 15),
   (Fld.fltPolicyHangMs, 1, 255), (Fld.fltGoldCount, 0, 64), (Fld.secSliceUs, 100, 1000000)] ++
  (List.range 16).map fun c => (Fld.cmpRgnCount c, 0, 256)

/-- A field at a place of a register may take a value. -/
def State.mayTake (s : State) (a lo v : Nat) : Bool :=
  if a = Reg.cxlWin then s.inTier (v * 2 ^ 34)
  else if a = Reg.reqTable then !s.flag Fld.reqCtrlEnable && decide ((v + 1) * 2 ^ 26 ≤ Config.fastEnd)
  else if a = Reg.memsHdm then !s.port.hdmCommitted
  else if a = Reg.hlOuttab ∧ lo = Fld.hlOuttabBase.lo then !s.flag Fld.hlOuttabEnable
  else if Reg.attGeom 0 ≤ a ∧ a < Reg.attGeom 16 then (s.slotsOf ((a - Reg.attGeom 0) / 8)).isEmpty
  else match valueRanges.find? fun p => p.1.addr == a && p.1.lo == lo with
    | some (_, x, y) => decide (x ≤ v ∧ v ≤ y)
    | none => true

/-! ## Plain writes (Table 0.3) -/

/-- A field of a register after a write: RW fields take the value, W1C bits are cleared, others stay. -/
def State.fieldWrite (s : State) (a : Nat) (w : RegWrite) (old : Word) (f : RegField) : Word :=
  let g : Fld := ⟨a, f.lo, f.hi + 1 - f.lo⟩
  let v := bitsOf w.data f.lo g.width
  match f.acc with
  | .rw => if w.covers g ∧ s.mayTake a f.lo v then g.put old v else old
  | .dbgRw => if w.covers g ∧ s.debug then g.put old v else old
  | .w1c => if w.covers g ∨ f.perBit then g.put old (g.of (old &&& ~~~(BitVec.ofNat 64 w.data))) else old
  | _ => old

/-- A register after a plain write. -/
def State.merged (s : State) (a : Nat) (r : RegRow) (w : RegWrite) : Word :=
  r.fields.foldl (fun old f => s.fieldWrite a w old f) (s.rd a)

/-- A plain write. -/
def plainWrite (a : Nat) (r : RegRow) (w : RegWrite) : Act := fun s => [.reg a (s.merged a r w)]

/-- A plain write of a register that leaves one field to an action. -/
def plainBut (a : Nat) (r : RegRow) (f : Fld) (w : RegWrite) : Act := fun s =>
  [.reg a (f.put (s.merged a r w) (s.fget f))]

/-! ## Rings -/

/-- A ring register of the device: its enable, its size code, whether operations of its ring are in flight, and what a new
enable does. -/
structure RingReg where
  enable : Fld
  size : Fld
  busy : Bool
  start : List Upd

/-- A descriptor ring starts with no descriptor taken. -/
def ringStarts (i : Nat) : List Upd := [.devRing i fun x => { x with taken := 0, tail := 0 }]

/-- A completion ring starts with no record written. -/
def cplStarts (i : Nat) : List Upd := [.devRing i fun x => { x with produced := 0, head := 0 }]

/-- The device ring that a register names (R192, R222, R260, R273, R362, R388). -/
def State.ringReg (s : State) (a : Nat) : Option RingReg :=
  let mig := s.mig.inflight != []
  let packs := s.packs != []
  let sec := s.sec.imports != []
  if a = Reg.memsMigRing then some ⟨Fld.memsMigRingEnable, Fld.memsMigRingSizeCode, mig, ringStarts 0⟩
  else if a = Reg.memsMigCpl then some ⟨Fld.memsMigCplEnable, Fld.memsMigCplSizeCode, mig, cplStarts 0⟩
  else if a = Reg.cmpJobRing then some ⟨Fld.cmpJobRingEnable, Fld.cmpJobRingSizeCode, packs, ringStarts 1⟩
  else if a = Reg.cmpJobCpl then some ⟨Fld.cmpJobCplEnable, Fld.cmpJobCplSizeCode, packs, cplStarts 1⟩
  else if a = Reg.attOpRing then some ⟨Fld.attOpRingEnable, Fld.attOpRingSizeCode, false, ringStarts 2⟩
  else if a = Reg.attOpCpl then some ⟨Fld.attOpCplEnable, Fld.attOpCplSizeCode, false, cplStarts 2⟩
  else if a = Reg.secOpRing then some ⟨Fld.secOpRingEnable, Fld.secOpRingSizeCode, sec, ringStarts 3⟩
  else if a = Reg.secOpCpl then some ⟨Fld.secOpCplEnable, Fld.secOpCplSizeCode, sec, cplStarts 3⟩
  else if a = Reg.fltRing then some ⟨Fld.fltRingEnable, Fld.fltRingSizeCode, false, cplStarts 4⟩
  else if Reg.attFree 0 ≤ a ∧ a < Reg.attFree 16 then
    let c := (a - Reg.attFree 0) / 16
    if (a - Reg.attFree 0) % 16 = 0 then some ⟨Fld.attFreeEnable c, Fld.attFreeSizeCode c, false,
      [.pages fun g => { g with freeTaken := tabSet (fun _ => 0) g.freeTaken c 0 }]⟩
    else some ⟨Fld.attRelEnable c, Fld.attRelSizeCode c, false,
      [.pages fun g => { g with relProduced := tabSet (fun _ => 0) g.relProduced c 0 }]⟩
  else none

/-- A write of a ring register: a size code of 7 or more makes it void, enable waits for the operations in flight, and a ring
that starts counts from 0. -/
def ringWrite (x : RingReg) (a : Nat) (r : RegRow) (w : RegWrite) : Act := fun s =>
  if w.covers x.size ∧ 7 ≤ bitsOf w.data x.size.lo 4 then []
  else if x.busy then plainBut a r x.enable w s
  else seqA [plainWrite a r w, if !s.flag x.enable ∧ w.rw s x.enable = 1 then act x.start else nothing,
    if a = Reg.fltRing then pollFaults else nothing] s

/-- A write of REQ_CRING or REQ_CCPL: the other fields are writable while enable is 0; the ring starts or stops (R232). -/
def cringWrite (a : Nat) (row : RegRow) (r : RingId) (w : RegWrite) : Act := fun s =>
  let cpl := (a - Reg.reqCring 0) % 16 = 8
  let en := if cpl then Fld.reqCcplEnable r else Fld.reqCringEnable r
  let size := if cpl then Fld.reqCcplSizeCode r else Fld.reqCringSizeCode r
  let on := w.rw s en = 1
  if w.covers size ∧ 7 ≤ bitsOf w.data size.lo 4 then []
  else if s.flag en then (if on then [] else if cpl then [.fld en 0] else ringDisable r s)
  else if on ∧ s.ringBusy r then []
  else seqA [plainBut a row en w, if !on then nothing else if cpl then cplEnable r else ringEnable r] s

/-! ## Registers whose writes carry actions -/

/-- The log that a write of a valid bit pops. -/
def logPop (a : Nat) : Option (Fld × List Upd) :=
  if a = Reg.memfErrLog0 then some (Fld.memfErrLog0Valid, [.tier 0 fun x => { x with log := x.log.drop 1 }])
  else if a = Reg.memsErrLog0 then some (Fld.memsErrLog0Valid, [.tier 1 fun x => { x with log := x.log.drop 1 }])
  else if a = Reg.xltFaultLog0 then some (Fld.xltFaultLog0Valid, [.xlt fun x => { x with log := x.log.drop 1 }])
  else if a = Reg.cmpErrLog0 then some (Fld.cmpErrLog0Valid, [.cmpErrs (·.drop 1)])
  else if a = Reg.attErrLog0 then some (Fld.attErrLog0Valid, [.attErrs (·.drop 1)])
  else if a = Reg.hlErrLog0 then some (Fld.hlErrLog0Valid, [.hlErrs (·.drop 1)])
  else none

/-- A galley debug operation. -/
def galDbgWrite (a : Nat) (r : RegRow) (w : RegWrite) : Act := fun s =>
  let op := w.wo Fld.galDbgSelOp
  let n := w.rw s Fld.galDbgSelCore
  let line := w.rw s Fld.galDbgSelLine
  seqA [plainWrite a r w, if op = 1 ∨ op = 2 then galleyDebug (op == 2) n line else nothing] s

/-- A write of POOL_MARCH_CTRL. -/
def marchWrite (a : Nat) (r : RegRow) (w : RegWrite) : Act := fun s =>
  seqA [plainWrite a r w, if w.wo Fld.poolMarchCtrlStart = 1 then
    marchBegin (w.rw s Fld.poolMarchCtrlDieMask) (w.rw s Fld.poolMarchCtrlPreserve == 1) else nothing] s

/-- A write of PWR_CLUSTER. -/
def clusterWrite (k : Nat) (w : RegWrite) : Act :=
  if !w.covers (Fld.pwrClusterTarget k) then nothing
  else match bitsOf w.data 0 2 with
    | 0 => targetOn k
    | 1 => targetGated k
    | 2 => targetOff k
    | _ => nothing

/-- A write of HL_LCTRL. -/
def lctrlWrite (l : Nat) (w : RegWrite) : Act :=
  if !w.covers (Fld.hlLctrlDisable l) then nothing
  else seqA [if bitOf w.data 0 then disableLink l else enableLink l, if bitOf w.data 1 then retrainLink l else nothing]

/-- A write of SEC_DBG. -/
def secDbgWrite (a : Nat) (r : RegRow) (w : RegWrite) : Act :=
  seqA [plainBut a r Fld.secDbgEnable w, if !w.covers Fld.secDbgEnable then nothing
    else if bitOf w.data 0 then debugOn else debugOff]

/-- Actions of the memory and compression blocks; none for a register without one. -/
def memAction (a : Nat) (r : RegRow) (w : RegWrite) : Option Act :=
  if a = Reg.galDbgSel then some (galDbgWrite a r w)
  else if a = Reg.poolMarchCtrl then some (marchWrite a r w)
  else if Reg.poolOwner 0 ≤ a ∧ a < Reg.poolOwner 256 then
    let b := (a - Reg.poolOwner 0) / 8
    some (seqA [plainBut a r (Fld.poolOwnerOwner b) w,
      if w.covers (Fld.poolOwnerOwner b) then poolOwner b (bitsOf w.data 0 16) else nothing])
  else if Reg.poolState 0 ≤ a ∧ a < Reg.poolState 256 then
    let b := (a - Reg.poolState 0) / 8
    some (if w.covers (Fld.poolStateTarget b) then poolTarget b (bitsOf w.data 0 2) else nothing)
  else if a = Reg.xltInvCtrl then
    some (if w.covers Fld.xltInvCtrlContext then invalidate (w.wo Fld.xltInvCtrlContext) (w.wo Fld.xltInvCtrlSizeLog2) else nothing)
  else if a = Reg.xltRetire then
    some (if w.covers Fld.xltRetirePage then retirePage (w.wo Fld.xltRetirePage) else nothing)
  else if a = Reg.cmpInv then
    some (if w.wo Fld.cmpInvGo = 1 then cmpInvalidate_ (w.wo Fld.cmpInvContext) else nothing)
  else none

/-- Actions of the other blocks. -/
def hubAction (a : Nat) (r : RegRow) (w : RegWrite) : Option Act :=
  if a = Reg.reqCtrl then some (if w.covers Fld.reqCtrlEnable then engineEnable (bitOf w.data 0) else nothing)
  else if a = Reg.attLedger then
    some (if w.covers Fld.attLedgerEnable then fun s => ledgerWrite (w.rw s Fld.attLedgerBase) (bitOf w.data 0) s else nothing)
  else if a = Reg.hlOutinv then
    some (seqA [plainWrite a r w, if w.wo Fld.hlOutinvGo = 1 then fun s => outInvalidate (s.fget Fld.hlOutinvSlot) s else nothing])
  else if Reg.hlLctrl 0 ≤ a ∧ a < Reg.hlLctrl 12 ∧ (a - Reg.hlLctrl 0) % 0x40 = 0 then some (lctrlWrite ((a - Reg.hlLctrl 0) / 0x40) w)
  else if a = Reg.secDbg then some (secDbgWrite a r w)
  else if a = Reg.pwrReset then
    some (if 1 ≤ w.wo Fld.pwrResetKind ∧ w.wo Fld.pwrResetKind ≤ 5 then
      resetRequest (w.wo Fld.pwrResetKind) (w.wo Fld.pwrResetTarget) else nothing)
  else if Reg.pwrCluster 0 ≤ a ∧ a < Reg.pwrCluster 64 then some (clusterWrite ((a - Reg.pwrCluster 0) / 8) w)
  else if a = Reg.impCtrl then
    some (fun s => if s.flag Fld.impStatusBusy then [.fld Fld.impStatusOverrun 1]
      else if 1 ≤ w.wo Fld.impCtrlOp ∧ w.wo Fld.impCtrlOp ≤ 4 then loaderOp (w.wo Fld.impCtrlOp) (w.wo Fld.impCtrlContext) s else [])
  else if a = Reg.impSrc then
    some (fun s => if w.covers Fld.impSrcAddr then [.fld Fld.impSrcAddr (w.rw s Fld.impSrcAddr / 64 * 64)] else [])
  else none

/-- The effect of a write on an assigned register. -/
def regAction (a : Nat) (r : RegRow) (w : RegWrite) : Act := fun s =>
  match s.ringReg a with
  | some x => ringWrite x a r w s
  | none =>
    match logPop a with
    | some (f, us) => if w.wo f = 1 then us else []
    | none =>
      let k := (a - Reg.reqCring 0) / 16
      if h : Reg.reqCring 0 ≤ a ∧ k < 64 then cringWrite a r ⟨k, h.2⟩ w s
      else match (memAction a r w).orElse fun _ => hubAction a r w with
        | some f => f s
        | none => plainWrite a r w s

/-! ## Which writes of the host act (R295, R297, R298) -/

/-- Registers whose writes version 2.0 leaves without effect. -/
def onlyThree (a : Nat) : Bool :=
  [Reg.impCtrl, Reg.reqCtrl, Reg.attLedger, Reg.memsMigRing, Reg.cmpJobRing, Reg.attOpRing].contains a ||
  (decide (Reg.reqCring 0 ≤ a ∧ a < Reg.reqCring 64) && a % 16 == 0) || decide (Reg.hlCap ≤ a ∧ a < Reg.secCap)

/-- A write of the host to a register acts. -/
def State.writeActs (s : State) (a : Nat) : Bool :=
  if Reg.cxlCap ≤ a ∧ a < Reg.hlCap then !s.port.ioInsecure
  else if onlyThree a then s.bound3
  else s.bound

/-- A write of `width` bytes at a register address. -/
def regWrite (a width : Nat) (v : Word) : Act := fun s =>
  match regWriteOf a width v with
  | none => []
  | some w =>
    match regRow (a / 8 * 8) with
    | none => []
    | some (r, _) => if s.writeActs (a / 8 * 8) then regAction (a / 8 * 8) r w s else []

/-! ## BAR2 (R280, R292) -/

/-- A word of the MSI-X table. -/
def msixWord (i : Nat) (v : Nat) (e : MsixEntry) : MsixEntry :=
  match i with
  | 0 => { e with addr := e.addr / 2 ^ 32 * 2 ^ 32 + v / 4 * 4 }
  | 1 => { e with addr := v * 2 ^ 32 + e.addr % 2 ^ 32 }
  | 2 => { e with data := v }
  | _ => { e with masked := v % 2 == 1 }

/-- A write of BAR2: its MSI-X table has 96 entries of 16 bytes from offset 0x1_8000; the pending bits are read-only, and of the CXL
registers the manual gives none but those that have commands of their own (log entry 56). A vector that is unmasked is sent when it
is pending. -/
def bar2Write (off width : Nat) (v : Word) : Act := fun s =>
  let k := (off - 0x1_8000) / 16
  let i := (off - 0x1_8000) % 16 / 4
  if off < 0x1_8000 ∨ 96 ≤ k ∨ !((width = 4 ∨ width = 8) ∧ off % width = 0) ∨ s.port.ioInsecure then []
  else
    let put (e : MsixEntry) : MsixEntry :=
      if width = 4 then msixWord i (v.toNat % 2 ^ 32) e else msixWord (i + 1) (v.toNat / 2 ^ 32) (msixWord i (v.toNat % 2 ^ 32) e)
    seqA [act [.port fun p => { p with msixTable := tabMod (fun _ => {}) p.msixTable k put }], sendPending] s

/-- REGISTER_WRITE: `width` counts bytes (R5 to R7, R295, R297, R410 to R412). -/
def execRegisterWrite (addr width : Nat) (value : Word) (s : State) : Host.Outcome State Fault Refusal :=
  done (if addr < Config.bar2 then regWrite addr width value else bar2Write (addr - Config.bar2) width value) s

end Sys2Proof.Machine
end

