-- ==== Sys2Proof/Machine/Dispatch.lean ====
section
/-! DEFINITION. The dispatch of the commands: one arm for each constructor of `Instr`, one direct call each. -/

namespace Sys2Proof.Machine

open Sys2Proof

def exec (i : Instr) (s : State) : Host.Outcome State Fault Refusal :=
  match i with
  | .registerWrite addr width value => Sys2Proof.Machine.execRegisterWrite addr width value s
  | .perstDeassert => Sys2Proof.Machine.execPerstDeassert s
  | .cxlLinkUp rate width cacheOn => Sys2Proof.Machine.execCxlLinkUp rate width cacheOn s
  | .configRequest request => Sys2Proof.Machine.execConfigRequest request s
  | .cxlLinkDown => Sys2Proof.Machine.execCxlLinkDown s
  | .functionLevelReset => Sys2Proof.Machine.execFunctionLevelReset s
  | .hotReset => Sys2Proof.Machine.execHotReset s
  | .snoopInvalidation line => Sys2Proof.Machine.execSnoopInvalidation line s
  | .watchedLineData line value => Sys2Proof.Machine.execWatchedLineData line value s
  | .pollTick tails => Sys2Proof.Machine.execPollTick tails s
  | .hostReadCompletion what result => Sys2Proof.Machine.execHostReadCompletion what result s
  | .cxlCacheReadTimeout what => Sys2Proof.Machine.execCxlCacheReadTimeout what s
  | .cxlIoReadTimeout what => Sys2Proof.Machine.execCxlIoReadTimeout what s
  | .cxlCacheEnable => Sys2Proof.Machine.execCxlCacheEnable s
  | .hdmDecoderCommit ways granularity backInvalidate memEnable => Sys2Proof.Machine.execHdmDecoderCommit ways granularity backInvalidate memEnable s
  | .cxlMemRead offset => Sys2Proof.Machine.execCxlMemRead offset s
  | .cxlMemWrite offset data enables => Sys2Proof.Machine.execCxlMemWrite offset data enables s
  | .biSnoopResponse line => Sys2Proof.Machine.execBiSnoopResponse line s
  | .backInvalidateTimeout line => Sys2Proof.Machine.execBackInvalidateTimeout line s
  | .barWindowRead offset length => Sys2Proof.Machine.execBarWindowRead offset length s
  | .barWindowWrite offset data => Sys2Proof.Machine.execBarWindowWrite offset data s
  | .irqCoalesceExpiry ring => Sys2Proof.Machine.execIrqCoalesceExpiry ring s
  | .ideIntegrityFailure stream => Sys2Proof.Machine.execIdeIntegrityFailure stream s
  | .ideKmMessage stream setsKeys => Sys2Proof.Machine.execIdeKmMessage stream setsKeys s
  | .identify => Sys2Proof.Machine.execIdentify s
  | .backgroundOperationStatus => Sys2Proof.Machine.execBackgroundOperationStatus s
  | .getEventRecords log => Sys2Proof.Machine.execGetEventRecords log s
  | .clearEventRecords log handles all => Sys2Proof.Machine.execClearEventRecords log handles all s
  | .getEventInterruptPolicy => Sys2Proof.Machine.execGetEventInterruptPolicy s
  | .setEventInterruptPolicy policy => Sys2Proof.Machine.execSetEventInterruptPolicy policy s
  | .getFwInfo => Sys2Proof.Machine.execGetFwInfo s
  | .transferFw component offset data last => Sys2Proof.Machine.execTransferFw component offset data last s
  | .activateFw component => Sys2Proof.Machine.execActivateFw component s
  | .fwActivationInstant component => Sys2Proof.Machine.execFwActivationInstant component s
  | .getTimestamp => Sys2Proof.Machine.execGetTimestamp s
  | .setTimestamp value => Sys2Proof.Machine.execSetTimestamp value s
  | .getSupportedLogs => Sys2Proof.Machine.execGetSupportedLogs s
  | .getLog log offset length => Sys2Proof.Machine.execGetLog log offset length s
  | .handshake minMajor minMinor maxMajor maxMinor => Sys2Proof.Machine.execHandshake minMajor minMinor maxMajor maxMinor s
  | .release => Sys2Proof.Machine.execRelease s
  | .move src dst length flags => Sys2Proof.Machine.execMove src dst length flags s
  | .moveComplete hostData => Sys2Proof.Machine.execMoveComplete hostData s
  | .unsupportedMailboxCommand opcode => Sys2Proof.Machine.execUnsupportedMailboxCommand opcode s
  | .spdmGetMeasurements port index nonce => Sys2Proof.Machine.execSpdmGetMeasurements port index nonce s
  | .spdmGetCertificate port slot offset length => Sys2Proof.Machine.execSpdmGetCertificate port slot offset length s
  | .spdmChallenge port nonce => Sys2Proof.Machine.execSpdmChallenge port nonce s
  | .spdmKeyExchange port mutAuth => Sys2Proof.Machine.execSpdmKeyExchange port mutAuth s
  | .spdmFinish port verified peer => Sys2Proof.Machine.execSpdmFinish port verified peer s
  | .spdmKeyUpdate port => Sys2Proof.Machine.execSpdmKeyUpdate port s
  | .spdmUnsupportedRequest port code => Sys2Proof.Machine.execSpdmUnsupportedRequest port code s
  | .requestEngineEnable => Sys2Proof.Machine.execRequestEngineEnable s
  | .requestTableReady => Sys2Proof.Machine.execRequestTableReady s
  | .commandRingEnable ring tail head => Sys2Proof.Machine.execCommandRingEnable ring tail head s
  | .commandRingDisable ring => Sys2Proof.Machine.execCommandRingDisable ring s
  | .submit ring cmd block => Sys2Proof.Machine.execSubmit ring cmd block s
  | .cancel ring cmd => Sys2Proof.Machine.execCancel ring cmd s
  | .update ring cmd block => Sys2Proof.Machine.execUpdate ring cmd block s
  | .setTree ring cmd => Sys2Proof.Machine.execSetTree ring cmd s
  | .issue ring cmd tiles => Sys2Proof.Machine.execIssue ring cmd tiles s
  | .issueComplete ring index => Sys2Proof.Machine.execIssueComplete ring index s
  | .nop ring cmd => Sys2Proof.Machine.execNop ring cmd s
  | .nopComplete ring index => Sys2Proof.Machine.execNopComplete ring index s
  | .unknownRingCommand ring opcode cmd => Sys2Proof.Machine.execUnknownRingCommand ring opcode cmd s
  | .periodStart ctx heads trees prompts => Sys2Proof.Machine.execPeriodStart ctx heads trees prompts s
  | .onceEntry ctx => Sys2Proof.Machine.execOnceEntry ctx s
  | .groupEntry ctx => Sys2Proof.Machine.execGroupEntry ctx s
  | .sampleEntry ctx group => Sys2Proof.Machine.execSampleEntry ctx group s
  | .promoteRanking ctx heads => Sys2Proof.Machine.execPromoteRanking ctx heads s
  | .samplingJobStart unit => Sys2Proof.Machine.execSamplingJobStart unit s
  | .samplingJobComplete unit => Sys2Proof.Machine.execSamplingJobComplete unit s
  | .periodEnd ctx => Sys2Proof.Machine.execPeriodEnd ctx s
  | .periodDropComplete ctx => Sys2Proof.Machine.execPeriodDropComplete ctx s
  | .endRecordWrite slot => Sys2Proof.Machine.execEndRecordWrite slot s
  | .unloadEndRecordTimeout ctx => Sys2Proof.Machine.execUnloadEndRecordTimeout ctx s
  | .load ctx => Sys2Proof.Machine.execLoad ctx s
  | .replace ctx => Sys2Proof.Machine.execReplace ctx s
  | .unload ctx => Sys2Proof.Machine.execUnload ctx s
  | .validate ctx => Sys2Proof.Machine.execValidate ctx s
  | .imageCopyComplete => Sys2Proof.Machine.execImageCopyComplete s
  | .pendingLoadValidationStart => Sys2Proof.Machine.execPendingLoadValidationStart s
  | .imageValidationComplete => Sys2Proof.Machine.execImageValidationComplete s
  | .unloadDrainComplete ctx => Sys2Proof.Machine.execUnloadDrainComplete ctx s
  | .unloadReleaseComplete ctx => Sys2Proof.Machine.execUnloadReleaseComplete ctx s
  | .sliceBoundary => Sys2Proof.Machine.execSliceBoundary s
  | .contextTakenOnWork ctx => Sys2Proof.Machine.execContextTakenOnWork ctx s
  | .taaDense core => Sys2Proof.Machine.execTaaDense core s
  | .taaShift1 core => Sys2Proof.Machine.execTaaShift1 core s
  | .taaShift2 core => Sys2Proof.Machine.execTaaShift2 core s
  | .taaTable core => Sys2Proof.Machine.execTaaTable core s
  | .taaPlane core => Sys2Proof.Machine.execTaaPlane core s
  | .cuGemm core => Sys2Proof.Machine.execCuGemm core s
  | .cuWgrad core => Sys2Proof.Machine.execCuWgrad core s
  | .vec core => Sys2Proof.Machine.execVec core s
  | .topk core => Sys2Proof.Machine.execTopk core s
  | .matchCmd core => Sys2Proof.Machine.execMatchCmd core s
  | .attn core => Sys2Proof.Machine.execAttn core s
  | .combine core => Sys2Proof.Machine.execCombine core s
  | .dma core => Sys2Proof.Machine.execDma core s
  | .groupFence ctx group => Sys2Proof.Machine.execGroupFence ctx group s
  | .preflight core => Sys2Proof.Machine.execPreflight core s
  | .reservedOpcode core => Sys2Proof.Machine.execReservedOpcode core s
  | .hubDispatch ctx group => Sys2Proof.Machine.execHubDispatch ctx group s
  | .fenceRelease ctx group => Sys2Proof.Machine.execFenceRelease ctx group s
  | .rowListExpansion ctx group => Sys2Proof.Machine.execRowListExpansion ctx group s
  | .coreTakeCommand core => Sys2Proof.Machine.execCoreTakeCommand core s
  | .coreSteal core => Sys2Proof.Machine.execCoreSteal core s
  | .tileCommandComplete core => Sys2Proof.Machine.execTileCommandComplete core s
  | .commandFault core => Sys2Proof.Machine.execCommandFault core s
  | .reprintTrigger core => Sys2Proof.Machine.execReprintTrigger core s
  | .coreQuiesce core quiesce => Sys2Proof.Machine.execCoreQuiesce core quiesce s
  | .expanderBlockDecoded cluster => Sys2Proof.Machine.execExpanderBlockDecoded cluster s
  | .galleyDebugRead core line => Sys2Proof.Machine.execGalleyDebugRead core line s
  | .galleyDebugWrite core line => Sys2Proof.Machine.execGalleyDebugWrite core line s
  | .poolOwnerWrite bank owner => Sys2Proof.Machine.execPoolOwnerWrite bank owner s
  | .poolHandoverComplete bank => Sys2Proof.Machine.execPoolHandoverComplete bank s
  | .poolStateWrite bank target => Sys2Proof.Machine.execPoolStateWrite bank target s
  | .poolStateReached bank => Sys2Proof.Machine.execPoolStateReached bank s
  | .marchStart dieMask preserve => Sys2Proof.Machine.execMarchStart dieMask preserve s
  | .marchComplete failedBanks => Sys2Proof.Machine.execMarchComplete failedBanks s
  | .memoryBringUpComplete training => Sys2Proof.Machine.execMemoryBringUpComplete training s
  | .patrolScrubRead tier unit line finding => Sys2Proof.Machine.execPatrolScrubRead tier unit line finding s
  | .errLogPop tier => Sys2Proof.Machine.execErrLogPop tier s
  | .xltFaultLogPop => Sys2Proof.Machine.execXltFaultLogPop s
  | .xltInvalidate ctx sizeLog2 => Sys2Proof.Machine.execXltInvalidate ctx sizeLog2 s
  | .xltInvalidateDone => Sys2Proof.Machine.execXltInvalidateDone s
  | .pageRetire page => Sys2Proof.Machine.execPageRetire page s
  | .pageRetireDone => Sys2Proof.Machine.execPageRetireDone s
  | .ringIndexPoll ring => Sys2Proof.Machine.execRingIndexPoll ring s
  | .copy => Sys2Proof.Machine.execCopy s
  | .promote fromEngine => Sys2Proof.Machine.execPromote fromEngine s
  | .demote => Sys2Proof.Machine.execDemote s
  | .poolAdd => Sys2Proof.Machine.execPoolAdd s
  | .poolTake => Sys2Proof.Machine.execPoolTake s
  | .reservedMigrationKind => Sys2Proof.Machine.execReservedMigrationKind s
  | .migrationCheckDone id => Sys2Proof.Machine.execMigrationCheckDone id s
  | .migrationCopyDone id => Sys2Proof.Machine.execMigrationCopyDone id s
  | .migrationFinalDone id => Sys2Proof.Machine.execMigrationFinalDone id s
  | .pack => Sys2Proof.Machine.execPack s
  | .unpack => Sys2Proof.Machine.execUnpack s
  | .reservedJobKind => Sys2Proof.Machine.execReservedJobKind s
  | .packerJobComplete id => Sys2Proof.Machine.execPackerJobComplete id s
  | .cmpInvalidate ctx => Sys2Proof.Machine.execCmpInvalidate ctx s
  | .cmpInvalidateDone => Sys2Proof.Machine.execCmpInvalidateDone s
  | .cmpErrLogPop => Sys2Proof.Machine.execCmpErrLogPop s
  | .ledgerEnable base enable => Sys2Proof.Machine.execLedgerEnable base enable s
  | .pageAllocate => Sys2Proof.Machine.execPageAllocate s
  | .copyOnWrite => Sys2Proof.Machine.execCopyOnWrite s
  | .share => Sys2Proof.Machine.execShare s
  | .free => Sys2Proof.Machine.execFree s
  | .reservedPageOpKind => Sys2Proof.Machine.execReservedPageOpKind s
  | .heldPageWrite ctx => Sys2Proof.Machine.execHeldPageWrite ctx s
  | .compaction slot => Sys2Proof.Machine.execCompaction slot s
  | .compactionComplete slot => Sys2Proof.Machine.execCompactionComplete slot s
  | .attErrLogPop => Sys2Proof.Machine.execAttErrLogPop s
  | .presenceDetected link => Sys2Proof.Machine.execPresenceDetected link s
  | .linkTrainingComplete link lanes => Sys2Proof.Machine.execLinkTrainingComplete link lanes s
  | .absentTimeout link presenceSeen => Sys2Proof.Machine.execAbsentTimeout link presenceSeen s
  | .absentCheck link presence => Sys2Proof.Machine.execAbsentCheck link presence s
  | .hello link msg => Sys2Proof.Machine.execHello link msg s
  | .helloTimeout link => Sys2Proof.Machine.execHelloTimeout link s
  | .writeFrame link frame => Sys2Proof.Machine.execWriteFrame link frame s
  | .readReq link frame => Sys2Proof.Machine.execReadReq link frame s
  | .readRsp link frame => Sys2Proof.Machine.execReadRsp link frame s
  | .nack link frame => Sys2Proof.Machine.execNack link frame s
  | .writeAck link frame => Sys2Proof.Machine.execWriteAck link frame s
  | .credit link frame => Sys2Proof.Machine.execCredit link frame s
  | .creditSendTimer link => Sys2Proof.Machine.execCreditSendTimer link s
  | .ctrlNak link counter => Sys2Proof.Machine.execCtrlNak link counter s
  | .elect link id fingerprint hops => Sys2Proof.Machine.execElect link id fingerprint hops s
  | .coord link id hops => Sys2Proof.Machine.execCoord link id hops s
  | .coordinatorDeclare => Sys2Proof.Machine.execCoordinatorDeclare s
  | .topo link msg => Sys2Proof.Machine.execTopo link msg s
  | .routeComputation => Sys2Proof.Machine.execRouteComputation s
  | .routeTable link dst routes => Sys2Proof.Machine.execRouteTable link dst routes s
  | .routeAck link id => Sys2Proof.Machine.execRouteAck link id s
  | .ready link modules => Sys2Proof.Machine.execReady link modules s
  | .mode link counter => Sys2Proof.Machine.execMode link counter s
  | .modeSwitch link => Sys2Proof.Machine.execModeSwitch link s
  | .heartbeat link id => Sys2Proof.Machine.execHeartbeat link id s
  | .coordinatorLoss => Sys2Proof.Machine.execCoordinatorLoss s
  | .hurasRequestTimeout link tag => Sys2Proof.Machine.execHurasRequestTimeout link tag s
  | .creditStallTimeout link vc => Sys2Proof.Machine.execCreditStallTimeout link vc s
  | .linkFence link => Sys2Proof.Machine.execLinkFence link s
  | .sealKeyEpoch link => Sys2Proof.Machine.execSealKeyEpoch link s
  | .linkRetrain link => Sys2Proof.Machine.execLinkRetrain link s
  | .linkDisable link => Sys2Proof.Machine.execLinkDisable link s
  | .linkEnable link => Sys2Proof.Machine.execLinkEnable link s
  | .linkShutdownComplete link => Sys2Proof.Machine.execLinkShutdownComplete link s
  | .outboundInvalidate slot => Sys2Proof.Machine.execOutboundInvalidate slot s
  | .outboundInvalidateDone => Sys2Proof.Machine.execOutboundInvalidateDone s
  | .hlErrLogPop => Sys2Proof.Machine.execHlErrLogPop s
  | .ctxRoot => Sys2Proof.Machine.execCtxRoot s
  | .assign => Sys2Proof.Machine.execAssign s
  | .importPackage header => Sys2Proof.Machine.execImportPackage header s
  | .importComplete content => Sys2Proof.Machine.execImportComplete content s
  | .reservedSecOpKind => Sys2Proof.Machine.execReservedSecOpKind s
  | .debugEnable => Sys2Proof.Machine.execDebugEnable s
  | .debugDisable => Sys2Proof.Machine.execDebugDisable s
  | .securityDomainReady copyA copyB => Sys2Proof.Machine.execSecurityDomainReady copyA copyB s
  | .lmsSubtreeExhausted => Sys2Proof.Machine.execLmsSubtreeExhausted s
  | .lmsRenewalComplete => Sys2Proof.Machine.execLmsRenewalComplete s
  | .securityEngineRestartDone => Sys2Proof.Machine.execSecurityEngineRestartDone s
  | .inputPowerUp railsInRegulation => Sys2Proof.Machine.execInputPowerUp railsInRegulation s
  | .powerGood => Sys2Proof.Machine.execPowerGood s
  | .pwrEnLow => Sys2Proof.Machine.execPwrEnLow s
  | .inputUndervoltage => Sys2Proof.Machine.execInputUndervoltage s
  | .inputOvervoltage => Sys2Proof.Machine.execInputOvervoltage s
  | .powerSample watts steps => Sys2Proof.Machine.execPowerSample watts steps s
  | .ratioRaiseTick => Sys2Proof.Machine.execRatioRaiseTick s
  | .throtNFall ratio => Sys2Proof.Machine.execThrotNFall ratio s
  | .throtNRise => Sys2Proof.Machine.execThrotNRise s
  | .emergencyRelease => Sys2Proof.Machine.execEmergencyRelease s
  | .thermalThrottle tmax ratio => Sys2Proof.Machine.execThermalThrottle tmax ratio s
  | .hbmHotRefresh stack temp => Sys2Proof.Machine.execHbmHotRefresh stack temp s
  | .thermalTrip => Sys2Proof.Machine.execThermalTrip s
  | .domainStart domain => Sys2Proof.Machine.execDomainStart domain s
  | .domainStop domain => Sys2Proof.Machine.execDomainStop domain s
  | .coreNap core => Sys2Proof.Machine.execCoreNap core s
  | .coreWake core => Sys2Proof.Machine.execCoreWake core s
  | .clusterTargetOn cluster => Sys2Proof.Machine.execClusterTargetOn cluster s
  | .clusterTargetGated cluster => Sys2Proof.Machine.execClusterTargetGated cluster s
  | .clusterTargetOff cluster => Sys2Proof.Machine.execClusterTargetOff cluster s
  | .clusterClockGated cluster => Sys2Proof.Machine.execClusterClockGated cluster s
  | .clusterShutdownComplete cluster => Sys2Proof.Machine.execClusterShutdownComplete cluster s
  | .coreReset core => Sys2Proof.Machine.execCoreReset core s
  | .clusterReset cluster => Sys2Proof.Machine.execClusterReset cluster s
  | .dieReset die => Sys2Proof.Machine.execDieReset die s
  | .contextReset ctx => Sys2Proof.Machine.execContextReset ctx s
  | .linkReset link => Sys2Proof.Machine.execLinkReset link s
  | .hubWarmReset => Sys2Proof.Machine.execHubWarmReset s
  | .selfTestComplete failedSlots failedBanks => Sys2Proof.Machine.execSelfTestComplete failedSlots failedBanks s
  | .pldmMonitoring request => Sys2Proof.Machine.execPldmMonitoring request s
  | .pldmFirmwareUpdate component image => Sys2Proof.Machine.execPldmFirmwareUpdate component image s
  | .slotFailure core detail => Sys2Proof.Machine.execSlotFailure core detail s
  | .hangDetected core clusterQueue => Sys2Proof.Machine.execHangDetected core clusterQueue s
  | .spareSelfTestComplete pass => Sys2Proof.Machine.execSpareSelfTestComplete pass s
  | .clusterLogicFault cluster => Sys2Proof.Machine.execClusterLogicFault cluster s
  | .dieFabricFault die d2d => Sys2Proof.Machine.execDieFabricFault die d2d s
  | .samplerSelfCheckFail unit => Sys2Proof.Machine.execSamplerSelfCheckFail unit s
  | .stateMachineSelfCheckFail copy => Sys2Proof.Machine.execStateMachineSelfCheckFail copy s
  | .goldenLineReadDone line golden => Sys2Proof.Machine.execGoldenLineReadDone line golden s
  | .repairReadback line poisoned => Sys2Proof.Machine.execRepairReadback line poisoned s
  | .reservedFrameType link frame => Sys2Proof.Machine.execReservedFrameType link frame s
  | .pwrEnHigh railsInRegulation => Sys2Proof.Machine.execPwrEnHigh railsInRegulation s
  | .resetComplete => Sys2Proof.Machine.execResetComplete s
  | .moduleColdReset => Sys2Proof.Machine.execModuleColdReset s
  | .hubReady => Sys2Proof.Machine.execHubReady s
  | .faultRecordWrite => Sys2Proof.Machine.execFaultRecordWrite s
  | .spareTakeover => Sys2Proof.Machine.execSpareTakeover s
  | .clusterRemoval => Sys2Proof.Machine.execClusterRemoval s
  | .stateMachineMismatch => Sys2Proof.Machine.execStateMachineMismatch s
  | .repairStart => Sys2Proof.Machine.execRepairStart s
  | .cxlCacheDisable => Sys2Proof.Machine.execCxlCacheDisable s
  | .basicEndRecordTimeout => Sys2Proof.Machine.execBasicEndRecordTimeout s
  | .ctrlHeartbeatSend => Sys2Proof.Machine.execCtrlHeartbeatSend s

end Sys2Proof.Machine
end

