-- ==== Sys2Proof/Safety.lean ====
section
/-! DEFINITION. The terms that statements about the module use: a command that runs, what it leaves alone, and the
canonical form of the state. -/

namespace Sys2Proof.Machine

open Sys2Proof

/-- `exec` answers a next state for the command, and that state has the property. -/
def Runs (c : Instr) (s : State) (p : State → Prop) : Prop := ∃ t, exec c s = .next t ∧ p t

/-- No byte of memory changes: every address reads the same, defined or not. -/
def SameMemory (s t : State) : Prop := ∀ a, t.peek a = s.peek a

/-- No byte outside the `n` bytes from `a` changes. -/
def SameOutside (a n : Nat) (s t : State) : Prop := ∀ b, b < a ∨ a + n ≤ b → t.peek b = s.peek b

/-- No register outside a list of addresses changes. -/
def SameRegs (but : List Nat) (s t : State) : Prop := ∀ a, a ∉ but → t.rd a = s.rd a

/-- No migration is in FINAL, where it holds every write to its source unit (R194, R195). -/
def NoFinal (s : State) : Prop := ∀ m ∈ s.mig.inflight, m.state ≠ .final

/-- No protected unit of memory is in error, and the host holds no line of device memory: what the device reads leaves nothing
behind but its walks (R184, R291). -/
def Calm (s : State) : Prop := (∀ a, s.markAt a = .sound) ∧ s.port.filter = []

/-- The state that a run of core `n` works on: the clocks of its die run, and the staging regions of the commands that the core
holds are undefined data (R161, R374). -/
def State.readyRun (s : State) (n : Nat) : State := (s.after (demandDie (dieOf n))).after (stagesUndef n)

/-- An address lies in no staging region of a command that core `n` holds. -/
def OffStage (s : State) (n a : Nat) : Prop :=
  ∀ o ∈ (s.core n).queue, a < galleyOf n + 64 * o.stage.1 ∨ galleyOf n + 64 * o.stage.1 + 64 * o.stage.2 ≤ a

/-- The request table lies in the fast tier (R228). -/
def TableInTier (s : State) : Prop := (s.fget Fld.reqTableBase + 1) * 2 ^ 26 ≤ Config.fastEnd

/-- No inbound frame waits for a pool bank or for a line that the host holds. -/
def NoneHeld (s : State) : Prop := ∀ l, l < 12 → (s.link l).held = []

/-- A vector that is raised is sent at once: MSI-X is on, the link is up, and nothing masks the vector (R292). -/
def Sends (v : Nat) (s : State) : Prop := s.port.msixOn = true ∧ s.linkUp = true ∧ s.port.canSend v = true

/-- Where the next record of a device ring goes. -/
def State.cplSlot (s : State) (p : RingPlace) : Nat := ringSlot (s.lineOf p.cplBase) (s.fget p.cplSize) p.record (s.devRing p.idx).produced

/-- The next descriptor of a device ring and the place of its next record lie in the address map, no unit of memory is in error,
and the line of the record takes data. -/
def RingSound (p : RingPlace) (s : State) : Prop :=
  Calm s ∧ s.outside (ringSlot (s.lineOf p.base) (s.fget p.size) 32 (s.devRing p.idx).taken) = false ∧
  s.outside (s.cplSlot p) = false ∧ s.unreadable (s.cplSlot p) = false

/-- One record has been written to the completion ring of a device ring: it stands in its place, no byte outside its line has
changed, it is counted as produced, and the ring's vector is sent where it can be. -/
def Completes (p : RingPlace) (r : Bytes) (s t : State) : Prop :=
  (t.devRing p.idx).produced = countUp (s.devRing p.idx).produced ∧ t.peekN (s.cplSlot p) p.record = padTo p.record r ∧
  SameOutside (s.cplSlot p / 64 * 64) 64 s t ∧
  match p.vector with
  | some v => Sends v s → t.outbox = s.outbox ++ [.msix v]
  | none => t.outbox = s.outbox

/-- A CTRL frame passes check 1 at a link: it is intact and carries the counter expected (R305, R306). -/
def CtrlSound (s : State) (l : Nat) (c : CtrlSeal) : Prop := c.intact = true ∧ c.seqLo.toNat = (s.link l).rxCounter % 256

/-- The state after a CTRL frame that passes check 1 has been taken, before what it says is acted on: it is counted, the counter
moves on, and its credit is owed. -/
def State.took (s : State) (l : Nat) : State := (s.after (framesIn l)).run [inOrder l, oweCredit l 2]

/-- The state in which an SPDM request of a port is served. -/
def State.spdmArrived (s : State) : SpdmPort → State
  | .link l _ => s.took l
  | _ => s

/-- The state after an authentic frame has arrived on a link, before what it asks for is done: it is counted, the counter moves on,
and its buffer is free. -/
def State.framed (s : State) (l : Nat) (f : Frame) : State :=
  (((s.after (demand 12)).after (framesIn l)).run [inOrder l]).after (frameFree l f)

/-- An SPDM request reaches the responder: its port carries SPDM and, on a link, its frame passes check 1. -/
def SpdmReaches (s : State) (p : SpdmPort) : Prop :=
  s.spdmOpen p = true ∧ match p with
    | .link l c => CtrlSound s l c
    | _ => True

/-- A counter field has risen by one, or stays at all ones. -/
def Counted (f : Fld) (s t : State) : Prop := t.fget f = satAdd f.width (s.fget f) 1

/-- A list is extended at its end, or left alone. -/
def Extends {α : Type} (xs ys : List α) : Prop := ∃ zs, ys = xs ++ zs

/-- Memory in its canonical form: addresses rise strictly, and no listed byte is zero, which an unlisted one reads as. -/
abbrev Memory.wf (m : List Host.Cell) : Prop := tabWf (fun _ => (0 : Byte)) m = true

/-- Every sparse part of the state is in its canonical form: memory, the register file, marks of unsound units, line keys, and
the numbered parts of the module. -/
def State.Canonical (s : State) : Prop :=
  Memory.wf s.mem ∧ tabWf regReset s.regs = true ∧ tabWf (fun _ => Mark.sound) s.marks = true ∧
  tabWf (fun _ => 0) s.lineKey = true ∧ tabWf (fun _ => {}) s.ctxs = true ∧ tabWf (fun _ => {}) s.clusters = true ∧
  tabWf (fun _ => {}) s.cores = true ∧ tabWf (fun _ => 0) s.srCtr = true ∧ tabWf (fun _ => {}) s.rings = true ∧
  tabWf (fun _ => {}) s.reqs = true ∧ tabWf (fun _ => {}) s.periods = true ∧ tabWf (fun _ => {}) s.devRings = true ∧
  tabWf (fun _ => {}) s.tiers = true ∧ tabWf (fun _ => {}) s.banks = true ∧ tabWf (fun _ => {}) s.links = true

end Sys2Proof.Machine
end

