-- ==== Sys2Proof/WellFormed.lean ====
section
/-! DEFINITION. Which commands are well formed: operands whose shape their types do not fix have the shape that the bus or
the manual gives them. `exec` gives every command a meaning, well formed or not; a sender sends well-formed ones. -/

namespace Sys2Proof

/-- A read that delivers a number of bytes, or fails. -/
def HostResult.sized (n : Nat) : HostResult → Bool
  | .ok d => decide (d.length = n)
  | .failed _ => true

/-- A read that delivers at most a number of bytes, or fails. -/
def HostResult.within (n : Nat) : HostResult → Bool
  | .ok d => decide (d.length ≤ n)
  | .failed _ => true

/-- The bytes of a read by what it reads (R232, R251, R284): a line, a command, the tile commands of an ISSUE or a parameter
block, a tree, a prompt, the source of a MOVE. -/
def HostResult.fits (r : HostResult) : HostRead → Bool
  | .tailLine _ => r.sized 64
  | .commandEntry _ => r.sized 64
  | .commandBlock _ => r.within (4096 * 64)
  | .tree _ => r.within 1032
  | .prompt _ => r.within (4 * 2 ^ 20)
  | .headLine _ => r.sized 64
  | .completionLine _ => r.sized 64
  | .goldenLine _ => r.sized 64
  | .moveData => r.within (2 ^ 32)
  | .package => r.within (2 ^ 32)

/-- The shape of a command's operands. -/
def Instr.wf : Instr → Bool
  | .registerWrite addr width value =>
    decide (width = 1 ∨ width = 2 ∨ width = 4 ∨ width = 8) && decide (addr % width = 0) &&
    decide ((Config.regBase ≤ addr ∧ addr < Config.coreRegBase + 0x80_0000) ∨ (Config.bar2 ≤ addr ∧ addr < Config.bar2 + 0x2_0000)) && decide (value.toNat < 2 ^ (8 * width))
  | .cxlLinkUp rate width _ => decide (rate = 16 ∨ rate = 32 ∨ rate = 64) && decide (width = 4 ∨ width = 8 ∨ width = 16)
  | .pollTick tails => tails.all fun t => t.2.sized 64
  | .hostReadCompletion what result => result.fits what
  | .cxlMemRead offset => decide (offset.toNat % 64 = 0)
  | .cxlMemWrite offset _ _ => decide (offset.toNat % 64 = 0)
  | .barWindowRead offset length => decide (0 < length ∧ offset.toNat + length ≤ 2 ^ 34)
  | .barWindowWrite offset data => decide (0 < data.length ∧ offset.toNat + data.length ≤ 2 ^ 34)
  | .moveComplete hostData => hostData.within (2 ^ 32)
  | .spdmGetCertificate _ _ offset length => decide (offset < 65536 ∧ length < 65536)
  | .commandRingEnable _ tail head => tail.sized 64 && head.sized 64
  | .submit _ _ block => block.sized 128
  | .update _ _ block => block.sized 128
  | .issue _ cmd tiles => tiles.sized (64 * cmd.slot.toNat)
  | .unknownRingCommand _ opcode _ => decide (opcode.toNat = 0 ∨ 6 < opcode.toNat)
  | .periodStart _ heads trees prompts =>
    (heads.all fun h => h.2.sized 64) && (trees.all fun h => h.2.within 1032) &&
    prompts.all fun h => h.2.within (4 * 2 ^ 20)
  | .promoteRanking _ heads => heads.all fun h => h.2.sized 64
  | .marchComplete failedBanks => decide failedBanks.Nodup
  | .memoryBringUpComplete training =>
    decide (training.hbm.length ≤ 6) && training.hbm.all fun x => decide (x.failing.length ≤ 8)
  | .patrolScrubRead tier unit _ _ =>
    match tier with
    | .fast => decide (unit.val < 6)
    | .slow => true
  | .securityDomainReady copyA copyB => decide (copyA.length = 5) && decide (copyB.length = 5)
  | .inputPowerUp railsInRegulation => decide (railsInRegulation ≤ 21)
  | .selfTestComplete failedSlots failedBanks => decide failedSlots.Nodup && decide failedBanks.Nodup
  | .goldenLineReadDone _ golden => golden.sized 64
  | .pwrEnHigh railsInRegulation => decide (railsInRegulation ≤ 21)
  | .perstDeassert | .configRequest .. | .cxlLinkDown | .functionLevelReset | .hotReset | .snoopInvalidation ..
  | .watchedLineData .. | .cxlCacheReadTimeout .. | .cxlIoReadTimeout .. | .cxlCacheEnable | .hdmDecoderCommit ..
  | .biSnoopResponse .. | .backInvalidateTimeout .. | .irqCoalesceExpiry .. | .ideIntegrityFailure .. | .ideKmMessage ..
  | .identify | .backgroundOperationStatus | .getEventRecords .. | .clearEventRecords .. | .getEventInterruptPolicy
  | .setEventInterruptPolicy .. | .getFwInfo | .transferFw .. | .activateFw .. | .fwActivationInstant ..
  | .getTimestamp | .setTimestamp .. | .getSupportedLogs | .getLog .. | .handshake .. | .release
  | .move .. | .unsupportedMailboxCommand .. | .spdmGetMeasurements .. | .spdmChallenge ..
  | .spdmKeyExchange .. | .spdmFinish .. | .spdmKeyUpdate .. | .spdmUnsupportedRequest .. | .requestEngineEnable
  | .requestTableReady | .commandRingDisable .. | .cancel .. | .setTree .. | .issueComplete .. | .nop ..
  | .nopComplete .. | .onceEntry .. | .groupEntry .. | .sampleEntry .. | .samplingJobStart .. | .samplingJobComplete ..
  | .periodEnd .. | .periodDropComplete .. | .endRecordWrite .. | .unloadEndRecordTimeout .. | .load .. | .replace ..
  | .unload .. | .validate .. | .imageCopyComplete | .pendingLoadValidationStart | .imageValidationComplete
  | .unloadDrainComplete .. | .unloadReleaseComplete .. | .sliceBoundary | .contextTakenOnWork .. | .taaDense ..
  | .taaShift1 .. | .taaShift2 .. | .taaTable .. | .taaPlane .. | .cuGemm .. | .cuWgrad .. | .vec .. | .topk .. | .matchCmd ..
  | .attn .. | .combine .. | .dma .. | .groupFence .. | .preflight .. | .reservedOpcode .. | .hubDispatch ..
  | .fenceRelease .. | .rowListExpansion .. | .coreTakeCommand .. | .coreSteal .. | .tileCommandComplete ..
  | .commandFault .. | .reprintTrigger .. | .coreQuiesce .. | .expanderBlockDecoded .. | .galleyDebugRead ..
  | .galleyDebugWrite .. | .poolOwnerWrite .. | .poolHandoverComplete .. | .poolStateWrite .. | .poolStateReached ..
  | .marchStart .. | .errLogPop .. | .xltFaultLogPop | .xltInvalidate .. | .xltInvalidateDone | .pageRetire ..
  | .pageRetireDone | .ringIndexPoll .. | .copy | .promote .. | .demote | .poolAdd | .poolTake | .reservedMigrationKind
  | .migrationCheckDone .. | .migrationCopyDone .. | .migrationFinalDone .. | .pack | .unpack | .reservedJobKind
  | .packerJobComplete .. | .cmpInvalidate .. | .cmpInvalidateDone | .cmpErrLogPop | .ledgerEnable .. | .pageAllocate
  | .copyOnWrite | .share | .free | .reservedPageOpKind | .heldPageWrite .. | .compaction .. | .compactionComplete ..
  | .attErrLogPop | .presenceDetected .. | .linkTrainingComplete .. | .absentTimeout .. | .absentCheck ..
  | .hello .. | .helloTimeout .. | .writeFrame .. | .readReq .. | .readRsp .. | .nack .. | .writeAck ..
  | .credit .. | .creditSendTimer .. | .ctrlNak .. | .elect .. | .coord .. | .coordinatorDeclare | .topo ..
  | .routeComputation | .routeTable .. | .routeAck .. | .ready .. | .mode .. | .modeSwitch .. | .heartbeat ..
  | .coordinatorLoss | .hurasRequestTimeout .. | .creditStallTimeout .. | .linkFence .. | .sealKeyEpoch ..
  | .linkRetrain .. | .linkDisable .. | .linkEnable .. | .linkShutdownComplete .. | .outboundInvalidate ..
  | .outboundInvalidateDone | .hlErrLogPop | .ctxRoot | .assign | .importPackage .. | .importComplete ..
  | .reservedSecOpKind | .debugEnable | .debugDisable | .lmsSubtreeExhausted | .lmsRenewalComplete
  | .securityEngineRestartDone | .powerGood | .pwrEnLow | .inputUndervoltage | .inputOvervoltage | .powerSample ..
  | .ratioRaiseTick | .throtNFall .. | .throtNRise | .emergencyRelease | .thermalThrottle .. | .hbmHotRefresh ..
  | .thermalTrip | .domainStart .. | .domainStop .. | .coreNap .. | .coreWake .. | .clusterTargetOn ..
  | .clusterTargetGated .. | .clusterTargetOff .. | .clusterClockGated .. | .clusterShutdownComplete .. | .coreReset ..
  | .clusterReset .. | .dieReset .. | .contextReset .. | .linkReset .. | .hubWarmReset | .pldmMonitoring ..
  | .pldmFirmwareUpdate .. | .slotFailure .. | .hangDetected .. | .spareSelfTestComplete .. | .clusterLogicFault ..
  | .dieFabricFault .. | .samplerSelfCheckFail .. | .stateMachineSelfCheckFail .. | .repairReadback ..
  | .reservedFrameType .. | .resetComplete | .moduleColdReset | .hubReady | .faultRecordWrite | .spareTakeover
  | .clusterRemoval | .stateMachineMismatch | .repairStart | .cxlCacheDisable | .basicEndRecordTimeout
  | .ctrlHeartbeatSend => true

end Sys2Proof
end

