-- ==== Sys2Proof/Certificates/Slice0/Obligations.lean ====
section
/-! DEFINITION. The statements about the module for the provers: the machine as a whole, then the commands family by family. -/

open Sys2Proof Sys2Proof.Machine

/-- For every command c, every rest of the queue and every state s: step of s with c in front of the queue answers what exec of c answers on s with the rest of the queue. -/
def Obligations.StepRunsTheFrontCommand : Prop :=
  ∀ (s : State) (c : Instr) (rest : List Instr), step { s with pending := c :: rest } = exec c { s with pending := rest }

/-- On an empty queue step answers a next state in which the tick counter has risen by one; while no march run is in progress nothing else has changed but the readiness of configuration space and of the mailbox, and while a turn of a march run has its time still to run and no inbound frame is held, neither (the model's choice of log entry 8: one step of an empty queue is one tick of 10 ns; R405 gives the tick). -/
def Obligations.IdleStepIsAKeepWarmTick : Prop :=
  (∀ s : State, s.pending = [] → ∃ t, step s = .next t ∧ t.ticks = s.ticks + 1) ∧
  (∀ s : State, s.pending = [] → s.march = none →
    step s = .next { s with ticks := s.ticks + 1, port := s.port.advance s.linkUp }) ∧
  (∀ (s : State) (m : March), s.pending = [] → s.march = some m → s.ticks + 1 < m.since + m.length →
    NoneHeld s →
    step s = .next { s with ticks := s.ticks + 1, port := s.port.advance s.linkUp })

/-- For every command and every state exec answers a next state: no command of the table ends a run. -/
def Obligations.EveryCommandRuns : Prop :=
  ∀ (c : Instr) (s : State), ∃ t, exec c s = .next t

/-- For every command and every state, the queue after exec is the queue before it. -/
def Obligations.TheQueueBelongsToTheSender : Prop :=
  ∀ (c : Instr) (s t : State), exec c s = .next t → t.pending = s.pending

/-- After every step the outputs of the module are the outputs before it with more appended: no reset and no command takes back a write, a message or an interrupt that has left the module. -/
def Obligations.WhatWasSentStaysSent : Prop :=
  ∀ s t : State, step s = .next t → Extends s.outbox t.outbox

/-- Memory, the register file, the marks of unsound units and every numbered part of the module are in their canonical form after reset. -/
def Obligations.ResetIsCanonical : Prop :=
  State.reset.Canonical

/-- From every state in canonical form (addresses of memory strictly rising with no zero byte listed, the register file with no register at its reset value listed, and the same for the marks of unsound units, line keys, contexts, clusters, cores, random counters, command rings, request slots, periods, device rings, tiers, pool banks and links), a step to a next state gives a state in canonical form, so equal memories and equal register files are equal data. -/
def Obligations.EveryStepKeepsTheCanonicalForm : Prop :=
  ∀ s t : State, s.Canonical → step s = .next t → t.Canonical

/-- After reset: CLK_CAP reads 0x6412; clock domains 15 to 17 are RUNNING and 0 to 14 STOPPED with no start counted; the core identity register of logical core n holds its own number, cluster, die and physical slot; firewall region 0 covers the security domain; REQ_CTRL, IMP_CTRL, CXL_STATUS and every context state are 0; and memory reads zero everywhere. -/
def Obligations.ResetValuesOfRegisters : Prop :=
  State.reset.rd Reg.clkCap = 0x6412#64 ∧
  (∀ d, d < 18 → State.reset.fget (Fld.clkDomState d) = (if 15 ≤ d then 2 else 0) ∧ State.reset.fget (Fld.clkDomStarts d) = 0) ∧
  (∀ n : CoreId, (State.reset.rd (Config.coreRegBase + 0x1000 * n.val + 0x10)).toNat =
    n.val + n.val / 32 % 16 * 2 ^ 12 + n.val / 512 * 2 ^ 16 + n.val % 32 * 2 ^ 24) ∧
  State.reset.rd (Reg.secFwBase 0) = 0x8FFE000007#64 ∧ State.reset.rd Reg.reqCtrl = 0 ∧ State.reset.rd Reg.impCtrl = 0 ∧
  State.reset.rd Reg.cxlStatus = 0 ∧ (∀ c : Ctx, State.reset.ctxState c = 0) ∧ (∀ a, State.reset.peek a = 0)

/-- PERST_DEASSERT at hub ready starts training (link state 1, the port clock RUNNING) and before hub ready only notes the pin; CXL_LINK_UP at a permitted rate and width while the link is down brings the link up with that rate and width, CXL.cache as negotiated and poll_mode its complement; CONFIG_REQUEST answers Configuration Request Retry Status until configuration space is ready, then the vendor and device number at offset 0, and a write of Device Control 2 is kept and answered; CXL_CACHE_ENABLE and CXL_CACHE_DISABLE with the link up set cache_enabled and poll_mode. None of them changes a byte of memory. -/
def Obligations.PortComesUp : Prop :=
  (∀ s : State, s.power.hubReady = true → s.port.perst = true → Runs .perstDeassert s fun t =>
    t.port.perst = false ∧ t.fget Fld.cxlLinkState = 1 ∧ t.fget (Fld.clkDomState 11) = 2 ∧ SameMemory s t) ∧
  (∀ s : State, s.power.hubReady = false → Runs .perstDeassert s fun t =>
    t.port.perst = false ∧ t.regs = s.regs ∧ SameMemory s t) ∧
  (∀ (s : State) (rate width : Nat) (cache : Bool), s.power.hubReady = true → s.port.perst = false → s.linkUp = false →
    rate ∈ [64, 32, 16] → width ∈ [16, 8, 4] → Runs (.cxlLinkUp rate width cache) s fun t =>
      t.linkUp = true ∧ t.fget Fld.cxlLinkRate = rate ∧ t.fget Fld.cxlLinkWidth = width ∧
      t.fget Fld.cxlStatusCacheEnabled = b2n cache ∧ t.fget Fld.cxlStatusPollMode = b2n (!cache) ∧ SameMemory s t) ∧
  (∀ (s : State) (q : ConfigRequest), s.linkUp = true → s.port.configReady = false →
    Runs (.configRequest q) s fun t => t = { s with outbox := s.outbox ++ [.configReply none] }) ∧
  (∀ s : State, s.linkUp = true → s.port.configReady = true → Runs (.configRequest (.read (.header 0))) s fun t =>
    t = { s with outbox := s.outbox ++ [.configReply (some 0x0A09C71A#32)] }) ∧
  (∀ (s : State) (v : BitVec 32), s.linkUp = true → s.port.configReady = true →
    Runs (.configRequest (.write .deviceControl2 v)) s fun t => t.port.timeoutCode = v.setWidth 4 ∧
      (∃ more, t.outbox = s.outbox ++ .configReply (some 0) :: more) ∧ t.regs = s.regs ∧ SameMemory s t) ∧
  (∀ s : State, s.linkUp = true → Runs .cxlCacheEnable s fun t =>
    t.fget Fld.cxlStatusCacheEnabled = 1 ∧ t.fget Fld.cxlStatusPollMode = 0 ∧ SameMemory s t) ∧
  (∀ s : State, s.linkUp = true → Runs .cxlCacheDisable s fun t =>
    t.fget Fld.cxlStatusCacheEnabled = 0 ∧ t.fget Fld.cxlStatusPollMode = 1 ∧ SameRegs [Reg.cxlStatus] s t ∧ SameMemory s t)

/-- CXL_LINK_DOWN on an up link: the link registers read down and rate and width 0, the event is counted, a LINK fault record is made, and then the period of every serving context ends. FUNCTION_LEVEL_RESET and HOT_RESET on an up link unbind the function, clear the enable of every command ring and of every period event and the MSI-X configuration, and leave memory, contexts, request slots and the CXL.cache and CXL.mem bits alone. -/
def Obligations.LinkDownAndFunctionResets : Prop :=
  (∀ s : State, s.linkUp = true → Runs .cxlLinkDown s fun t => ∃ u : State,
    u.fget Fld.cxlLinkState = 0 ∧ u.fget Fld.cxlLinkRate = 0 ∧ u.fget Fld.cxlLinkWidth = 0 ∧ u.port.configReady = false ∧
    u.fget Fld.cxlErrCntLinkDown = satAdd 16 (s.fget Fld.cxlErrCntLinkDown) 1 % 2 ^ 16 ∧ SameMemory s u ∧
    t = (u.after (faultRecord 0x0D 0 0xFF 0 1 0 0 false)).after endPeriods) ∧
  (∀ (s : State) (c : Instr), c = .functionLevelReset ∨ c = .hotReset → s.linkUp = true → Runs c s fun t =>
    t.fget Fld.cxlStatusBound = 0 ∧ t.fget Fld.cxlStatusHsMajor = 0 ∧ t.fget Fld.cxlStatusHsMinor = 0 ∧
    (∀ r : RingId, t.fget (Fld.reqCringEnable r) = 0) ∧ (∀ k : Ctx, t.fget (Fld.cxlPevEnable k) = 0) ∧
    t.port.msixTable = [] ∧ t.port.msixOn = false ∧ t.port.coalesce = [] ∧ SameMemory s t ∧ t.ctxs = s.ctxs ∧ t.reqs = s.reqs ∧
    t.fget Fld.cxlStatusCacheEnabled = s.fget Fld.cxlStatusCacheEnabled ∧
    t.fget Fld.cxlStatusMemEnabled = s.fget Fld.cxlStatusMemEnabled ∧ t.linkUp = true)

/-- Snoops, polls and the ends of host reads -/
def Obligations.WatchedLinesAndPolling : Prop :=
  (∀ (s : State) (l : WatchLine), s.hostUp = true → s.watches l = true → WatchRead l ∉ s.port.outstanding →
    Runs (.snoopInvalidation l) s fun t =>
      t.outbox = s.outbox ++ [.hostRead (WatchRead l) (match l with
        | .tail r => s.ringBase r
        | .head k => (s.req k).pf 0x40 8) 64] ∧ t.port.outstanding = s.port.outstanding ++ [WatchRead l] ∧
      Counted Fld.cxlCntSnoops s t ∧ SameRegs [Reg.cxlCnt] s t ∧ SameMemory s t) ∧
  (∀ (s : State) (l : WatchLine), s.hostUp = true → s.watches l = true → WatchRead l ∈ s.port.outstanding →
    WatchRead l ∉ s.port.again → Runs (.snoopInvalidation l) s fun t =>
      t.outbox = s.outbox ∧ t.port.again = s.port.again ++ [WatchRead l] ∧ Counted Fld.cxlCntSnoops s t ∧ SameMemory s t) ∧
  (∀ (s : State) (tails : List (RingId × HostResult)) (r : RingId) (b : Bytes), s.hostUp = true →
    s.flag Fld.cxlStatusPollMode = true → s.ringLive r = true → (tails.find? fun p => p.1 == r) = some (r, .ok b) →
    countDiff (fieldAt b 0 4) (s.ring r).taken ≤ s.ringSize r →
    Runs (.pollTick tails) s fun t => (t.ring r).tail = fieldAt b 0 4 ∧ SameMemory s t ∧
      (s.ringsOn = [r] → Counted Fld.cxlCntPolls s t)) ∧
  (∀ (s : State) (r : RingId) (b : Bytes), HostRead.tailLine r ∈ s.port.outstanding → .tailLine r ∉ s.port.again →
    s.ringLive r = true → countDiff (fieldAt b 0 4) (s.ring r).taken ≤ s.ringSize r →
    Runs (.hostReadCompletion (.tailLine r) (.ok b)) s fun t => (t.ring r).tail = fieldAt b 0 4 ∧
      (t.ring r).tailFailed = false ∧ HostRead.tailLine r ∉ t.port.outstanding ∧ t.regs = s.regs ∧ SameMemory s t) ∧
  (∀ (s : State) (r : RingId) (b : Bytes), HostRead.tailLine r ∈ s.port.outstanding → .tailLine r ∉ s.port.again →
    s.ringLive r = true → s.ringSize r < countDiff (fieldAt b 0 4) (s.ring r).taken →
    Runs (.hostReadCompletion (.tailLine r) (.ok b)) s fun t => (t.ring r).stopped = true ∧
      t.flag (Fld.cxlRingErrRing.item r) = true ∧ (t.ring r).tail = (s.ring r).tail ∧
      SameRegs [Reg.cxlRingErr] s t ∧ SameMemory s t) ∧
  (∀ (s : State) (r : RingId) (v : BitVec 32), HostRead.tailLine r ∈ s.port.outstanding → .tailLine r ∉ s.port.again →
    s.ringLive r = true → countDiff v.toNat (s.ring r).taken ≤ s.ringSize r →
    Runs (.watchedLineData (.tail r) v) s fun t => (t.ring r).tail = v.toNat ∧ t.regs = s.regs ∧ SameMemory s t) ∧
  (∀ (s : State) (k : SlotId) (v : BitVec 32), HostRead.headLine k ∈ s.port.outstanding → .headLine k ∉ s.port.again →
    (s.req k).state ≠ 0 → countDiff (s.req k).produced v.toNat ≤ (s.req k).ringSize → TableInTier s →
    Runs (.watchedLineData (.head k) v) s fun t => (t.req k).head = v.toNat ∧ t.regs = s.regs) ∧
  (∀ (s : State) (res : HostResult), HostRead.moveData ∈ s.port.outstanding → HostRead.moveData ∉ s.port.again →
    exec (.hostReadCompletion .moveData res) s = exec (.moveComplete res) (s.after (hostReadOver .moveData))) ∧
  (∀ (s : State) (n : Nat) (res : HostResult), HostRead.goldenLine n ∈ s.port.outstanding → .goldenLine n ∉ s.port.again →
    exec (.hostReadCompletion (.goldenLine n) res) s = exec (.goldenLineReadDone n res) (s.after (hostReadOver (.goldenLine n)))) ∧
  (∀ (s : State) (r : RingId) (b : Bytes), HostRead.commandEntry r ∈ s.port.outstanding → .commandEntry r ∉ s.port.again →
    fieldAt b 0 1 = 6 → exec (.hostReadCompletion (.commandEntry r) (.ok b)) s =
      exec (.nop r (ringCmdOf b)) (s.after (hostReadOver (.commandEntry r)))) ∧
  (∀ (s : State) (what : HostRead) (res : HostResult), what ∉ s.port.outstanding → what ∈ s.port.timedOut →
    Runs (.hostReadCompletion what res) s fun t =>
      Counted Fld.cxlErrCntLate s t ∧ SameRegs [Reg.cxlErrCnt] s t ∧ t.outbox = s.outbox ∧ SameMemory s t) ∧
  (∀ (s : State) (r : RingId), HostRead.tailLine r ∈ s.port.outstanding → .tailLine r ∉ s.port.again →
    Runs (.cxlCacheReadTimeout (.tailLine r)) s fun t => Counted Fld.cxlErrCntTimeouts s t ∧ (t.ring r).tailFailed = true ∧
      t.port.timedOut = s.port.timedOut ++ [.tailLine r] ∧ HostRead.tailLine r ∉ t.port.outstanding ∧
      SameRegs [Reg.cxlErrCnt] s t ∧ t.outbox = s.outbox ∧ SameMemory s t) ∧
  (∀ (s : State) (r : RingId), HostRead.tailLine r ∈ s.port.outstanding → .tailLine r ∉ s.port.again →
    Runs (.cxlIoReadTimeout (.tailLine r)) s fun t => Counted Fld.cxlErrCntTimeouts s t ∧ (t.ring r).tailFailed = true ∧
      t.port.timedOut = s.port.timedOut ++ [.tailLine r] ∧ t.port.aerUncorrectable.getLsbD 14 = true ∧
      SameRegs [Reg.cxlErrCnt] s t ∧ t.outbox = s.outbox ∧ SameMemory s t)

/-- The host-managed region: decoder commit, line reads and writes, back-invalidate answers and timeouts -/
def Obligations.HostManagedRegion : Prop :=
  (∀ (s : State) (ways gran : Nat) (mem : Bool), s.ioUp = true → s.fget Fld.memsHdmSizeGib ≠ 0 → ways ∈ [1, 2, 4, 8, 16] →
    gran ∈ [256, 512, 1024, 2048, 4096, 8192, 16384] → Runs (.hdmDecoderCommit ways gran true mem) s fun t =>
      t.port.hdmCommitted = true ∧ t.port.hdmError = false ∧ t.fget Fld.cxlStatusBiEnabled = 1 ∧
      t.fget Fld.cxlStatusMemEnabled = b2n mem ∧ SameRegs [Reg.cxlStatus] s t ∧ SameMemory s t) ∧
  (∀ (s : State) (off : BitVec 38) (a : Nat), s.hdmAddr off.toNat = some a → s.memRefused a = false → s.markAt a = .sound →
    s.unreadable a = false → s.port.filter.length < filterLines → Runs (.cxlMemRead off) s fun t =>
      t.outbox = s.outbox ++ [.memData (s.seenN 0 a 64) false] ∧ t.port.filter.getLast? = some (a / 64) ∧
      t.regs = s.regs ∧ SameMemory s t) ∧
  (∀ (s : State) (off : BitVec 38) (a : Nat), s.hdmAddr off.toNat = some a → s.memRefused a = true ∨ s.unreadable a = true →
    Runs (.cxlMemRead off) s fun t => (∃ d more, t.outbox = s.outbox ++ .memData d true :: more) ∧ SameMemory s t) ∧
  (∀ (s : State) (off : BitVec 38) (data : BitVec 512) (en : BitVec 64) (a : Nat), s.hdmAddr off.toNat = some a →
    s.memRefused a = false → NoFinal s → en = 0xFFFFFFFFFFFFFFFF#64 ∨ s.badUnit a = false →
    Runs (.cxlMemWrite off data en) s fun t =>
      (∀ i, i < 64 → t.peek (a + i) = if en.getLsbD i then BitVec.ofNat 8 (data.toNat / 256 ^ i) else s.seen 0 (a + i)) ∧
      SameOutside a 64 s t ∧ t.markAt a = .sound ∧ t.regs = s.regs ∧ t.outbox = s.outbox) ∧
  (∀ (s : State) (off : BitVec 38) (data : BitVec 512) (en : BitVec 64) (a : Nat), s.hdmAddr off.toNat = some a →
    s.memRefused a = true → Runs (.cxlMemWrite off data en) s fun t => t = s) ∧
  (∀ (s : State) (l : Nat), (∃ h ∈ s.port.heldAccesses, h.line = l) →
    (∀ h ∈ s.port.heldAccesses, h.line = l → h.host = none) → NoneHeld s → Runs (.biSnoopResponse l) s fun t =>
      l ∉ t.port.filter ∧ (∀ h ∈ t.port.heldAccesses, h.line ≠ l) ∧ t.regs = s.regs ∧ t.outbox = s.outbox ∧ SameMemory s t) ∧
  (∀ (s : State) (l off a : Nat), s.port.heldAccesses = [{ line := l, host := some off }] → s.hdmAddr off = some a →
    s.memRefused a = false → s.markAt a = .sound → s.unreadable a = false →
    (s.port.filter.filter (· != l)).length < filterLines → NoneHeld s → Runs (.biSnoopResponse l) s fun t =>
      t.outbox = s.outbox ++ [.memData (s.seenN 0 a 64) false] ∧ t.port.heldAccesses = [] ∧
      t.port.filter.getLast? = some (a / 64) ∧ t.regs = s.regs ∧ SameMemory s t) ∧
  (∀ (s : State) (l : Nat), (∀ h ∈ s.port.heldAccesses, h.line ≠ l) → l ∈ s.port.snoopLate →
    Runs (.biSnoopResponse l) s fun t => Counted Fld.cxlErrCntLate s t ∧ SameRegs [Reg.cxlErrCnt] s t ∧ SameMemory s t) ∧
  (∀ (s : State) (l : Nat), (∃ h ∈ s.port.heldAccesses, h.line = l) → NoneHeld s → Runs (.backInvalidateTimeout l) s fun t =>
    t.port.snoopLate = s.port.snoopLate ++ [l] ∧ (∀ h ∈ t.port.heldAccesses, h.line ≠ l) ∧
    Counted Fld.cxlErrCntTimeouts s t ∧ SameRegs [Reg.cxlErrCnt] s t ∧ SameMemory s t)

/-- While the port carries CXL.io traffic, a window read sends the bytes that the model's reading of R281 gives each line and changes no byte of memory, and one that lies within a served, sound line sends the bytes as they stand under tag 0; a window write inside one line that the window may change, into a line under tag 0 that gives data or whole, while no migration is in FINAL, stores exactly its bytes at CXL_WIN.base plus the offset and leaves every other byte alone; where no line of the range may be changed, no byte changes. -/
def Obligations.MemoryWindow : Prop :=
  (∀ (s : State) (off : BitVec 34) (n : Nat), s.ioUp = true → Runs (.barWindowRead off n) s fun t =>
    (∃ more, t.outbox = s.outbox ++ .readData (s.winRead (s.winAddr off.toNat) n) :: more) ∧ SameMemory s t) ∧
  (∀ (s : State) (off : BitVec 34) (n : Nat), s.ioUp = true → 0 < n → s.winAddr off.toNat % 64 + n ≤ 64 →
    s.winLine (s.winAddr off.toNat) = .ok → s.markAt (s.winAddr off.toNat) = .sound →
    s.unreadable (s.winAddr off.toNat) = false → Runs (.barWindowRead off n) s fun t =>
      t.outbox = s.outbox ++ [.readData (s.seenN 0 (s.winAddr off.toNat) n)] ∧ t.regs = s.regs ∧ SameMemory s t) ∧
  (∀ (s : State) (off : BitVec 34) (d : Bytes), s.ioUp = true → 0 < d.length →
    s.winAddr off.toNat % 64 + d.length ≤ 64 → s.winWritable (s.winAddr off.toNat) = true → NoFinal s →
    s.badUnit (s.winAddr off.toNat) = false ∨ d.length = 64 →
    tabGet (fun _ => 0) s.lineKey (s.winAddr off.toNat / 64) = 0 → Runs (.barWindowWrite off d) s fun t =>
      t.peekN (s.winAddr off.toNat) d.length = d ∧ SameOutside (s.winAddr off.toNat) d.length s t ∧ t.regs = s.regs) ∧
  (∀ (s : State) (off : BitVec 34) (d : Bytes), s.ioUp = true →
    (∀ p ∈ linePieces (s.winAddr off.toNat) d.length, s.winWritable p.1 = false) →
    Runs (.barWindowWrite off d) s fun t => SameMemory s t)

/-- When the coalescing interval of a ring ends with events held, a new interval starts, and the message with vector 16 + r is sent where the vector is sent at once and is pending otherwise while MSI-X is on; an integrity failure of the CXL.io stream while it is secure makes it insecure, clears its status bit, makes vector 11 pending while MSI-X is on, and makes a HOST record with detail 2 where the record queue has room; one of the CXL.cachemem stream clears its status bit and takes an up link down, with vector 11 sent before where it is sent at once; an IDE_KM message that sets keys in the DOE session makes its stream secure. Memory is unchanged by each but the link-down. -/
def Obligations.CoalescingAndIde : Prop :=
  (∀ (s : State) (r : RingId), (tabGet (fun _ => {}) s.port.coalesce r.val).held = true →
    (tabGet (fun _ => {}) s.port.coalesce r.val).until_ ≤ s.ticks → Runs (.irqCoalesceExpiry r) s fun t =>
      (Sends (16 + r.val) s → t.outbox = s.outbox ++ [.msix (16 + r.val)]) ∧
      (s.port.msixOn = true → s.linkUp = false → 16 + r.val ∈ t.port.msixPending) ∧
      tabGet (fun _ => {}) t.port.coalesce r.val = ⟨s.ticks + s.fget Fld.cxlIrqCoalUsec * 100, false⟩ ∧
      t.regs = s.regs ∧ SameMemory s t) ∧
  (∀ s : State, s.linkUp = true → s.flag Fld.cxlStatusIdeIo = true → Runs (.ideIntegrityFailure .io) s fun t =>
    t.fget Fld.cxlStatusIdeIo = 0 ∧ t.port.ioInsecure = true ∧ (s.port.msixOn = true → 11 ∈ t.port.msixPending) ∧
    (s.flt.queue.length < 256 → ∃ x, t.flt.queue = s.flt.queue ++ [x] ∧ x.cls = 0x0D ∧ x.detail = 2) ∧ SameMemory s t) ∧
  (∀ s : State, s.linkUp = true → s.flag Fld.cxlStatusIdeCm = true → Runs (.ideIntegrityFailure .cachemem) s fun t =>
    t.fget Fld.cxlStatusIdeCm = 0 ∧ t.linkUp = false ∧ (Sends 11 s → ∃ more, t.outbox = s.outbox ++ .msix 11 :: more)) ∧
  (∀ (s : State) (x : IdeStream), s.linkUp = true → SpdmPort.doe ∈ s.sec.sessions → Runs (.ideKmMessage x true) s fun t =>
    t.fget (ideFld x) = 1 ∧ (x = .io → t.port.ioInsecure = false) ∧ SameRegs [Reg.cxlStatus] s t ∧ SameMemory s t)

/-- Once the mailbox is ready and the port carries CXL.io traffic, each of IDENTIFY, BACKGROUND_OPERATION_STATUS, GET_EVENT_RECORDS of a log below 4, GET_EVENT_INTERRUPT_POLICY, GET_TIMESTAMP, GET_SUPPORTED_LOGS, GET_LOG and GET_FW_INFO sends exactly one reply with return code Success and changes no register, no mailbox state and no byte of memory; GET_TIMESTAMP answers the timestamp and GET_EVENT_INTERRUPT_POLICY the policy; an opcode outside Table 12.6 is answered Unsupported and changes nothing else. -/
def Obligations.MailboxReplies : Prop :=
  (∀ (s : State) (c : Instr), s.ioUp = true → s.port.mailboxReady = true →
    c = .identify ∨ c = .backgroundOperationStatus ∨ (∃ log, log < 4 ∧ c = .getEventRecords log) ∨
    c = .getEventInterruptPolicy ∨ c = .getTimestamp ∨ c = .getSupportedLogs ∨ (∃ a b n, c = .getLog a b n) ∨ c = .getFwInfo →
    Runs c s fun t => (∃ d, t.outbox = s.outbox ++ [.mailbox 0 d]) ∧ t.regs = s.regs ∧ t.mailbox = s.mailbox ∧
      SameMemory s t) ∧
  (∀ s : State, s.ioUp = true → s.port.mailboxReady = true → Runs .getTimestamp s fun t =>
    t.outbox = s.outbox ++ [.mailbox 0 (leBytes 8 s.timestamp)]) ∧
  (∀ s : State, s.ioUp = true → s.port.mailboxReady = true → Runs .getEventInterruptPolicy s fun t =>
    t.outbox = s.outbox ++ [.mailbox 0 (leBytes 4 s.mailbox.policy.toNat)]) ∧
  (∀ (s : State) (op : BitVec 16), s.ioUp = true → s.port.mailboxReady = true →
    op.toNat ∉ [0x0001, 0x0002, 0x0100, 0x0101, 0x0102, 0x0103, 0x0200, 0x0201, 0x0202, 0x0300, 0x0301, 0x0400, 0x0401,
      0xC000, 0xC001, 0xC010] → Runs (.unsupportedMailboxCommand op) s fun t =>
      t = { s with outbox := s.outbox ++ [.mailbox 3 []] })

/-- Mailbox commands that change the mailbox, and MOVE -/
def Obligations.MailboxSettings : Prop :=
  (∀ (s : State) (log : Nat), s.ioUp = true → s.port.mailboxReady = true → log < 4 →
    Runs (.clearEventRecords log [] true) s fun t =>
      t.eventsOf log = [] ∧ (∀ k, k ≠ log → t.eventsOf k = s.eventsOf k) ∧ t.regs = s.regs ∧ SameMemory s t) ∧
  (∀ (s : State) (p : BitVec 32), s.ioUp = true → s.port.mailboxReady = true → Runs (.setEventInterruptPolicy p) s fun t =>
    t.mailbox.policy = p &&& 0x0F0F0F0F#32 ∧ t.outbox = s.outbox ++ [.mailbox 0 []] ∧ t.regs = s.regs ∧ SameMemory s t) ∧
  (∀ (s : State) (v : Word), s.ioUp = true → s.port.mailboxReady = true → Runs (.setTimestamp v) s fun t =>
    t.timestamp = v.toNat ∧ t.outbox = s.outbox ++ [.mailbox 0 []] ∧ t.regs = s.regs ∧ SameMemory s t) ∧
  (∀ (s : State) (src dst : Word) (len flags : BitVec 32), s.ioUp = true → s.port.mailboxReady = true →
    s.mailbox.move = none → len.toNat % 64 = 0 → 64 ≤ len.toNat → len.toNat ≤ 2 ^ 30 → flags.toNat < 4 →
    s.moveRange (bitOf flags.toNat 0) src.toNat len.toNat = true → s.moveRange (bitOf flags.toNat 1) dst.toNat len.toNat = true →
    ¬(bitOf flags.toNat 0 = bitOf flags.toNat 1 ∧ rangesMeet src.toNat len.toNat dst.toNat len.toNat = true) →
    s.moveRefused (bitOf flags.toNat 0) src.toNat len.toNat = false →
    s.moveRefused (bitOf flags.toNat 1) dst.toNat len.toNat = false → Runs (.move src dst len flags) s fun t =>
      t.mailbox.move = some ⟨src.toNat, dst.toNat, len.toNat, flags.toNat⟩ ∧
      (∃ more, t.outbox = s.outbox ++ .mailbox 1 [] :: more) ∧ SameMemory s t) ∧
  (∀ (s : State) (m : MoveOp) (b : Bytes), s.mailbox.move = some m → bitOf m.flags 1 = false →
    bitOf m.flags 0 = false ∨ s.hostUp = true →
    Runs (.moveComplete (.ok b)) s fun t => t.mailbox.move = none ∧ t.mailbox.bgDone = some (0xC010, 0) ∧
      SameOutside (m.dst / 64 * 64) (m.length + 128) s t) ∧
  (∀ (s : State) (dst src : Nat) (b : Bytes), s.mailbox.move = some ⟨src, dst, 64, 1⟩ → s.hostUp = true → dst % 64 = 0 →
    s.winWritable dst = true → NoFinal s → b.length = 64 → Runs (.moveComplete (.ok b)) s fun t =>
      t.peekN dst 64 = b ∧ SameOutside dst 64 s t ∧ t.mailbox.move = none) ∧
  (∀ (s : State) (m : MoveOp) (late : Bool), s.mailbox.move = some m → bitOf m.flags 0 = true → s.hostUp = true →
    Runs (.moveComplete (.failed late)) s fun t => t.mailbox.move = none ∧ t.mailbox.bgDone = some (0xC010, 4) ∧
      SameOutside m.dst m.length s t)

/-- With the mailbox ready: while version 3.0 is bound and some context slot is not EMPTY or REQ_CTRL.enable is not 0, RELEASE is answered Busy (return code 6) and changes nothing else; otherwise it clears bound and the version, answers Success and leaves every other register and memory alone. A Function Level Reset with the link up clears them whatever is bound. -/
def Obligations.ReleaseUnbinds : Prop :=
  (∀ s : State, s.ioUp = true → s.port.mailboxReady = true → s.flag Fld.cxlStatusBound = true →
    s.fget Fld.cxlStatusHsMajor = 3 → ((∃ c : Ctx, s.ctxState c ≠ 0) ∨ s.fget Fld.reqCtrlEnable ≠ 0) →
    Runs .release s fun t => t = { s with outbox := s.outbox ++ [.mailbox 6 []] }) ∧
  (∀ s : State, s.ioUp = true → s.port.mailboxReady = true →
    (s.flag Fld.cxlStatusBound = true → s.fget Fld.cxlStatusHsMajor = 3 →
      (∀ c : Ctx, s.ctxState c = 0) ∧ s.fget Fld.reqCtrlEnable = 0) →
    Runs .release s fun t => t.fget Fld.cxlStatusBound = 0 ∧ t.fget Fld.cxlStatusHsMajor = 0 ∧
      t.fget Fld.cxlStatusHsMinor = 0 ∧ t.outbox = s.outbox ++ [.mailbox 0 []] ∧ SameRegs [Reg.cxlStatus] s t ∧ SameMemory s t) ∧
  (∀ s : State, s.linkUp = true → Runs .functionLevelReset s fun t => t.fget Fld.cxlStatusBound = 0)

/-- With the mailbox ready and nothing bound: a range that contains 3.0 binds 3.0 and answers it; a range that contains 2.0 and not 3.0 binds 2.0 when every slot is EMPTY and the request engine is off, sets clear_on_wake, and is answered Busy otherwise; a range that contains neither is answered Invalid Input and binds nothing. -/
def Obligations.HandshakeBinds : Prop :=
  (∀ (s : State) (a b c d : Byte), s.ioUp = true → s.port.mailboxReady = true → s.flag Fld.cxlStatusBound = false →
    offered a.toNat b.toNat c.toNat d.toNat = some 3 → Runs (.handshake a b c d) s fun t =>
      t.fget Fld.cxlStatusBound = 1 ∧ t.fget Fld.cxlStatusHsMajor = 3 ∧ t.fget Fld.cxlStatusHsMinor = 0 ∧
      t.outbox = s.outbox ++ [.mailbox 0 [3, 0, 0, 0]] ∧ SameRegs [Reg.cxlStatus] s t ∧ SameMemory s t) ∧
  (∀ (s : State) (a b c d : Byte), s.ioUp = true → s.port.mailboxReady = true → s.flag Fld.cxlStatusBound = false →
    offered a.toNat b.toNat c.toNat d.toNat = some 2 → s.quiet = true → Runs (.handshake a b c d) s fun t =>
      t.fget Fld.cxlStatusBound = 1 ∧ t.fget Fld.cxlStatusHsMajor = 2 ∧ t.fget Fld.poolCtrlClearOnWake = 1 ∧
      t.outbox = s.outbox ++ [.mailbox 0 [2, 0, 0, 0]] ∧ SameMemory s t) ∧
  (∀ (s : State) (a b c d : Byte), s.ioUp = true → s.port.mailboxReady = true → s.flag Fld.cxlStatusBound = false →
    offered a.toNat b.toNat c.toNat d.toNat = some 2 → s.quiet = false → Runs (.handshake a b c d) s fun t =>
      t = { s with outbox := s.outbox ++ [.mailbox 6 []] }) ∧
  (∀ (s : State) (a b c d : Byte), s.ioUp = true → s.port.mailboxReady = true → s.flag Fld.cxlStatusBound = false →
    offered a.toNat b.toNat c.toNat d.toNat = none → Runs (.handshake a b c d) s fun t =>
      t = { s with outbox := s.outbox ++ [.mailbox 2 []] })

/-- Plain writes of registers: which writes act, RW fields with a range, bits cleared by writing one -/
def Obligations.RegisterWrites : Prop :=
  (∀ (s : State) (a w : Nat) (v : Word), a < Config.bar2 → regWriteOf a w v = none ∨ regRow (a / 8 * 8) = none →
    Runs (.registerWrite a w v) s fun t => t = s) ∧
  (∀ (s : State) (a w : Nat) (v : Word), a < Config.bar2 → s.bound = false → ¬(Reg.cxlCap ≤ a / 8 * 8 ∧ a / 8 * 8 < Reg.hlCap) →
    Runs (.registerWrite a w v) s fun t => t = s) ∧
  (∀ (s : State) (a w : Nat) (v : Word) (x : RegWrite) (r : RegRow) (d : Nat), a < Config.bar2 → regWriteOf a w v = some x →
    regRow (a / 8 * 8) = some (r, d) → s.writeActs (a / 8 * 8) = true → s.ringReg (a / 8 * 8) = none →
    logPop (a / 8 * 8) = none → (a / 8 * 8 < Reg.reqCring 0 ∨ Reg.reqCring 64 ≤ a / 8 * 8) →
    memAction (a / 8 * 8) r x = none → hubAction (a / 8 * 8) r x = none → Runs (.registerWrite a w v) s fun t =>
      t.rd (a / 8 * 8) = s.merged (a / 8 * 8) r x ∧ SameRegs [a / 8 * 8] s t ∧ t = { s with regs := t.regs }) ∧
  (∀ (s : State) (v : Word), s.bound = true → Runs (.registerWrite Reg.pwrLimit 8 v) s fun t =>
    t.fget Fld.pwrLimitTdpW = (if 900 ≤ Fld.pwrLimitTdpW.of v ∧ Fld.pwrLimitTdpW.of v ≤ 1600 then Fld.pwrLimitTdpW.of v
      else s.fget Fld.pwrLimitTdpW) ∧
    t.fget Fld.pwrLimitEmergW = (if 900 ≤ Fld.pwrLimitEmergW.of v ∧ Fld.pwrLimitEmergW.of v ≤ 1600 then
      Fld.pwrLimitEmergW.of v else s.fget Fld.pwrLimitEmergW) ∧ SameRegs [Reg.pwrLimit] s t ∧ SameMemory s t) ∧
  (∀ (s : State) (v : Word), s.bound = true → Runs (.registerWrite Reg.pwrLimit 4 v) s fun t =>
    t.fget Fld.pwrLimitTdpW = (if 900 ≤ Fld.pwrLimitTdpW.of v ∧ Fld.pwrLimitTdpW.of v ≤ 1600 then Fld.pwrLimitTdpW.of v
      else s.fget Fld.pwrLimitTdpW) ∧ t.fget Fld.pwrLimitEmergW = s.fget Fld.pwrLimitEmergW ∧
    SameRegs [Reg.pwrLimit] s t ∧ SameMemory s t) ∧
  (∀ (s : State) (v : Word), s.port.ioInsecure = false → Runs (.registerWrite Reg.cxlRingErr 8 v) s fun t =>
    t.rd Reg.cxlRingErr = s.rd Reg.cxlRingErr &&& ~~~v ∧ SameRegs [Reg.cxlRingErr] s t ∧ SameMemory s t)

/-- While version 3.0 is bound: writing 0, 1 or 2 to PWR_CLUSTERk answers what the rows CLUSTER_TARGET_ON, CLUSTER_TARGET_GATED and CLUSTER_TARGET_OFF answer; writing 1 to REQ_CTRL what REQUEST_ENGINE_ENABLE answers; writing operation 1, 2, 3 or 4 and a context to IMP_CTRL what the row of that operation answers; writing 1 to the valid bit of each of the six error logs what the row that pops that log answers; and such a pop takes the oldest entry from the log and changes nothing else. A write of IMP_CTRL whose operation is none of these changes nothing while the loader is idle, and sets IMP_STATUS.overrun and nothing else while it is busy. -/
def Obligations.RegisterWritesThatAct : Prop :=
  (∀ (s : State) (k : ClusterId), s.bound3 = true →
    exec (.registerWrite (Reg.pwrCluster k) 8 0) s = exec (.clusterTargetOn k) s ∧
    exec (.registerWrite (Reg.pwrCluster k) 8 1) s = exec (.clusterTargetGated k) s ∧
    exec (.registerWrite (Reg.pwrCluster k) 8 2) s = exec (.clusterTargetOff k) s) ∧
  (∀ s : State, s.bound3 = true → exec (.registerWrite Reg.reqCtrl 8 1) s = exec .requestEngineEnable s) ∧
  (∀ (s : State) (c : Ctx), s.bound3 = true →
    exec (.registerWrite Reg.impCtrl 8 (BitVec.ofNat 64 (1 + 256 * c.val))) s = exec (.load c) s ∧
    exec (.registerWrite Reg.impCtrl 8 (BitVec.ofNat 64 (2 + 256 * c.val))) s = exec (.replace c) s ∧
    exec (.registerWrite Reg.impCtrl 8 (BitVec.ofNat 64 (3 + 256 * c.val))) s = exec (.unload c) s ∧
    exec (.registerWrite Reg.impCtrl 8 (BitVec.ofNat 64 (4 + 256 * c.val))) s = exec (.validate c) s) ∧
  (∀ (s : State) (v : Word), s.bound3 = true → bitsOf v.toNat 0 4 ∉ [1, 2, 3, 4] → s.fget Fld.impStatusBusy = 0 →
    Runs (.registerWrite Reg.impCtrl 8 v) s fun t => t = s) ∧
  (∀ (s : State) (v : Word), s.bound3 = true → s.fget Fld.impStatusBusy = 1 → Runs (.registerWrite Reg.impCtrl 8 v) s fun t =>
    t.fget Fld.impStatusOverrun = 1 ∧ t.fget Fld.impStatusBusy = 1 ∧ SameRegs [Reg.impStatus] s t ∧ SameMemory s t) ∧
  (∀ s : State, s.bound3 = true →
    exec (.registerWrite Reg.memfErrLog0 8 1) s = exec (.errLogPop .fast) s ∧
    exec (.registerWrite Reg.memsErrLog0 8 1) s = exec (.errLogPop .slow) s ∧
    exec (.registerWrite Reg.xltFaultLog0 8 (1#64 <<< 63)) s = exec .xltFaultLogPop s ∧
    exec (.registerWrite Reg.cmpErrLog0 8 (1#64 <<< 63)) s = exec .cmpErrLogPop s ∧
    exec (.registerWrite Reg.attErrLog0 8 (1#64 <<< 63)) s = exec .attErrLogPop s ∧
    exec (.registerWrite Reg.hlErrLog0 8 (1#64 <<< 63)) s = exec .hlErrLogPop s) ∧
  (∀ (s : State) (d : Tier), s.bound = true → Runs (.errLogPop d) s fun t =>
    (t.tier (match d with | .fast => 0 | .slow => 1)).log = (s.tier (match d with | .fast => 0 | .slow => 1)).log.drop 1 ∧
    t.regs = s.regs ∧ SameMemory s t) ∧
  (∀ s : State, s.bound = true →
    Runs .xltFaultLogPop s (fun t => t = { s with xlt := { s.xlt with log := s.xlt.log.drop 1 } }) ∧
    Runs .cmpErrLogPop s (fun t => t = { s with cmpErrs := s.cmpErrs.drop 1 }) ∧
    Runs .attErrLogPop s (fun t => t = { s with attErrs := s.attErrs.drop 1 })) ∧
  (∀ s : State, s.bound3 = true → Runs .hlErrLogPop s fun t => t = { s with hlErrs := s.hlErrs.drop 1 })

/-- Starting the request engine and its command rings -/
def Obligations.RequestTableAndRings : Prop :=
  (∀ s : State, s.bound3 = true → s.flag Fld.reqCtrlEnable = false → Runs .requestEngineEnable s fun t =>
    t.fget Fld.reqCtrlEnable = 1 ∧ SameRegs [Reg.reqCtrl] s t ∧ t = { s with regs := t.regs }) ∧
  (∀ s : State, s.flag Fld.reqCtrlEnable = true → s.flag Fld.reqStatusReady = false →
    (∀ a, s.fget Fld.reqTableBase * 2 ^ 26 ≤ a → a < (s.fget Fld.reqTableBase + 1) * 2 ^ 26 → s.retired a = false) →
    Runs .requestTableReady s fun t =>
    (∀ k, t.req k = {}) ∧ t.fget Fld.reqStatusReady = 1 ∧
    (∀ a, s.fget Fld.reqTableBase * 2 ^ 26 ≤ a → a < (s.fget Fld.reqTableBase + 1) * 2 ^ 26 → t.peek a = 0) ∧
    SameOutside (s.fget Fld.reqTableBase * 2 ^ 26) (2 ^ 26) s t ∧ SameRegs [Reg.reqStatus] s t) ∧
  (∀ (s : State) (r : RingId) (b : Bytes) (tail : HostResult), s.bound3 = true → s.ringBusy r = false →
    s.flag (Fld.reqCringEnable r) = false → Runs (.commandRingEnable r tail (.ok b)) s fun t =>
      t.fget (Fld.reqCringEnable r) = 1 ∧ (t.ring r).taken = 0 ∧ (t.ring r).completed = 0 ∧
      (t.ring r).head = fieldAt b 0 4 ∧ (t.ring r).headFailed = false ∧ SameMemory s t) ∧
  (∀ (s : State) (r : RingId) (h b : Bytes), s.bound3 = true → s.ringBusy r = false → s.hostUp = true →
    s.flag (Fld.reqCringEnable r) = false → s.flag (Fld.reqCcplEnable r) = true → fieldAt b 0 4 ≤ s.ringSize r →
    Runs (.commandRingEnable r (.ok b) (.ok h)) s fun t => t.fget (Fld.reqCringEnable r) = 1 ∧
      (t.ring r).tail = fieldAt b 0 4 ∧ (t.ring r).head = fieldAt h 0 4 ∧ (t.ring r).stopped = false ∧
      SameRegs [Reg.reqCring r] s t ∧ SameMemory s t) ∧
  (∀ (s : State) (r : RingId) (tail head : HostResult), s.ringBusy r = true ∨ s.flag (Fld.reqCringEnable r) = true →
    Runs (.commandRingEnable r tail head) s fun t => t = s) ∧
  (∀ (s : State) (r : RingId), s.bound3 = true → Runs (.commandRingDisable r) s fun t =>
    t.fget (Fld.reqCringEnable r) = 0 ∧ (t.ring r).stopped = false ∧ (t.ring r).taken = (s.ring r).taken ∧
    (t.ring r).completed = (s.ring r).completed ∧ SameRegs [Reg.reqCring r] s t ∧ SameMemory s t)

/-- When a ring can take a command and the host holds no line of device memory, each of SUBMIT, CANCEL, UPDATE, SET_TREE, ISSUE and NOP raises the taken count by one modulo 2^32. If the checks of R233 give a status other than OK, or the opcode is not in Table 10.5 (BAD_COMMAND), the taken count is written, a completion record with that status follows (at once, but after the interrupts of the header that a SUBMIT with BAD_PARAMS reads), then the completion count, and no request slot and no byte of memory changes. -/
def Obligations.RingCommandsAreTaken : Prop :=
  (∀ (s : State) (r : RingId) (cmd : RingCmd) (b : HostResult) (c : Instr), s.canTake r = true → s.port.filter = [] →
    c = .submit r cmd b ∨ c = .cancel r cmd ∨ c = .update r cmd b ∨ c = .setTree r cmd ∨ c = .issue r cmd b ∨ c = .nop r cmd →
    Runs c s fun t => (t.ring r).taken = countUp (s.ring r).taken) ∧
  (∀ (s : State) (r : RingId) (op : RingOp) (cmd : RingCmd) (b : HostResult), s.canTake r = true → s.port.filter = [] →
    s.ringStatus r op cmd b ≠ 0 → (op = .submit → s.ringStatus r op cmd b ≠ Cpl.badParams) → (op = .cancel ∨ op = .setTree ∨ op = .nop → b = .ok []) →
    Runs (match op with
      | .submit => .submit r cmd b
      | .cancel => .cancel r cmd
      | .update => .update r cmd b
      | .setTree => .setTree r cmd
      | .issue => .issue r cmd b
      | .nop => .nop r cmd) s fun t => (∃ more, t.outbox = s.outbox ++
        .hostWrite (s.cplBase r + 4) (leBytes 4 (countUp (s.ring r).taken)) ::
        .hostWrite (s.cplBase r + 64 + 16 * ((s.ring r).completed % s.cplSize r))
          (leBytes 4 cmd.userTag.toNat ++ leBytes 4 cmd.slot.toNat ++ leBytes 1 op.code ++
            leBytes 1 (s.ringStatus r op cmd b) ++ leBytes 2 0 ++ leBytes 4 (s.ring r).taken) ::
        .hostWrite (s.cplBase r + 8) (leBytes 4 (countUp (s.ring r).completed)) :: more) ∧ t.reqs = s.reqs ∧ SameMemory s t) ∧
  (∀ (s : State) (r : RingId) (cmd : RingCmd) (b : HostResult), s.canTake r = true → s.port.filter = [] →
    s.ringStatus r .submit cmd b = Cpl.badParams → Runs (.submit r cmd b) s fun t => (∃ mid more, t.outbox = s.outbox ++
        .hostWrite (s.cplBase r + 4) (leBytes 4 (countUp (s.ring r).taken)) :: mid ++
        .hostWrite (s.cplBase r + 64 + 16 * ((s.ring r).completed % s.cplSize r))
          (leBytes 4 cmd.userTag.toNat ++ leBytes 4 cmd.slot.toNat ++ leBytes 1 1 ++ leBytes 1 5 ++ leBytes 2 0 ++
            leBytes 4 (s.ring r).taken) ::
        .hostWrite (s.cplBase r + 8) (leBytes 4 (countUp (s.ring r).completed)) :: more) ∧ t.reqs = s.reqs ∧ SameMemory s t) ∧
  (∀ (s : State) (r : RingId) (op : Byte) (cmd : RingCmd), s.canTake r = true → RingOp.ofCode op.toNat = none →
    Runs (.unknownRingCommand r op cmd) s fun t => (∃ more, t.outbox = s.outbox ++
        .hostWrite (s.cplBase r + 4) (leBytes 4 (countUp (s.ring r).taken)) ::
        .hostWrite (s.cplBase r + 64 + 16 * ((s.ring r).completed % s.cplSize r))
          (leBytes 4 cmd.userTag.toNat ++ leBytes 4 cmd.slot.toNat ++ leBytes 1 op.toNat ++ leBytes 1 1 ++
            leBytes 2 0 ++ leBytes 4 (s.ring r).taken) ::
        .hostWrite (s.cplBase r + 8) (leBytes 4 (countUp (s.ring r).completed)) :: more) ∧
      (t.ring r).taken = countUp (s.ring r).taken ∧ t.reqs = s.reqs ∧ SameMemory s t)

/-- When a ring can take a command, the host holds no line of device memory and the checks of the command pass: SUBMIT makes its slot READY, owned by the context of the ring, with the parameter block and tag given; CANCEL of a RUNNING request leaves it RUNNING with a cancel pending, and any other request of the context that is not ENDING enters ENDING with status CANCELLED; UPDATE of a RUNNING request waits and of any other replaces descriptor bytes 0x48 to 0x97; SET_TREE likewise with the tree address; ISSUE adds its tile commands to the hub queue in order; NOP waits in the ring. -/
def Obligations.RingCommandsTakeEffect : Prop :=
  (∀ (s : State) (r : RingId) (cmd : RingCmd) (b : Bytes), s.canTake r = true → s.port.filter = [] → s.ringStatus r .submit cmd (.ok b) = 0 →
    Runs (.submit r cmd (.ok b)) s fun t => (t.req cmd.slot.toNat).state = Rq.ready ∧
      (t.req cmd.slot.toNat).ctx = s.ringCtx r ∧ (t.req cmd.slot.toNat).params = slice b 0 128 ∧
      (t.req cmd.slot.toNat).userTag = cmd.userTag.toNat ∧ (t.req cmd.slot.toNat).generated = 0 ∧
      ∀ k, k ≠ cmd.slot.toNat → t.req k = s.req k) ∧
  (∀ (s : State) (r : RingId) (cmd : RingCmd), s.canTake r = true → s.ringStatus r .cancel cmd (.ok []) = 0 →
    Runs (.cancel r cmd) s fun t => (if (s.req cmd.slot.toNat).state = Rq.running
      then (t.req cmd.slot.toNat).state = Rq.running ∧ (t.req cmd.slot.toNat).cancelPending = true
      else (t.req cmd.slot.toNat).state = Rq.ending ∧ ((s.req cmd.slot.toNat).state ≠ Rq.ending →
        (t.req cmd.slot.toNat).endStatus = End.cancelled)) ∧ ∀ k, k ≠ cmd.slot.toNat → t.req k = s.req k) ∧
  (∀ (s : State) (r : RingId) (cmd : RingCmd) (b : Bytes), s.canTake r = true → s.ringStatus r .update cmd (.ok b) = 0 →
    Runs (.update r cmd (.ok b)) s fun t => (if (s.req cmd.slot.toNat).state = Rq.running
      then (t.req cmd.slot.toNat).newParams = some (slice b 0 128) ∧ (t.req cmd.slot.toNat).params = (s.req cmd.slot.toNat).params
      else (t.req cmd.slot.toNat).params = putAt (s.req cmd.slot.toNat).params 0x28 (slice b 0x28 80)) ∧
      (t.req cmd.slot.toNat).state = (s.req cmd.slot.toNat).state ∧ ∀ k, k ≠ cmd.slot.toNat → t.req k = s.req k) ∧
  (∀ (s : State) (r : RingId) (cmd : RingCmd), s.canTake r = true → s.ringStatus r .setTree cmd (.ok []) = 0 →
    Runs (.setTree r cmd) s fun t => (if (s.req cmd.slot.toNat).state = Rq.running
      then (t.req cmd.slot.toNat).newTree = some cmd.addr.toNat else (t.req cmd.slot.toNat).treeHa = cmd.addr.toNat) ∧
      (t.req cmd.slot.toNat).state = (s.req cmd.slot.toNat).state ∧ ∀ k, k ≠ cmd.slot.toNat → t.req k = s.req k) ∧
  (∀ (s : State) (r : RingId) (cmd : RingCmd) (b : Bytes), s.canTake r = true → s.ringStatus r .issue cmd (.ok b) = 0 →
    Runs (.issue r cmd (.ok b)) s fun t => t.hub.nextId = s.hub.nextId + cmd.slot.toNat ∧
      t.hub.queue.map (·.bytes) = s.hub.queue.map (·.bytes) ++ issueTiles cmd.slot.toNat b ∧
      t.issues = s.issues ++ [⟨r, (s.ring r).taken, cmd.slot.toNat, cmd.userTag.toNat, s.ringCtx r, cmd.slot.toNat, 0, 0⟩] ∧
      t.reqs = s.reqs ∧ SameMemory s t) ∧
  (∀ (s : State) (r : RingId) (cmd : RingCmd), s.canTake r = true → s.ringStatus r .nop cmd (.ok []) = 0 →
    Runs (.nop r cmd) s fun t => (t.ring r).waiting = (s.ring r).waiting ++
      [((s.ring r).taken, cmd.slot.toNat, cmd.userTag.toNat)] ∧ t.reqs = s.reqs ∧ SameMemory s t)

/-- While a period runs, no memory unit is in error and the host holds no line: where the walk stands at a valid ONCE entry, the entry's command joins the hub queue once with the period's tag; at a valid GROUP entry it joins once for each batch group it applies to, patched for that group; the walk then looks at the entries that follow, and where the entry is the last of the program and the period has no prefill chunk, nothing else changes but the count of walks. A due group whose earlier commands have ended is handed over once: each of its sampled columns of an open step becomes one job, in the order of the steps. -/
def Obligations.ProgramEntries : Prop :=
  (∀ (s : State) (c : Ctx) (b : Bytes), (s.period c).running = true → (s.period c).columns ≠ [] → Calm s →
    (s.period c).progIdx < (s.period c).progEntries → s.progEntry c = .ok b → entryOk b (s.applies c b) = true →
    fieldAt b 0x40 1 = Prog.once → Runs (.onceEntry c) s fun t => ∃ u : State,
      u.hub.queue.map (·.bytes) = s.hub.queue.map (·.bytes) ++ [patched s c b none] ∧
      u.period c = { s.period c with progIdx := (s.period c).progIdx + 1 } ∧
      u.reqs = s.reqs ∧ u.outbox = s.outbox ∧ SameRegs [Reg.xltCnt] s u ∧ SameMemory s u ∧ t = u.after (walkOn c) ∧
      ((s.period c).progIdx + 1 = (s.period c).progEntries → (∀ x ∈ (s.period c).steps, x.prefill = false) → t = u)) ∧
  (∀ (s : State) (c : Ctx) (b : Bytes), (s.period c).running = true → (s.period c).columns ≠ [] → Calm s →
    (s.period c).progIdx < (s.period c).progEntries → s.progEntry c = .ok b → entryOk b (s.applies c b) = true →
    fieldAt b 0x40 1 = Prog.group → Runs (.groupEntry c) s fun t => ∃ u : State,
      u.hub.queue.map (·.bytes) = s.hub.queue.map (·.bytes) ++ (s.applies c b).map (fun g => patched s c b (some g)) ∧
      u.period c = { s.period c with progIdx := (s.period c).progIdx + 1 } ∧ u.reqs = s.reqs ∧ u.outbox = s.outbox ∧
      SameRegs [Reg.xltCnt] s u ∧ SameMemory s u ∧ t = u.after (walkOn c) ∧
      ((s.period c).progIdx + 1 = (s.period c).progEntries → (∀ x ∈ (s.period c).steps, x.prefill = false) → t = u)) ∧
  (∀ (s : State) (c : Ctx) (g : Nat) (d : SampleDue), s.dueGroup c g = some d → Runs (.sampleEntry c g) s fun t =>
    (t.period c).due = eraseFirst (· == d) (s.period c).due ∧
    t.sampler.queue.map (fun j => (j.ctx, j.step, j.column, j.info)) =
      s.sampler.queue.map (fun j => (j.ctx, j.step, j.column, j.info)) ++ (s.openSteps c fun _ => true).flatMap (fun x =>
        ((s.sampledOf c x.2).filter (· / 64 == g)).map fun k => (c.val, x.1, k, d.info)) ∧
    t.reqs = s.reqs ∧ t.regs = s.regs ∧ t.outbox = s.outbox ∧ SameMemory s t)

/-- The sampling units: a job is taken, its column's token is picked, and a step with all its results pours -/
def Obligations.SamplingJobs : Prop :=
  (∀ (s : State) (u : Fin 2) (j : SampleJob) (rest : List SampleJob), s.sampler.queue = j :: rest →
    s.sampler.unit u = none → s.flag (Fld.smpCtrlEnable.item u) = true → s.flag (Fld.smpStatusFailed.item u) = false →
    Runs (.samplingJobStart u) s fun t => t.sampler.unit u = some j ∧ t.sampler.queue = rest ∧
      t.fget (Fld.smpStatusBusy.item u) = 1 ∧ SameRegs [(Fld.smpStatusBusy.item u).addr] s t ∧ SameMemory s t) ∧
  (∀ (s : State) (u : Fin 2) (j : SampleJob), s.sampler.unit u = some j → (s.period j.ctx).running = false →
    Runs (.samplingJobComplete u) s fun t => t.sampler.unit u = none ∧ t.fget (Fld.smpStatusBusy.item u) = 0 ∧
      t.reqs = s.reqs ∧ t.outbox = s.outbox ∧ SameRegs [(Fld.smpStatusBusy.item u).addr] s t ∧ SameMemory s t) ∧
  (∀ (s : State) (u : Fin 2) (j : SampleJob) (st : Step) (col : Column) (cs : List Cand), s.sampler.unit u = some j →
    (s.period j.ctx).running = true → (s.period j.ctx).steps[j.step]? = some st →
    (s.period j.ctx).columns[j.column]? = some (some col) → s.stepOpen st = true →
    j.tag = s.fget (Fld.reqPeriodNowTag j.ctx) → s.hostUp = true → Calm s →
    s.columnCands j.ctx (s.req st.slot) j.info j.column = .ok cs → st.results = [] →
    (∀ (tok : Nat) (lp : F32), columnPick (s.req st.slot) (s.period j.ctx).vocab (col.position + 1) cs = some (tok, lp) →
      st.prefill = false → st.nodes = [] → st.count = 1 → st.treeRejected = false → j.column = st.first → col.sample = true →
      (s.req st.slot).cancelPending = false →
      endAfter (s.req st.slot) tok ((s.req st.slot).generated + 1) ((s.req st.slot).position + 1) = 0 →
      Runs (.samplingJobComplete u) s fun t => t.sampler.unit u = none ∧ t.fget (Fld.smpStatusBusy.item u) = 0 ∧
        Counted (Fld.smpCntJobs u) s t ∧
        t.outbox = s.outbox ++ [.hostWrite ((s.req st.slot).pf 0x40 8 + 64 +
            16 * ((s.req st.slot).produced % (s.req st.slot).ringSize))
          (leBytes 4 (tok % 2 ^ 20) ++ leBytes 4 lp.toNat ++ leBytes 4 ((s.req st.slot).position + 1) ++
            leBytes 2 (phaseOf (s.req st.slot) (s.req st.slot).produced * 2 ^ 15) ++
            leBytes 2 ((s.req st.slot).produced % 65536))] ∧
        (t.req st.slot).state = Rq.ready ∧ (t.req st.slot).position = (s.req st.slot).position + 1 ∧
        (t.req st.slot).lastToken = tok ∧ (t.req st.slot).generated = (s.req st.slot).generated + 1 ∧
        (t.req st.slot).produced = countUp (s.req st.slot).produced ∧ (∀ k, k ≠ st.slot → t.req k = s.req k) ∧
        SameOutside (s.descAddr st.slot) 256 s t) ∧
    (columnPick (s.req st.slot) (s.period j.ctx).vocab (col.position + 1) cs = none →
      st.prefill = false → st.nodes = [] → st.count = 1 → j.column = st.first → col.sample = true →
      Runs (.samplingJobComplete u) s fun t => t.sampler.unit u = none ∧ Counted (Fld.smpCntJobs u) s t ∧
        (t.req st.slot).state = Rq.ending ∧ (t.req st.slot).endStatus = End.noToken ∧ t.outbox = s.outbox ∧
        (∀ k, k ≠ st.slot → t.req k = s.req k) ∧ SameOutside (s.descAddr st.slot) 256 s t) ∧
    ((∃ k ∈ s.sampledOf j.ctx st, k ≠ j.column) → st.first ≤ j.column → Runs (.samplingJobComplete u) s fun t =>
      t.sampler.unit u = none ∧ Counted (Fld.smpCntJobs u) s t ∧ t.reqs = s.reqs ∧ t.outbox = s.outbox ∧ SameMemory s t ∧
      (∃ r, (t.period j.ctx).steps[j.step]? = some { st with results := [r] } ∧ r.info = j.info ∧
        r.node = j.column - st.first ∧
        r.pick = columnPick (s.req st.slot) (s.period j.ctx).vocab (col.position + 1) cs)))

/-- The end of a period, its drop, and end records -/
def Obligations.PeriodEnds : Prop :=
  (∀ (s : State) (c : Ctx), (s.period c).running = true → Runs (.periodEnd c) s fun t => ∃ u : State,
    (u.period c).running = false ∧ (u.period c).columns = [] ∧ (u.period c).steps = [] ∧ (u.period c).dropPending = true ∧
    u.fget (Fld.reqPeriodNowTag c) = nextTag (s.fget (Fld.reqPeriodNowTag c)) ∧ t = u.after lateBoundary ∧
    (s.sliceLate = false → t = u)) ∧
  (∀ (s : State) (c : Ctx), (s.period c).dropPending = true → Runs (.periodDropComplete c) s fun t => ∃ u : State,
    (u.period c).dropPending = false ∧ bitOf (u.rd (Reg.cxlPev c)).toNat 0 = true ∧
    (bitOf (s.rd (Reg.cxlPev c)).toNat 16 = false → u.outbox = s.outbox) ∧
    (bitOf (s.rd (Reg.cxlPev c)).toNat 16 = true → Sends (80 + c.val) s → u.outbox = s.outbox ++ [.msix (80 + c)]) ∧
    SameRegs [Reg.cxlPev c] s u ∧ SameMemory s u ∧ t = u.after lateBoundary ∧ (s.sliceLate = false → t = u)) ∧
  (∀ (s : State) (k : SlotId), (s.req k).state = Rq.ending → s.hostUp = true → (s.req k).credits ≠ 0 → TableInTier s →
    Runs (.endRecordWrite k) s fun t => (t.req k).state = Rq.free ∧ (t.req k).produced = countUp (s.req k).produced ∧
      t.outbox = s.outbox ++ [.hostWrite ((s.req k).pf 0x40 8 + 64 + 16 * ((s.req k).produced % (s.req k).ringSize))
        (leBytes 4 (s.req k).endStatus ++ leBytes 4 0 ++ leBytes 4 (s.req k).position ++
          leBytes 2 (1 + phaseOf (s.req k) (s.req k).produced * 2 ^ 15) ++ leBytes 2 ((s.req k).produced % 65536))] ∧
      (∀ j, j ≠ k.val → t.req j = s.req j) ∧ SameRegs [Reg.reqCnt2] s t ∧ SameOutside (s.descAddr k) 256 s t) ∧
  (∀ (s : State) (c : Ctx), s.ctxState c = 4 → s.Canonical → TableInTier s → Runs (.unloadEndRecordTimeout c) s fun t =>
    (∀ k, (s.req k).state = Rq.ending → (s.req k).ctx = c → (s.req k).credits = 0 → (t.req k).state = Rq.free) ∧
    (∀ k, ¬((s.req k).state = Rq.ending ∧ (s.req k).ctx = c ∧ (s.req k).credits = 0) → t.req k = s.req k) ∧
    SameRegs [Reg.reqCnt2] s t ∧ t.outbox = s.outbox) ∧
  (∀ s : State, s.basic = true → s.flt.basicTick ≠ none → s.Canonical → TableInTier s →
    Runs .basicEndRecordTimeout s fun t =>
      (∀ k, (s.req k).state = Rq.ending → (s.req k).ctx < 16 → (s.req k).credits = 0 → (t.req k).state = Rq.free) ∧
      (∀ k, ¬((s.req k).state = Rq.ending ∧ (s.req k).ctx < 16 ∧ (s.req k).credits = 0) → t.req k = s.req k) ∧
      t.flt.basicTick = none ∧ SameRegs [Reg.reqCnt2] s t ∧ t.outbox = s.outbox)

/-- The start of a period, and the completion of ISSUE, of NOP and of a ranking -/
def Obligations.PeriodStartAndCompletions : Prop :=
  (∀ (s : State) (c : Ctx) (heads trees prompts : List (SlotId × HostResult)), s.canStart c = true → s.port.filter = [] →
    Runs (.periodStart c heads trees prompts) s fun t => ∃ u : State,
      (u.period c).running = true ∧ (u.period c).serial = (s.period c).serial + 1 ∧
      (u.period c).budget = s.fget (Fld.reqCtxBudget c) ∧ u.fget (Fld.reqPeriodNowTag c) = max 1 (s.fget (Fld.reqPeriodNowTag c)) ∧
      (u.period c).progIdx = 0 ∧ u.hub = s.hub ∧
      t = ((u.after (forA (u.period c).steps runRequest)).after (writeBatch c)).after (walkOn c)) ∧
  (∀ (s : State) (c : Ctx), s.canStart c = true → Calm s → s.ranked c = [] →
    s.checkVa (engineAgent c) (s.batchVaOf c ((s.period c).serial + 1) (s.fget (Fld.reqCtxBudget c))) 64 = none →
    Runs (.periodStart c [] [] []) s fun t => (t.period c).running = true ∧ (t.period c).columns = [] ∧
      (t.period c).serial = (s.period c).serial + 1 ∧ (t.period c).budget = s.fget (Fld.reqCtxBudget c) ∧
      t.fget (Fld.reqPeriodNowTag c) = max 1 (s.fget (Fld.reqPeriodNowTag c)) ∧ t.reqs = s.reqs ∧ t.hub = s.hub ∧
      t.outbox = s.outbox) ∧
  (∀ (s : State) (c : Ctx) (k : SlotId) (ps : PeriodSettings), s.canStart c = true → Calm s → NoFinal s →
    (s.image c).period = some ps → s.ranked c = [(k.val, s.req k)] → (s.req k).promoted = true → s.compacting k = false →
    (s.req k).promptDone = (s.req k).promptLen → (s.req k).treeHa = 0 → 1 ≤ (s.req k).credits → 1 ≤ ps.maxSequences →
    1 + s.fget (Fld.reqCtxBudget c) * ps.prefillShare / 1000 ≤ s.fget (Fld.reqCtxBudget c) →
    s.fget (Fld.reqCtxProgEntries c) = 0 → TableInTier s →
    (s.after (runRequest { slot := k, prefill := false, first := 0, count := 1 })).checkVa (engineAgent c)
      (s.batchVaOf c ((s.period c).serial + 1) (s.fget (Fld.reqCtxBudget c))) 1088 = none →
    Runs (.periodStart c [] [] []) s fun t => (t.req k).state = Rq.running ∧ (∀ j, j ≠ k.val → t.req j = s.req j) ∧
      (t.period c).columns = some ⟨k.val, (s.req k).position, (s.req k).lastToken % 2 ^ 20, none, true, false, false⟩ ::
        List.replicate 63 none ∧ (t.period c).decodeGroups = 1 ∧ (t.period c).prefillGroups = 0 ∧
      (t.period c).running = true ∧ t.hub = s.hub ∧ t.outbox = s.outbox) ∧
  (∀ (s : State) (r : RingId) (index : Nat) (i : Issue),
    s.issues.find? (fun x => x.ring == r.val && x.index == index) = some i → i.left = 0 → s.hostUp = true →
    Runs (.issueComplete r index) s fun t =>
      t.issues = eraseFirst (fun x => x.ring == r.val && x.index == index) s.issues ∧
      (∃ more, t.outbox = s.outbox ++ .hostWrite (s.cplBase r + 64 + 16 * ((s.ring r).completed % s.cplSize r))
        (leBytes 4 i.userTag ++ leBytes 4 i.slot ++ leBytes 1 5 ++
          leBytes 1 (if i.status ≠ 0 then i.status else if i.faulted ≠ 0 then Cpl.faulted else 0) ++
          leBytes 2 (min i.faulted 65535) ++ leBytes 4 index) ::
        .hostWrite (s.cplBase r + 8) (leBytes 4 (countUp (s.ring r).completed)) :: more) ∧
      (t.ring r).completed = countUp (s.ring r).completed ∧ t.reqs = s.reqs ∧ t.regs = s.regs ∧ SameMemory s t) ∧
  (∀ (s : State) (r : RingId) (index slot tag : Nat), (s.ring r).waiting.find? (·.1 == index) = some (index, slot, tag) →
    s.ringDeferred r index = false → s.hostUp = true → Runs (.nopComplete r index) s fun t =>
      (t.ring r).waiting = (s.ring r).waiting.filter (·.1 != index) ∧
      (∃ more, t.outbox = s.outbox ++ .hostWrite (s.cplBase r + 64 + 16 * ((s.ring r).completed % s.cplSize r))
        (leBytes 4 tag ++ leBytes 4 slot ++ leBytes 1 6 ++ leBytes 1 0 ++ leBytes 2 0 ++ leBytes 4 index) ::
        .hostWrite (s.cplBase r + 8) (leBytes 4 (countUp (s.ring r).completed)) :: more) ∧
      (t.ring r).completed = countUp (s.ring r).completed ∧ t.reqs = s.reqs ∧ t.regs = s.regs ∧ SameMemory s t) ∧
  (∀ (s : State) (c : Ctx) (heads : List (SlotId × HostResult)), Runs (.promoteRanking c heads) s fun t => ∃ u : State,
    u.mig = s.mig ∧ u.periods = s.periods ∧ (heads = [] → u = s) ∧
    t = u.after (forA (((u.ranked c).filter (fun x => x.2.promptDone == x.2.promptLen) ++
      (u.ranked c).filter (fun x => x.2.promptDone != x.2.promptLen)).map (·.1)) postPromotes)) ∧
  (∀ (s : State) (c : Ctx) (k : SlotId) (b : Bytes), s.ranked c = [(k.val, s.req k)] → (s.req k).ctx = c →
    (s.req k).promotes = List.replicate ((s.req k).pf 0x64 1) .idle → (s.req k).promotes ≠ [] →
    s.mig.internal.length + (s.req k).promotes.length ≤ 256 → s.port.filter = [] → s.promoteList (s.req k) = .ok b →
    Runs (.promoteRanking c []) s fun t =>
      t.mig.internal = s.mig.internal ++ (List.range (s.req k).promotes.length).map (fun i => (c.val, k.val, fieldAt b (8 * i) 8, i)) ∧
      (t.req k).promotes = List.replicate (s.req k).promotes.length .inFlight ∧ (∀ j, j ≠ k.val → t.req j = s.req j) ∧
      t.periods = s.periods ∧ SameOutside (s.descAddr k) 256 s t)

/-- The oldest command of a group whose target cluster has a free entry leaves the hub for the end of that cluster's queue, and no other queue, register or byte changes. A GROUP_FENCE with legal fields is held; once nothing older of its group lives it leaves, and while the program of its context is still being walked nothing else changes but the count of its ISSUE. A TAA command with a row list gets its list read once; where the list and the fields are valid and the rows without a bundle may be zeroed it is replaced by its sub-tiles in place, and where the list fails its check it stays, with the list. -/
def Obligations.HubQueue : Prop :=
  (∀ (s : State) (c : Ctx) (g : Byte) (q : QCmd) (k : Nat), s.hubHead c g.toNat = some q → s.groupWith c g.toNat ≠ none →
    q.opcode ≠ opFence → (q.needsList = true → q.listed = true) → (s.servedBy c g.toNat).bind (s.bestTarget c) = some k →
    (s.cluster k).used < 1024 → Runs (.hubDispatch c g) s fun t =>
      t.hub.queue = eraseFirst (· == q) s.hub.queue ∧ (t.cluster k).queue = (s.cluster k).queue ++ [q] ∧
      (∀ j, j ≠ k → t.cluster j = s.cluster j) ∧ t.regs = s.regs ∧ t.outbox = s.outbox ∧ SameMemory s t) ∧
  (∀ (s : State) (c : Ctx) (g : Byte) (q : QCmd), s.hubHead c g.toNat = some q → q.opcode = opFence → q.run = .waiting →
    s.groupWith c g.toNat ≠ none → fenceFieldsOk q.bytes = true → Runs (.groupFence c g) s fun t =>
      t.hub.queue = modFirst (· == q) (fun x => { x with run := .done }) s.hub.queue ∧ t.clusters = s.clusters ∧
      t.regs = s.regs ∧ SameMemory s t) ∧
  (∀ (s : State) (c : Ctx) (g : GroupId) (q : QCmd), s.hubHead c g = some q → q.opcode = opFence → q.run = .done →
    (∀ o ∈ s.liveCmds, ¬(o.ctx = c ∧ o.group = g ∧ o.id < q.id)) → Runs (.fenceRelease c g) s fun t => ∃ u : State,
      u.hub.queue = eraseFirst (· == q) s.hub.queue ∧ u.regs = s.regs ∧ u.reqs = s.reqs ∧ SameMemory s u ∧
      u.outbox = s.outbox ∧ t = u.after (commitChunks c) ∧ (s.walked c = false → t = u)) ∧
  (∀ (s : State) (c : Ctx) (g : GroupId) (q : QCmd) (l : Bytes) (e : Nat × Nat), s.hubHead c g = some q → s.groupWith c g ≠ none →
    q.needsList = true → q.listed = false → s.readVa (hubAgent q) ((taaOf q.bytes).aVa - 4096) 4096 = .ok l →
    listCheck l q.periodTag (s.period c).serial = .error e → Runs (.rowListExpansion c g) s fun t =>
      t.hub.queue = modFirst (· == q) (fun x => { x with listed := true, list := l }) s.hub.queue ∧
      t.regs = s.regs ∧ SameMemory s t) ∧
  (∀ (s : State) (c : Ctx) (g : GroupId) (q : QCmd) (l : Bytes), s.hubHead c g = some q → s.groupWith c g ≠ none →
    q.needsList = true → q.listed = false → s.readVa (hubAgent q) ((taaOf q.bytes).aVa - 4096) 4096 = .ok l →
    listCheck l q.periodTag (s.period c).serial = .ok () → (taaOf q.bytes).transpose = false → taaCodesOk q.bytes = true →
    taaShapeOk q.opcode (s.routed c (taaOf q.bytes).layer) q.bytes = true →
    (∀ p ∈ zeroFill (taaOf q.bytes) l, s.hubWritable q p.1 p.2 = true) → Runs (.rowListExpansion c g) s fun t =>
      t.hub.queue = s.hub.queue.flatMap (fun x => if x == q then subTiles q l else [x]) ∧ t.regs = s.regs ∧
      ((∀ p ∈ zeroFill (taaOf q.bytes) l, p.2 = 0) → SameMemory s t))

/-- Cores take, steal, finish and fault tile commands; reprints; quiesce -/
def Obligations.CoreQueues : Prop :=
  (∀ (s : State) (n : CoreId) (q : QCmd), s.coreTakes n = true → s.entryFor n (clusterOf n) = some q →
    Runs (.coreTakeCommand n) s fun t => (t.core n).queue = (s.core n).queue ++ [{ q with inReturn := false }] ∧
      (t.cluster (clusterOf n)).queue = eraseFirst (· == q) (s.cluster (clusterOf n)).queue ∧ t.hub = s.hub ∧
      t.regs = s.regs ∧ SameOutside (galleyOf n + 64 * q.stage.1) (64 * q.stage.2) s t) ∧
  (∀ (s : State) (n : CoreId) (g : Group) (k : Nat) (q : QCmd), (s.cluster (clusterOf n)).ctx.bind (s.groupOfCore · n) = some g →
    s.coreTakes n = true → (s.core n).queue = [] → s.entryFor n (clusterOf n) = none →
    s.stealFrom n (stealPlaces n g.scope) = some (k, q) → Runs (.coreSteal n) s fun t =>
      (t.core n).queue = [{ q with inReturn := false }] ∧ (t.cluster k).queue = eraseFirst (· == q) (s.cluster k).queue ∧
      SameRegs [Reg.coreCntSteal n] s t ∧ SameOutside (galleyOf n + 64 * q.stage.1) (64 * q.stage.2) s t) ∧
  (∀ (s : State) (n : CoreId) (q : QCmd), s.finished n = some q → Runs (.tileCommandComplete n) s fun t => ∃ u : State,
    (u.core n).queue = eraseFirst (· == q) (s.core n).queue ∧ (q.pins = [] → SameMemory s u) ∧
    Counted (Fld.coreCntTilesCompleted n) s u ∧ t = u.after (commitChunks q.ctx) ∧
    (q.pins = [] → s.walked q.ctx = false → t = u)) ∧
  (∀ (s : State) (n : CoreId) (q : QCmd) (cause addr : Nat) (virtual : Bool) (detail off : Nat),
    s.faultedCmd n = some (q, cause, addr, virtual, detail, off) → Runs (.commandFault n) s fun t => ∃ u : State,
      (u.core n).queue = eraseFirst (· == q) (s.core n).queue ∧ u.flt.seq = (s.flt.seq + 1) % 2 ^ 32 ∧
      u.flag (Fld.coreFaultValid n) = true ∧ Counted (Fld.coreCntTilesFaulted n) s u ∧
      (s.flag (Fld.coreFaultValid n) = false → u.fget (Fld.coreFaultCause n) = cause % 2 ^ (Fld.coreFaultCause n).width) ∧
      t = u.after (seqA [if (cause == Cmd.poison && s.underRepair addr) = true ∧ q.periodTag = 0
          then act [.hub fun h => { h with repairHeld := h.repairHeld ++ [{ q.restart with heldFor := addr / 64 }] }]
          else seqA [cancelWith false (fun o => q.parent && o.id == q.id), countWhole q true,
            faultEffect q (!(cause == Cmd.poison && s.refetching addr)) n cause], commitChunks q.ctx])) ∧
  (∀ (s : State) (n : CoreId) (q : QCmd) (cause addr : Nat) (virtual : Bool) (detail off ring index : Nat),
    s.faultedCmd n = some (q, cause, addr, virtual, detail, off) → q.origin = .issue ring index → q.parent = false →
    q.pins = [] → ¬(cause = Cmd.poison ∧ s.underRepair addr = true) → s.walked q.ctx = false → s.flt.queue.length < 256 →
    Runs (.commandFault n) s fun t => (t.core n).queue = eraseFirst (· == q) (s.core n).queue ∧ t.hub.queue = s.hub.queue ∧
      t.reqs = s.reqs ∧ t.outbox = s.outbox ∧ Counted (Fld.coreCntTilesFaulted n) s t ∧
      (∃ x, t.flt.queue = s.flt.queue ++ [x] ∧ x.cls = 1 ∧ x.unit = n.val ∧ x.detail = cause ∧ x.context = q.ctx) ∧
      t.issues = modFirst (fun i => i.ring == ring && i.index == index)
        (fun i => { i with left := i.left - 1, faulted := i.faulted + 1 }) s.issues ∧ (q.wrote = [] → SameMemory s t)) ∧
  (∀ (s : State) (n : CoreId) (q : QCmd), s.nextRun n = some q → q.opcode = 0 ∨ 0x0F < q.opcode →
    Runs (.reservedOpcode n) s fun t => (t.core n).queue =
      modFirst (· == q) (fun x => { x with run := .faulted Cmd.command 0 false 0 0, wrote := x.wrote ++ s.outPlaces n q })
        (s.core n).queue ∧ t.regs = s.regs ∧ t.hub = s.hub ∧ SameMemory s t) ∧
  (∀ (s : State) (n : CoreId) (q : QCmd), s.triggered n = some q → widerFmt (q.pass.getD (taaOf q.bytes).actFmt) = none ∨
    (taaOf q.bytes).wideVa = 0 ∨ (s.image q.ctx).numerics.reprintMax ≤ q.reprints → Runs (.reprintTrigger n) s fun t =>
      (t.core n).queue = modFirst (· == q) (fun x => { x with run := .faulted Cmd.numeric 0 false 0 0 }) (s.core n).queue ∧
      t.regs = s.regs ∧ SameMemory s t) ∧
  (∀ (s : State) (n : CoreId) (q : QCmd) (f : Nat), s.triggered n = some q →
    widerFmt (q.pass.getD (taaOf q.bytes).actFmt) = some f → (taaOf q.bytes).wideVa ≠ 0 →
    q.reprints < (s.image q.ctx).numerics.reprintMax → Runs (.reprintTrigger n) s fun t => ∃ u : State,
      (u.core n).queue = modFirst (· == q) (fun _ => { q with run := .waiting, pass := some f, reprints := q.reprints + 1 })
        (s.core n).queue ∧ SameMemory s u ∧ SameRegs [(Fld.coreCntRetryReprints n).addr] s u ∧
      Counted (Fld.coreCntRetryReprints n) s u ∧
      t = u.after (taaCmd n { q with run := .waiting, pass := some f, reprints := q.reprints + 1 })) ∧
  (∀ (s : State) (n : CoreId) (b : Bool), s.bound = true → Runs (.coreQuiesce n b) s fun t =>
    t.fget (Fld.coreCtrlQuiesce n) = b2n b ∧ SameRegs [(Fld.coreCtrlQuiesce n).addr] s t ∧ SameMemory s t)

/-- A cluster with no request that counts drops its requests; nothing changes beside but its clock domain. Otherwise the oldest request, which a command of its context waits for or whose decode was running, is served: from a buffer that holds the block, or, while its clock domain runs, no memory unit is in error and the host holds no line, by decoding it from its view; the block becomes the buffer used last, a command that waits for it holds it, the request is gone, and memory is unchanged. A block that fails its format check answers the request too: a command that waits for it faults with FORMAT, the error is logged where the log has room, and the buffers are unchanged. -/
def Obligations.Expander : Prop :=
  (∀ (s : State) (k : ClusterId), s.expFirst k = none → Runs (.expanderBlockDecoded k) s fun t =>
    (t.cluster k).expReqs = [] ∧ t.fget (Fld.clkDomState 14) = 2 ∧ SameRegs [Reg.clkDom 14] s t ∧ SameMemory s t) ∧
  (∀ (s : State) (k : ClusterId) (r : ExpReq) (b : ExpBuf), s.expFirst k = some r →
    (s.cluster k).expBufs.find? (fun b => b.ctx == r.ctx && b.va == r.va) = some b →
    (r.gone = true ∨ ((s.core r.core).queue.any fun q => q.wantsBlock r && q.ctx == r.ctx) = true) →
    Runs (.expanderBlockDecoded k) s fun t => (t.cluster k).expBufs.getLast? = some ⟨r.ctx, r.va, b.data⟩ ∧
      r ∉ (t.cluster k).expReqs ∧ SameRegs [Reg.clkDom 14] s t ∧ SameMemory s t ∧
      (r.gone = false → ∃ q ∈ (t.core r.core).queue, q.id = r.cmd ∧ tabGet (fun _ => []) q.blocks (blockKeyOf r.va) = b.data)) ∧
  (∀ (s : State) (k : ClusterId) (r : ExpReq) (v : Nat) (e : Bytes) (b : Bytes), s.expFirst k = some r →
    (s.cluster k).expBufs.find? (fun b => b.ctx == r.ctx && b.va == r.va) = none → s.fget (Fld.clkDomState 14) = 2 →
    Calm s → s.viewAt (k / 16) r.ctx r.va = some (v, e) → s.viewBlock (k / 16) r.agent (viewOf e) r.va = .ok b →
    (r.gone = true ∨ ((s.core r.core).queue.any fun q => q.wantsBlock r && q.ctx == r.ctx) = true) →
    Runs (.expanderBlockDecoded k) s fun t => (t.cluster k).expBufs.getLast? = some ⟨r.ctx, r.va, b⟩ ∧
      r ∉ (t.cluster k).expReqs ∧ SameMemory s t ∧
      (r.gone = false → ∃ q ∈ (t.core r.core).queue, q.id = r.cmd ∧ tabGet (fun _ => []) q.blocks (blockKeyOf r.va) = b)) ∧
  (∀ (s : State) (k : ClusterId) (r : ExpReq) (v : Nat) (e : Bytes) (d : Nat), s.expFirst k = some r →
    (s.cluster k).expBufs.find? (fun b => b.ctx == r.ctx && b.va == r.va) = none → s.fget (Fld.clkDomState 14) = 2 →
    Calm s → s.viewAt (k / 16) r.ctx r.va = some (v, e) → s.viewBlock (k / 16) r.agent (viewOf e) r.va = .error (.format d) →
    (r.gone = true ∨ ((s.core r.core).queue.any fun q => q.wantsBlock r && q.ctx == r.ctx) = true) →
    Runs (.expanderBlockDecoded k) s fun t => r ∉ (t.cluster k).expReqs ∧ (t.cluster k).expBufs = (s.cluster k).expBufs ∧
      (s.cmpErrs.length < 32 → ∃ x, t.cmpErrs = s.cmpErrs ++ [x] ∧ x.1 = r.va % 2 ^ 57) ∧ SameMemory s t ∧
      (r.gone = false → ∃ q ∈ (t.core r.core).queue, q.id = r.cmd ∧ q.run = .faulted Cmd.format 0 false 0 0))

/-- A tile command whose operands can be read and whose output can be written finishes, and its output stands in memory -/
def Obligations.TileCommandsFinish : Prop :=
  (∀ (s : State) (n : CoreId) (q : QCmd) (c : Instr) (op : Nat) (m : QCmd → State → Run Unit) (tr : Trace),
    (c = .taaDense n ∧ op = 1 ∧ m = taaRun n) ∨ (c = .taaShift1 n ∧ op = 2 ∧ m = taaRun n) ∨
    (c = .taaShift2 n ∧ op = 3 ∧ m = taaRun n) ∨ (c = .taaTable n ∧ op = 4 ∧ m = taaRun n) ∨
    (c = .taaPlane n ∧ op = 5 ∧ m = taaRun n) ∨ (c = .cuGemm n ∧ op = 6 ∧ m = gemmRun n) ∨
    (c = .cuWgrad n ∧ op = 7 ∧ m = wgradRun n) ∨ (c = .vec n ∧ op = 8 ∧ m = vecRun n) ∨
    (c = .topk n ∧ op = 9 ∧ m = topkRun n) ∨ (c = .matchCmd n ∧ op = 0x0A ∧ m = matchRun n) ∨
    (c = .attn n ∧ op = 0x0B ∧ m = attnRun n) ∨ (c = .combine n ∧ op = 0x0C ∧ m = combRun n) ∨
    (c = .dma n ∧ op = 0x0D ∧ m = dmaRun n) ∨ (c = .preflight n ∧ op = 0x0F ∧ m = preRun n) →
    s.tiersUp = true → s.nextOf n op = some q → (m q (s.readyRun n)).run.run (unitsOf (s.core n) q) = (.ok (), tr) →
    newPins q tr = [] → Runs c s fun t => ∃ (u : State) (q' : QCmd), q'.bytes = q.bytes ∧ q'.id = q.id ∧ q'.lost = q.lost ∧
      (u.core n).queue = modFirst (· == q) (fun _ => q') (s.core n).queue ∧ u.hub = s.hub ∧ u.port.filter = s.port.filter ∧
      (Calm s → u.outbox = s.outbox) ∧ (∀ a, OffStage s n a → u.peek a = s.peek a) ∧ t = u.after (finishRun n q' tr) ∧
      ((∀ p ∈ tr.outs, u.windowPieces (tileAgent n q') p.1 p.2 = []) →
        t.outbox = u.outbox ∧ t.hub = s.hub ∧ ∃ w, (t.core n).queue = modFirst (· == q')
          (fun x => { x with run := .done, wrote := w, unsent := [], idle := tr.idle, misses := tr.misses, blocks := [] })
          (u.core n).queue) ∧
      (∀ (va : Nat) (d : Bytes) (w : Walk), tr.rows = [] → tr.outs = [(va, d)] → pagePieces va d.length = [(va, d.length)] →
        u.xlate (tileAgent n q') va 1 = .ok w → s.inTier w.pa = true → s.inTier (w.pa + d.length - 1) = true → w.pa % 64 = 0 →
        d.length % 64 = 0 → (∀ i, i < d.length → s.retired (w.pa + i) = false) → NoFinal s → q.lost = [] →
        t.peekN w.pa d.length = d ∧
        ∀ a, OffStage s n a → a < w.pa ∨ w.pa + d.length ≤ a → t.peek a = s.peek a)) ∧
  (∀ (s r : State) (n : CoreId) (q : QCmd), s.tiersUp = true → s.nextOf n 0x0D = some q → r = s.readyRun n →
    dmaCodesOk q.bytes = true → dmaShapeOk q.bytes = true → fieldAt q.bytes 1 1 = 1 →
    r.windowAt (tileAgent n q) (fieldAt q.bytes 0x18 8 % 2 ^ 57) (fieldAt q.bytes 8 4) = none →
    r.viewMet (dieOf n) q.ctx (fieldAt q.bytes 0x18 8 % 2 ^ 57) (fieldAt q.bytes 8 4) = none →
    r.checkVa (tileAgent n q) (fieldAt q.bytes 0x18 8 % 2 ^ 57) (fieldAt q.bytes 8 4) = none → s.port.filter = [] → NoFinal s →
    ∃ tr : Trace, (dmaRun n q r).run.run (unitsOf (s.core n) q) = (.ok (), tr) ∧ newPins q tr = [] ∧
      tr.outs = [(fieldAt q.bytes 0x18 8 % 2 ^ 57, (List.replicate (fieldAt q.bytes 8 4 / 8) (slice q.bytes 0x20 8)).flatten)] ∧
      tr.rows = [] ∧ Runs (.dma n) s fun t => ∃ (u : State) (q' : QCmd), q'.bytes = q.bytes ∧ q'.id = q.id ∧
        (u.core n).queue = modFirst (· == q) (fun _ => q') (s.core n).queue ∧ t = u.after (finishRun n q' tr))

/-- When the fields of a core's next command fail the checks of reserved fields and codes, the command is marked faulted with cause COMMAND; when they pass and a value lies outside a stated range, with cause SHAPE. Memory having come up; beside the staging regions of the core's commands, whose data is undefined, no byte of memory changes; no register but those of the clocks of the core's die, no queue but the core's own and nothing that was sent changes. -/
def Obligations.TileCommandsRefuseBadFields : Prop :=
  (∀ (s : State) (n : CoreId) (q : QCmd) (c : Instr) (op : Nat) (ok : Bytes → Bool),
    (c = .taaDense n ∧ op = 1 ∧ ok = taaCodesOk) ∨ (c = .taaShift1 n ∧ op = 2 ∧ ok = taaCodesOk) ∨
    (c = .taaShift2 n ∧ op = 3 ∧ ok = taaCodesOk) ∨ (c = .taaTable n ∧ op = 4 ∧ ok = taaCodesOk) ∨
    (c = .taaPlane n ∧ op = 5 ∧ ok = taaCodesOk) ∨ (c = .cuGemm n ∧ op = 6 ∧ ok = cuCodesOk) ∨
    (c = .cuWgrad n ∧ op = 7 ∧ ok = cuCodesOk) ∨ (c = .vec n ∧ op = 8 ∧ ok = vecCodesOk) ∨
    (c = .topk n ∧ op = 9 ∧ ok = topkCodesOk) ∨ (c = .matchCmd n ∧ op = 0x0A ∧ ok = matchCodesOk) ∨
    (c = .attn n ∧ op = 0x0B ∧ ok = attnCodesOk) ∨ (c = .combine n ∧ op = 0x0C ∧ ok = combCodesOk) ∨
    (c = .dma n ∧ op = 0x0D ∧ ok = dmaCodesOk) ∨ (c = .preflight n ∧ op = 0x0F ∧ ok = preCodesOk) →
    s.tiersUp = true → s.nextOf n op = some q → ok q.bytes = false → Runs c s fun t =>
      (∃ w r, (t.core n).queue = modFirst (· == q)
        (fun x => { x with run := .faulted Cmd.command 0 false 0 0, wrote := w, region := r }) (s.core n).queue) ∧
      SameRegs [Reg.clkDom (dieOf n), Reg.clkDom (4 + dieOf n)] s t ∧ t.hub = s.hub ∧ t.clusters = s.clusters ∧
      t.outbox = s.outbox ∧ ∀ a, OffStage s n a → t.peek a = s.peek a) ∧
  (∀ (s : State) (n : CoreId) (q : QCmd) (c : Instr) (op : Nat) (codes shape : Bytes → Bool),
    (c = .cuGemm n ∧ op = 6 ∧ codes = cuCodesOk ∧ shape = cuShapeOk false) ∨
    (c = .cuWgrad n ∧ op = 7 ∧ codes = cuCodesOk ∧ shape = cuShapeOk true) ∨
    (c = .vec n ∧ op = 8 ∧ codes = vecCodesOk ∧ shape = vecShapeOk) ∨
    (c = .topk n ∧ op = 9 ∧ codes = topkCodesOk ∧ shape = topkShapeOk) ∨
    (c = .matchCmd n ∧ op = 0x0A ∧ codes = matchCodesOk ∧ shape = matchShapeOk (s.image q.ctx).sparsity.formats) ∨
    (c = .combine n ∧ op = 0x0C ∧ codes = combCodesOk ∧ shape = combShapeOk) ∨
    (c = .dma n ∧ op = 0x0D ∧ codes = dmaCodesOk ∧ shape = dmaShapeOk) ∨
    (c = .preflight n ∧ op = 0x0F ∧ codes = preCodesOk ∧ shape = preShapeOk) → s.tiersUp = true →
    s.nextOf n op = some q → codes q.bytes = true → shape q.bytes = false → Runs c s fun t =>
      (∃ w r, (t.core n).queue = modFirst (· == q)
        (fun x => { x with run := .faulted Cmd.shape 0 false 0 0, wrote := w, region := r }) (s.core n).queue) ∧
      SameRegs [Reg.clkDom (dieOf n), Reg.clkDom (4 + dieOf n)] s t ∧ t.hub = s.hub ∧ t.outbox = s.outbox ∧
      ∀ a, OffStage s n a → t.peek a = s.peek a)

/-- While version 3.0 is bound: an operation written while the loader is busy sets overrun and nothing else. An operation that its slot's state does not accept is refused with cause CONTEXT_STATE, sets done, is counted and raises vector 3, which leaves where it is sent at once, and the slot and the loader's work stand. An accepted LOAD of an EMPTY slot with a legal source and length makes the slot LOADING and starts the copy; REPLACE and VALIDATE start the copy and leave the slot as it is. An accepted UNLOAD withdraws a PENDING load, or makes the slot DRAINING and drains the context; of a context without a command, a request, a running period or an import in flight nothing else changes. -/
def Obligations.LoaderOperations : Prop :=
  (∀ (s : State) (c : Ctx) (i : Instr), s.bound3 = true → s.flag Fld.impStatusBusy = true →
    i = .load c ∨ i = .replace c ∨ i = .unload c ∨ i = .validate c → Runs i s fun t =>
      t.fget Fld.impStatusOverrun = 1 ∧ t.loader = s.loader ∧ SameRegs [Reg.impStatus] s t ∧ SameMemory s t) ∧
  (∀ (s : State) (c : Ctx) (i : Instr) (op : Nat), s.bound3 = true → s.flag Fld.impStatusBusy = false →
    (i = .load c ∧ op = 1) ∨ (i = .replace c ∧ op = 2) ∨ (i = .unload c ∧ op = 3) ∨ (i = .validate c ∧ op = 4) →
    opAccepts op (s.ctxState c) = false → Runs i s fun t => t.fget Fld.impStatusCause = Cause.contextState ∧
      t.fget Fld.impStatusDone = 1 ∧ t.fget Fld.impStatusOp = op ∧ t.fget Fld.impStatusContext = c ∧
      (Sends Vec.loader s → t.outbox = s.outbox ++ [.msix Vec.loader]) ∧ Counted Fld.impCountRejects s t ∧
      t.loader = s.loader ∧ (∀ k : Ctx, t.ctxState k = s.ctxState k) ∧
      SameRegs [Reg.impStatus, Reg.impCount] s t ∧ SameMemory s t) ∧
  (∀ (s : State) (c : Ctx), s.bound3 = true → s.flag Fld.impStatusBusy = false → s.loader.pending = none → s.basic = false →
    s.ctxState c = 0 → s.stagedOk = true → Runs (.load c) s fun t => t.ctxState c = 1 ∧ t.fget Fld.impStatusBusy = 1 ∧
      t.loader.phase = .copying ∧ t.loader.op = 1 ∧ t.loader.ctx = c ∧ t.loader.src = s.fget Fld.impSrcAddr ∧
      t.loader.len = s.fget Fld.impLenLength ∧ (∀ k : Ctx, k ≠ c → t.ctxState k = s.ctxState k) ∧ t.outbox = s.outbox ∧
      SameRegs [Reg.impStatus, (Fld.impCtxStateOf c).addr] s t ∧ SameMemory s t) ∧
  (∀ (s : State) (c : Ctx) (i : Instr) (op : Nat), s.bound3 = true → s.flag Fld.impStatusBusy = false →
    s.loader.pending = none → (i = .replace c ∧ op = 2 ∧ (s.ctxState c = 2 ∨ s.ctxState c = 3) ∧ s.basic = false) ∨ (i = .validate c ∧ op = 4) →
    s.stagedOk = true → Runs i s fun t => t.fget Fld.impStatusBusy = 1 ∧ t.loader.phase = .copying ∧ t.loader.op = op ∧
      t.loader.ctx = c ∧ t.ctxs = s.ctxs ∧ SameRegs [Reg.impStatus] s t ∧ SameMemory s t) ∧
  (∀ (s : State) (c : Ctx), s.bound3 = true → s.flag Fld.impStatusBusy = false → s.ctxState c = 6 →
    Runs (.unload c) s fun t => t.ctxState c = (if s.loader.unloadDone then 0 else 5) ∧ t.loader.pending = none ∧
      t.fget Fld.impStatusPending = 0 ∧ t.fget Fld.impStatusDone = 1 ∧
      (Sends Vec.loader s → t.outbox = s.outbox ++ [.msix Vec.loader]) ∧ t.ctxs = s.ctxs ∧
      SameRegs [Reg.impStatus, (Fld.impCtxStateOf c).addr] s t ∧ SameMemory s t) ∧
  (∀ (s : State) (c : Ctx), s.bound3 = true → s.flag Fld.impStatusBusy = false → s.ctxState c = 2 ∨ s.ctxState c = 3 →
    Runs (.unload c) s fun t => ∃ u : State, u.ctxState c = 4 ∧ (u.ctx c).held = none ∧ (u.ctx c).image = (s.ctx c).image ∧
      u.hub = s.hub ∧ SameMemory s u ∧
      t = ((u.after (drainWork c)).after (act [.fld Fld.impStatusDone 1])).after (raise Vec.loader)) ∧
  (∀ (s : State) (c : Ctx), s.bound3 = true → s.flag Fld.impStatusBusy = false → s.ctxState c = 2 ∨ s.ctxState c = 3 →
    (s.period c).running = false → (∀ q ∈ s.liveCmds, q.ctx ≠ c) → s.slotsOf c = [] → (∀ o ∈ s.sec.imports, o.ctx ≠ c) →
    s.sliceLate = false → Runs (.unload c) s fun t => t.ctxState c = 4 ∧ (t.ctx c).held = none ∧
      (t.ctx c).image = (s.ctx c).image ∧ t.fget Fld.impStatusDone = 1 ∧ t.hub.queue = s.hub.queue ∧ t.reqs = s.reqs ∧
      (Sends Vec.loader s → t.outbox = s.outbox ++ [.msix Vec.loader]) ∧ SameMemory s t)

/-- When the copy ends, what its reads find is noted first; then the first staged line that may not be read rejects the image with cause CRC and its offset, and a slot that was LOADING is EMPTY. Where every line may be read and no memory unit is in error, an image whose slot is not PENDING is validated next, and one whose slot is PENDING waits, copied. A pending load is validated once its slot is unloaded. A valid image is applied by a LOAD, held by a REPLACE and only judged by a VALIDATE; an invalid one is rejected with its cause. A drained context releases its windows and pool banks; with no bank and no cluster, memory stands. When the release ends its keys are gone and the slot is EMPTY. -/
def Obligations.LoaderCompletion : Prop :=
  (∀ (s r : State) (a k : Nat), s.loader.phase = .copying → r = s.after (noteReads 0 1 s.loader.src s.loader.len) →
    (linePieces s.loader.src s.loader.len).find? (fun p => !r.stagedLine p.1) = some (a, k) → s.loader.ctx < 16 →
    Runs .imageCopyComplete s fun t =>
      t.fget Fld.impStatusCause = Cause.crc ∧ t.fget Fld.impStatusBusy = 0 ∧ t.fget Fld.impStatusDone = 1 ∧
      t.fget Fld.impStatusFailOffset = (a - s.loader.src) % 2 ^ Fld.impStatusFailOffset.width ∧ t.loader.phase = .idle ∧
      (s.ctxState s.loader.ctx = 1 → t.ctxState s.loader.ctx = 0) ∧ t.ctxs = s.ctxs ∧ SameMemory s t) ∧
  (∀ s : State, s.loader.phase = .copying → (∀ p ∈ linePieces s.loader.src s.loader.len, s.stagedLine p.1 = true) →
    Calm s → Runs .imageCopyComplete s fun t => t.ctxs = s.ctxs ∧ t.outbox = s.outbox ∧ SameMemory s t ∧
      (¬(s.ctxState s.loader.ctx = 6 ∧ s.loader.op = 1) → t.regs = s.regs ∧
        t.loader = { s.loader with phase := .validating, buf := s.seenN 0 s.loader.src s.loader.len }) ∧
      (s.ctxState s.loader.ctx = 6 ∧ s.loader.op = 1 → t.fget Fld.impStatusBusy = 0 ∧ SameRegs [Reg.impStatus] s t ∧
        t.loader = { s.loader with phase := .idle, buf := s.seenN 0 s.loader.src s.loader.len, copied := true })) ∧
  (∀ (s : State) (c : Nat), s.loader.pending = some c → s.loader.copied = true → s.loader.unloadDone = true → c < 16 →
    Runs .pendingLoadValidationStart s fun t => t.ctxState c = 1 ∧ t.fget Fld.impStatusBusy = 1 ∧
      t.fget Fld.impStatusPending = 0 ∧ t.loader.phase = .validating ∧ t.loader.ctx = c ∧ t.loader.op = 1 ∧
      t.loader.pending = none ∧ t.ctxs = s.ctxs ∧ t.outbox = s.outbox ∧
      SameRegs [Reg.impStatus, (Fld.impCtxStateOf c).addr] s t ∧ SameMemory s t) ∧
  (∀ (s : State) (cause off : Nat), s.loader.phase = .validating →
    checkImage s s.loader.ctx s.loader.len (s.loader.op == Lop.replace) s.loader.buf = .error (cause, off) →
    Runs .imageValidationComplete s fun t => t.fget Fld.impStatusCause = cause % 2 ^ Fld.impStatusCause.width ∧
      t.fget Fld.impStatusDone = 1 ∧ t.fget Fld.impStatusBusy = 0 ∧ t.loader.phase = .idle ∧ t.ctxs = s.ctxs ∧
      Counted Fld.impCountRejects s t ∧ (Sends Vec.loader s → t.outbox = s.outbox ++ [.msix Vec.loader]) ∧ SameMemory s t) ∧
  (∀ (s : State) (img : Image), s.loader.phase = .validating →
    checkImage s s.loader.ctx s.loader.len (s.loader.op == Lop.replace) s.loader.buf = .ok img →
    Runs .imageValidationComplete s fun t => t.fget Fld.impStatusDone = 1 ∧ t.fget Fld.impStatusBusy = 0 ∧ t.loader.phase = .idle ∧
      (s.loader.op = 4 → t.ctxs = s.ctxs ∧ SameMemory s t) ∧
      (s.loader.op = 2 → (t.ctx s.loader.ctx).held = some img ∧ (t.ctx s.loader.ctx).image = (s.ctx s.loader.ctx).image ∧
        Counted Fld.impCountLoads s t ∧ SameMemory s t) ∧
      (s.loader.op = 1 → ∃ v : State, (v.ctx s.loader.ctx).image = some img ∧ (v.ctx s.loader.ctx).keyPrivate = s.sec.nextKey ∧
        v.sec.nextKey = s.sec.nextKey + 1 ∧ (s.loader.ctx < 16 → v.ctxState s.loader.ctx = 2) ∧ SameMemory s v ∧
        t = (v.after (installImage s.loader.ctx {})).after loaderDone)) ∧
  (∀ (s : State) (c : Ctx), s.ctxState c = 4 → s.slotsOf c = [] → (∀ i ∈ s.issues, i.ctx ≠ c) →
    Runs (.unloadDrainComplete c) s fun t => ∃ u : State, u.ctxState c = 5 ∧ u.windows = s.windows.filter (·.ctx != c.val) ∧
      SameMemory s u ∧ t.windows = u.windows ∧ t = ((u.after (forA ((s.image c).pools.map (·.bank)) releaseBank)).after
        (forA ((List.range 64).filter fun k => (s.cluster k).ctx == some c.val) leaveCluster)).after (act [dropContext c]) ∧
      ((s.image c).pools = [] → (∀ k, k < 64 → (s.cluster k).ctx ≠ some c.val) → t.ctxState c = 5 ∧ t.clusters = s.clusters ∧
        t.banks = s.banks ∧ SameMemory s t)) ∧
  (∀ (s : State) (c : Ctx), s.ctxState c = 5 → s.loader.pending ≠ some c.val → Runs (.unloadReleaseComplete c) s fun t =>
    t.ctxState c = 0 ∧ t.ctx c = { generation := (s.ctx c).generation } ∧ t.flag (Fld.fltCtxStopContexts.item c) = false)

/-- A boundary that would switch a cluster away from a context whose period runs waits and changes nothing else. Any other, while no stopped context has a replacement waiting, advances the rotation, leaves every cluster that no planned context is granted untaken with the context it holds, and takes the planned contexts; where none is planned no cluster is taken and memory, requests and contexts stand. A context with work whose granted clusters are free is taken at once, without a replacement waiting: every granted cluster is taken, and one whose target is ON runs it. -/
def Obligations.Slices : Prop :=
  (∀ s : State, s.boundaryWaits ((s.rotation + 1) % 16) = true → Runs .sliceBoundary s fun t =>
    t = { s with sliceLate := true }) ∧
  (∀ s : State, s.boundaryWaits ((s.rotation + 1) % 16) = false →
    (∀ c, c < 16 → s.stopped c = true → (s.ctx c).held = none) → Runs .sliceBoundary s fun t =>
    t.sliceLate = false ∧ t.rotation = (s.rotation + 1) % 16 ∧ t.hub.nextId = s.hub.nextId ∧
    (∃ u : State, u.ctxs = s.ctxs ∧ (∀ k, k < 64 → (s.plan ((s.rotation + 1) % 16)).all (fun c => !(s.granted c).contains k) = true →
        (u.cluster k).taken = false ∧ (u.cluster k).ctx = (s.cluster k).ctx) ∧ SameMemory s u ∧
      t = (u.after (forA (s.plan ((s.rotation + 1) % 16)) takeContext)).after showActive) ∧
    (s.plan ((s.rotation + 1) % 16) = [] → t.ctxs = s.ctxs ∧ t.reqs = s.reqs ∧ t.outbox = s.outbox ∧ SameMemory s t ∧
      ∀ k, k < 64 → (t.cluster k).taken = false ∧ (t.cluster k).ctx = (s.cluster k).ctx)) ∧
  (∀ (s : State) (c : Ctx), s.takeable ((List.range 64).filter fun k => (s.cluster k).taken) c = true →
    (s.ctx c).held = none → Runs (.contextTakenOnWork c) s fun t =>
      ∀ k ∈ s.granted c, (t.cluster k).taken = true ∧ (s.fget (Fld.pwrClusterTarget k) = 0 → (t.cluster k).ctx = some c.val))

/-- While the oldest command of a group at the hub is a GROUP_FENCE, dispatch for the group does nothing, so neither the fence nor anything issued to the group after it leaves the hub for a core; release does nothing while a command issued to the group before it lives, in the hub, in a queue or in a core, and removes the fence from the hub once none does. Holding and releasing it leave the oldest command of every other group and of every other context in place. A fence with a field beyond the common ones set is no fence: it faults with COMMAND. -/
def Obligations.FenceOrdersItsGroup : Prop :=
  (∀ (s : State) (c : Ctx) (g : Byte) (q : QCmd), s.hubHead c g.toNat = some q → q.opcode = opFence →
    s.groupWith c g.toNat ≠ none → Runs (.hubDispatch c g) s fun t => t = s) ∧
  (∀ (s : State) (c : Ctx) (g : GroupId) (q : QCmd), s.hubHead c g = some q → q.opcode = opFence →
    (∃ o ∈ s.liveCmds, o.ctx = c.val ∧ o.group = g.val ∧ o.id < q.id) → Runs (.fenceRelease c g) s fun t => t = s) ∧
  (∀ (s : State) (c : Ctx) (g : GroupId) (q : QCmd), s.hubHead c g = some q → q.opcode = opFence → q.run = .done →
    (∀ o ∈ s.liveCmds, ¬(o.ctx = c.val ∧ o.group = g.val ∧ o.id < q.id)) → Runs (.fenceRelease c g) s fun t =>
      t.hub.queue = eraseFirst (· == q) s.hub.queue ∧ ∀ c' g', c' ≠ c.val ∨ g' ≠ g.val → t.hubHead c' g' = s.hubHead c' g') ∧
  (∀ (s : State) (c : Ctx) (g : Byte) (q : QCmd), s.hubHead c g.toNat = some q → q.opcode = opFence → q.run = .waiting →
    s.groupWith c g.toNat ≠ none → fenceFieldsOk q.bytes = true → Runs (.groupFence c g) s fun t =>
      (∃ x, t.hubHead c g.toNat = some x ∧ x.id = q.id ∧ x.run = .done) ∧
      ∀ c' g', c' ≠ c.val ∨ g' ≠ g.toNat → t.hubHead c' g' = s.hubHead c' g') ∧
  (∀ (s : State) (c : Ctx) (g : Byte) (q : QCmd), s.hubHead c g.toNat = some q → q.opcode = opFence → q.run = .waiting →
    fenceFieldsOk q.bytes = false → Runs (.groupFence c g) s fun t => ∃ u : State,
      u.hub.queue = eraseFirst (· == q) s.hub.queue ∧ u.flt.seq = (s.flt.seq + 1) % 2 ^ 32 ∧
      (s.flt.queue.length < 256 → ∃ r, u.flt.queue = s.flt.queue ++ [r] ∧ r.cls = 1 ∧ r.detail = Cmd.command) ∧
      t = u.after (seqA [faultEffect q true 0xFFFF Cmd.command, commitChunks q.ctx]))

/-- Pool banks: owner, handover and power states -/
def Obligations.PoolBanks : Prop :=
  (∀ (s : State) (b : BankId) (o : BitVec 16), s.bound = true → s.flag (Fld.poolOwnerValid b) = false ∨
    s.flag (Fld.poolOwnerBusy b) = true ∨ s.ownerAllowed (s.fget (Fld.poolOwnerContext b)) o.toNat = false →
    Runs (.poolOwnerWrite b o) s fun t => t.fget (Fld.poolOwnerReject b) = 1 ∧
      t.fget (Fld.poolOwnerOwner b) = s.fget (Fld.poolOwnerOwner b) ∧ t.banks = s.banks ∧ SameRegs [(Fld.poolOwnerReject b).addr] s t ∧ SameMemory s t) ∧
  (∀ (s : State) (b : BankId) (o : BitVec 16), s.bound = true → s.flag (Fld.poolOwnerValid b) = true →
    s.flag (Fld.poolOwnerBusy b) = false → s.ownerAllowed (s.fget (Fld.poolOwnerContext b)) o.toNat = true →
    Runs (.poolOwnerWrite b o) s fun t => if o.toNat = s.fget (Fld.poolOwnerOwner b) then t = s
      else t.fget (Fld.poolOwnerBusy b) = 1 ∧ (t.bank b).handover = some o.toNat ∧
        t.fget (Fld.poolOwnerOwner b) = s.fget (Fld.poolOwnerOwner b) ∧ SameRegs [(Fld.poolOwnerBusy b).addr] s t ∧ SameMemory s t) ∧
  (∀ (s : State) (b : BankId) (o : Nat), (s.bank b).handover = some o → o < 65536 → Runs (.poolHandoverComplete b) s fun t =>
    t.fget (Fld.poolOwnerOwner b) = o ∧ t.fget (Fld.poolOwnerBusy b) = 0 ∧ (t.bank b).handover = none ∧
    SameRegs [(Fld.poolOwnerOwner b).addr] s t ∧ SameMemory s t) ∧
  (∀ (s : State) (b : BankId) (x : BitVec 2), s.bound = true → Runs (.poolStateWrite b x) s fun t =>
    if x = 3#2 then t = s else t.fget (Fld.poolStateTarget b) = x.toNat ∧
      t.fget (Fld.poolStateCurrent b) = s.fget (Fld.poolStateCurrent b) ∧
      (s.fget (Fld.poolStateStatus b) ≠ 3 → s.fget (Fld.poolStateCurrent b) ≠ x.toNat → (t.bank b).goal ≠ none) ∧
      SameRegs [(Fld.poolStateTarget b).addr] s t ∧ SameMemory s t) ∧
  (∀ (s : State) (b : BankId) (g : Nat), (s.bank b).goal = some g → g < 3 → (s.bank b).claim = none →
    Runs (.poolStateReached b) s fun t => ∃ u : State, u.fget (Fld.poolStateCurrent b) = g ∧
      (s.fget (Fld.poolStateTarget b) = g → (u.bank b).goal = none ∧
        (s.fget (Fld.poolStateStatus b) ≠ 3 → u.fget (Fld.poolStateStatus b) = 0)) ∧
      (g = 2 ∨ (s.fget (Fld.poolStateCurrent b) = 2 ∧ s.flag Fld.poolCtrlClearOnWake = false) →
        ∀ a, bankOf b ≤ a → a < bankOf b + Config.bankBytes → ∃ n, u.peek a = Config.freeByte n a) ∧
      (g ≠ 2 → s.fget (Fld.poolStateCurrent b) = 2 → s.flag Fld.poolCtrlClearOnWake = true →
        ∀ a, bankOf b ≤ a → a < bankOf b + Config.bankBytes → u.peek a = 0) ∧
      ((s.bank b).releasing = true → u.fget (Fld.poolOwnerOwner b) = 0xFFFE ∧ u.fget (Fld.poolOwnerValid b) = 0 ∧
        u.fget (Fld.poolOwnerContext b) = 0 ∧ (u.bank b).releasing = false) ∧
      SameRegs [(Fld.poolStateCurrent b).addr, (Fld.poolOwnerOwner b).addr] s u ∧
      SameOutside (bankOf b) Config.bankBytes s u ∧ t = u.after retryHeld ∧ (NoneHeld s → t = u))

/-- March runs and the debugger's access to galleys -/
def Obligations.MarchAndDebugger : Prop :=
  (∀ (s : State) (m : BitVec 4) (p : Bool), s.bound = true → (s.flag Fld.poolMarchStatusBusy = true ∨
      (p = false ∧ ∃ b ∈ banksOf m.toNat, s.flag (Fld.poolOwnerValid b) = true)) → Runs (.marchStart m p) s fun t =>
    t.fget Fld.poolMarchStatusRefused = 1 ∧ t.fget Fld.poolMarchStatusBusy = s.fget Fld.poolMarchStatusBusy ∧
    t.march = s.march ∧ t.banks = s.banks ∧ SameRegs [Reg.poolMarchCtrl, Reg.poolMarchStatus] s t ∧ SameMemory s t) ∧
  (∀ (s : State) (m : BitVec 4) (p : Bool), s.bound = true → s.flag Fld.poolMarchStatusBusy = false →
    (p = true ∨ ∀ b ∈ banksOf m.toNat, s.flag (Fld.poolOwnerValid b) = false) → Runs (.marchStart m p) s fun t =>
      t.fget Fld.poolMarchStatusBusy = 1 ∧ t.march = some { dies := m.toNat, preserve := p, turn := 0, since := s.ticks } ∧
      (∀ b : BankId, t.fget (Fld.poolStateStatus b) = if p = false ∧ m.toNat.testBit (b / 64) = true ∧ b % 64 < 8 then 3
        else s.fget (Fld.poolStateStatus b)) ∧ t.banks = s.banks ∧ t.outbox = s.outbox ∧ SameMemory s t) ∧
  (∀ (s : State) (m : March) (bad : List BankId), s.march = some m → Runs (.marchComplete bad) s fun t =>
    ∃ u : State, u.fget Fld.poolMarchStatusBusy = 0 ∧ u.fget Fld.poolMarchStatusDone = 1 ∧ u.march = none ∧
      (∀ b ∈ bad, m.dies.testBit (b / 64) = true → u.flag (Fld.poolStateFailed b) = true) ∧
      (Sends Vec.selfTest s → u.outbox = s.outbox ++ [.msix Vec.selfTest]) ∧
      (∀ a, a < Config.poolBase ∨ Config.poolEnd ≤ a → u.peek a = s.peek a) ∧ t = u.after retryHeld ∧ (NoneHeld s → t = u)) ∧
  (∀ (s : State) (n : CoreId) (l : Fin 4096), s.debug = false → Runs (.galleyDebugRead n l) s (fun t => t = s) ∧
    Runs (.galleyDebugWrite n l) s fun t => t = s) ∧
  (∀ (s : State) (n : CoreId) (l : Fin 4096), s.bound = true → s.debug = true → s.engineTurn n 8 = true →
    Runs (.galleyDebugRead n l) s (fun t => t.fget Fld.galDbgSelStatus = 1 ∧
      (∀ i, i < 8 → t.fget (Fld.galDbgDataData i) = s.peekNat (galleyOf n + l * 64 + 8 * i) 8) ∧ SameMemory s t) ∧
    Runs (.galleyDebugWrite n l) s fun t => t.fget Fld.galDbgSelStatus = 1 ∧
      t.peekN (galleyOf n + l * 64) 64 = (List.range 8).flatMap (fun i => leBytes 8 (s.fget (Fld.galDbgDataData i))) ∧
      SameOutside (galleyOf n + l * 64) 64 s t ∧ SameRegs [Reg.galDbgSel] s t) ∧
  (∀ (s : State) (n : CoreId) (l : Fin 4096), s.bound = true → s.debug = true → s.engineTurn n 8 = false →
    Runs (.galleyDebugRead n l) s (fun t => t.fget Fld.galDbgSelStatus = 2 ∧ Counted (Fld.galCntRefused n) s t ∧
      SameMemory s t ∧ SameRegs [Reg.galDbgSel, (Fld.galCntRefused n).addr] s t) ∧
    Runs (.galleyDebugWrite n l) s fun t => t.fget Fld.galDbgSelStatus = 2 ∧ Counted (Fld.galCntRefused n) s t ∧
      SameMemory s t ∧ SameRegs [Reg.galDbgSel, (Fld.galCntRefused n).addr] s t)

/-- Memory bring-up, patrol scrubbing and the memory error logs -/
def Obligations.MemoryTiers : Prop :=
  (∀ (s : State) (r : TrainingResult), s.power.hubReady = true → 13 ≤ s.power.rails → s.fget Fld.memfStatusReady = 0 →
    s.fget Fld.memfStatusFailed = 0 → Runs (.memoryBringUpComplete r) s fun t => ∃ u : State,
      u.fget Fld.memfStatusFailed = maskOf 6 (fun k => (List.range 8).any fun g => 2 ≤ lanesOf r k g) ∧
      u.fget Fld.memfStatusReady = maskOf 6 (fun k => !(List.range 8).any fun g => 2 ≤ lanesOf r k g) ∧
      u.fget Fld.memsStatusFailed = maskOf 16 (r.packagesFailed.map (·.val)).contains ∧
      u.fget Fld.memsStatusReady = maskOf 16 (fun p => !(r.packagesFailed.map (·.val)).contains p) ∧
      u.fget Fld.memsStatusPresent = b2n r.packagesFailed.isEmpty ∧ u.power.selfRefresh = false ∧
      (if s.power.coldReset then (∀ a, a < Config.fastEnd ∨ (Config.slowBase ≤ a ∧ a < Config.slowEnd) → u.peek a = 0) else SameMemory s u) ∧
      t = u.after (if (List.range 6).any (fun k => (List.range 8).any fun g => 2 ≤ lanesOf r k g) then enterBasic 2 else nothing)) ∧
  (∀ (s : State) (t : Tier) (k : Fin 16) (l : Nat) (f : ScrubFinding), s.scrubs t k = true → s.inTier (scrubAddr t k l) = true →
    (s.retired (scrubAddr t k l) = true ∨ (s.markAt (scrubAddr t k l)).bad = true ∧ s.markAt (scrubAddr t k l) ≠ .uncorrectable ∨
      s.markAt (scrubAddr t k l) = .sound ∧ f = .clean) → Runs (.patrolScrubRead t k l f) s fun u =>
      SameMemory s u ∧ u.regs = s.regs ∧ u.outbox = s.outbox ∧ u.marks = s.marks) ∧
  (∀ (s : State) (t : Tier) (k : Fin 16) (l : Nat), s.scrubs t k = true → s.inTier (scrubAddr t k l) = true →
    s.retired (scrubAddr t k l) = false → s.markAt (scrubAddr t k l) = .sound →
    Runs (.patrolScrubRead t k l .correctable) s (fun u => SameMemory s u ∧ Counted (ceFld (tierOf (scrubAddr t k l))) s u ∧
      (∀ a, u.markAt a = s.markAt a) ∧ u.outbox = s.outbox ∧ SameRegs [(ceFld (tierOf (scrubAddr t k l))).addr] s u) ∧
    Runs (.patrolScrubRead t k l .uncorrectable) s (fun u => SameMemory s u ∧ u.poisoned (scrubAddr t k l) = true ∧
      Counted (ueFld (tierOf (scrubAddr t k l))) s u ∧ (Sends Vec.memory s → u.outbox = s.outbox ++ [.msix Vec.memory]) ∧
      ((s.tier (tierOf (scrubAddr t k l))).log.length < 64 → ∃ e : MemErr,
        (u.tier (tierOf (scrubAddr t k l))).log = (s.tier (tierOf (scrubAddr t k l))).log ++ [e]))) ∧
  (∀ (s : State) (t : Tier), s.bound = true → Runs (.errLogPop t) s fun u =>
    (u.tier (match t with | .fast => 0 | .slow => 1)).log = (s.tier (match t with | .fast => 0 | .slow => 1)).log.drop 1 ∧
    u.tier (match t with | .fast => 1 | .slow => 0) = s.tier (match t with | .fast => 1 | .slow => 0) ∧ u.regs = s.regs ∧ SameMemory s u)

/-- Invalidation, page retirement, the fault log and the index lines of device rings -/
def Obligations.TranslationRegisters : Prop :=
  (∀ (s : State) (c : Ctx) (z : BitVec 6), s.bound = true → Runs (.xltInvalidate c z) s fun t => SameMemory s t ∧
    SameRegs [Fld.xltInvStatusRefused.addr] s t ∧
    if s.flag Fld.xltInvStatusBusy = true ∨ (1 ≤ z.toNat ∧ z.toNat ≤ 15) ∨ 58 ≤ z.toNat ∨
        (z.toNat ≠ 0 ∧ s.fget Fld.xltInvVaVa % 2 ^ z.toNat ≠ 0)
    then t.fget Fld.xltInvStatusRefused = 1 ∧ t.xlt = s.xlt
    else t.fget Fld.xltInvStatusBusy = 1 ∧ t.xlt.invalidate = some (c.val, s.fget Fld.xltInvVaVa, z.toNat) ∧ t.xlt.cache = s.xlt.cache) ∧
  (∀ (s : State) (c va z : Nat), s.xlt.invalidate = some (c, va, z) → Runs .xltInvalidateDone s fun t =>
    t.fget Fld.xltInvStatusBusy = 0 ∧ t.fget Fld.xltInvStatusDone = 1 ∧ t.xlt.invalidate = none ∧
    (∀ e, e ∈ t.xlt.cache ↔ e ∈ s.xlt.cache ∧ ¬(e.2.ctx = c ∧ (z = 0 ∨ rangesMeet e.2.va (2 ^ e.2.sizeLog2) va (2 ^ z) = true))) ∧
    SameRegs [Fld.xltInvStatusBusy.addr] s t ∧ SameMemory s t) ∧
  (∀ (s : State) (p : BitVec 36), s.bound = true → Runs (.pageRetire p) s fun t =>
    if s.flag Fld.xltRetireStatusBusy = true ∨ 8192 ≤ s.xlt.retired.length ∨ s.inTier (p.toNat * 65536) = false
    then t.fget Fld.xltRetireStatusRefused = 1 ∧ t.mig = s.mig ∧ t.xlt = s.xlt ∧ SameRegs [Fld.xltRetireStatusBusy.addr] s t ∧ SameMemory s t
    else if s.xlt.retired.contains p.toNat then
      t.fget Fld.xltRetireStatusDup = 1 ∧ t.mig = s.mig ∧ t.xlt = s.xlt ∧ SameRegs [Fld.xltRetireStatusBusy.addr] s t ∧ SameMemory s t
    else ∃ u : State, u.fget Fld.xltRetireStatusBusy = 1 ∧ u.fget Fld.xltRetireStatusHeld = b2n (s.pageMigrates p.toNat) ∧
      u.xlt = { s.xlt with retire := some p.toNat } ∧
      (∀ x, (x ∈ u.mig.poolFast ↔ x ∈ s.mig.poolFast ∧ rangesMeet x unitBytes (p.toNat * 65536) 65536 = false) ∧
        (x ∈ u.mig.poolSlow ↔ x ∈ s.mig.poolSlow ∧ rangesMeet x unitBytes (p.toNat * 65536) 65536 = false)) ∧
      u.mig.records = s.mig.records ++ ((s.mig.poolFast ++ s.mig.poolSlow).filter fun x =>
        rangesMeet x unitBytes (p.toNat * 65536) 65536).map (fun x => (leBytes 4 0 ++ leBytes 1 7 ++ zeros 3 ++ leBytes 8 x, 7)) ∧
      SameRegs [Fld.xltRetireStatusBusy.addr] s u ∧ SameMemory s u ∧ t = u.after flushMigRecords ∧ (u.mig.records = [] → t = u)) ∧
  (∀ (s : State) (p : Nat), s.xlt.retire = some p → Runs .pageRetireDone s fun t =>
    if s.pageMigrates p = true then t.fget Fld.xltRetireStatusHeld = 1 ∧ t.xlt = s.xlt ∧ t.mig = s.mig ∧
      SameRegs [Fld.xltRetireStatusBusy.addr] s t ∧ SameMemory s t
    else ∃ u : State, u.fget Fld.xltRetireStatusBusy = 0 ∧ u.fget Fld.xltRetireStatusHeld = 0 ∧ u.fget Fld.xltRetireStatusDone = 1 ∧
      u.xlt.retire = none ∧ u.xlt.retired = s.xlt.retired ++ [p] ∧
      (∀ e, e ∈ u.xlt.cache ↔ e ∈ s.xlt.cache ∧ ¬(bitOf e.2.value 3 = true ∧
        rangesMeet (bitsOf e.2.value 8 44 * 256) (2 ^ e.2.sizeLog2) (p * 65536) 65536 = true)) ∧
      (∀ x, x ∈ u.mig.poolFast ∨ x ∈ u.mig.poolSlow → rangesMeet x unitBytes (p * 65536) 65536 = false) ∧
      SameRegs [Fld.xltRetireStatusBusy.addr] s u ∧ SameMemory s u ∧ t = u.after flushMigRecords ∧ (u.mig.records = [] → t = u)) ∧
  (∀ s : State, s.bound = true → Runs .xltFaultLogPop s fun t => t.xlt = { s.xlt with log := s.xlt.log.drop 1 } ∧
    t.regs = s.regs ∧ SameMemory s t) ∧
  (∀ (s : State) (r : DeviceRing) (p : RingPlace), ringPlace r = some p → Calm s → s.outside (s.lineOf p.base) = false →
    s.outside (s.lineOf p.cplBase) = false → Runs (.ringIndexPoll r) s fun t => ∃ u : State,
      u.devRing p.idx = { s.devRing p.idx with
        tail := if s.flag p.enable then s.indexAt (s.lineOf p.base) (s.devRing p.idx).tail else (s.devRing p.idx).tail
        head := if s.flag p.cplEnable then s.indexAt (s.lineOf p.cplBase) (s.devRing p.idx).head else (s.devRing p.idx).head } ∧
      (∀ k, k ≠ p.idx → u.devRing k = s.devRing k) ∧ u.regs = s.regs ∧ SameMemory s u ∧ u.mig = s.mig ∧
      (r ≠ .migration → t = u) ∧ (r = .migration → t = u.after flushMigRecords ∧ (s.mig.records = [] → t = u))) ∧
  (∀ s : State, s.flag Fld.fltRingEnable = true → Calm s → s.outside (s.lineOf Fld.fltRingBase) = false →
    Runs (.ringIndexPoll .fault) s fun t =>
      t.devRing 4 = { s.devRing 4 with head := s.indexAt (s.lineOf Fld.fltRingBase) (s.devRing 4).head } ∧
      (∀ k, k ≠ 4 → t.devRing k = s.devRing k) ∧ t.regs = s.regs ∧ SameMemory s t)

/-- The migration engine: taking descriptors, pools, CHECK, COPY and FINAL -/
def Obligations.MigrationEngine : Prop :=
  (∀ (s u : State) (d : Bytes) (c : Instr) (k : Nat), u = s.after flushMigRecords → RingSound migPlace u → u.nextMig = some d →
    fieldAt d 0 1 = k → (c = .copy ∧ k = 1) ∨ (c = .promote false ∧ k = 2) ∨ (c = .demote ∧ k = 3) → Runs c s fun t =>
      t.mig.inflight = u.mig.inflight ++ [{ id := u.mig.nextId, kind := k, ctx := fieldAt d 2 1 % 16, tag := fieldAt d 4 4, src := fieldAt d 8 8, dst := fieldAt d 16 8, va := fieldAt d 24 8, failed := if migFieldsOk d then none else some Ms.badDesc }] ∧
      (t.devRing 0).taken = countUp (u.devRing 0).taken ∧ t.regs = u.regs ∧ SameMemory u t) ∧
  (∀ (s u : State) (c slot va i : Nat) (rest : List (Nat × Nat × Nat × Nat)), u = s.after flushMigRecords →
    u.mig.internal = (c, slot, va, i) :: rest → u.tiersUp = true → u.mig.inflight.length < 64 → u.cplFree migPlace u.migHeld = true →
    Runs (.promote true) s fun t => t.mig.internal = rest ∧
      t.mig.inflight = u.mig.inflight ++ [{ id := u.mig.nextId, kind := 2, ctx := c, tag := slot, va := va, place := i, fromEngine := true, failed := if va % unitBytes = 0 ∧ va < 2 ^ 57 then none else some Ms.badDesc }] ∧
      t.regs = u.regs ∧ SameMemory u t) ∧
  (∀ (s u : State) (d : Bytes), u = s.after flushMigRecords → RingSound migPlace u → NoFinal u → u.nextMig = some d →
    (fieldAt d 0 1 = 4 → migFieldsOk d = true → u.unitOk (fieldAt d 16 8) = true → u.region (fieldAt d 16 8) = .fast →
      u.mig.poolFast.length < 1024 → Runs .poolAdd s fun t =>
        t.mig = { u.mig with poolFast := u.mig.poolFast ++ [fieldAt d 16 8] } ∧ Counted Fld.memsMigCntOk u t ∧
        (t.devRing 0).taken = countUp (u.devRing 0).taken ∧ Completes migPlace (migRecord (fieldAt d 4 4) Ms.ok 0 0) u t) ∧
    (∀ p rest, fieldAt d 0 1 = 5 → migFieldsOk d = true → fieldAt d 1 1 % 2 = 0 → u.mig.poolFast = p :: rest → Runs .poolTake s fun t =>
      t.mig = { u.mig with poolFast := rest } ∧ Counted Fld.memsMigCntOk u t ∧
      (t.devRing 0).taken = countUp (u.devRing 0).taken ∧ Completes migPlace (migRecord (fieldAt d 4 4) Ms.ok 0 p) u t) ∧
    (fieldAt d 0 1 = 0 ∨ 6 ≤ fieldAt d 0 1 → Runs .reservedMigrationKind s fun t => t.mig = u.mig ∧ Counted Fld.memsMigCntNotOk u t ∧
      (t.devRing 0).taken = countUp (u.devRing 0).taken ∧ Completes migPlace (migRecord (fieldAt d 4 4) Ms.badDesc 0 0) u t)) ∧
  (∀ (s : State) (id : Nat) (m : Migration), s.migration id = some m → m.state = .check → m.failed = none → m.kind = 1 →
    s.unitOk m.src = true → s.unitOk m.dst = true → m.src ≠ m.dst → m.va = 0 → s.unitOwned m.ctx m.src = true →
    s.rangeDenied 0 m.dst unitBytes = false → s.rangeMigrates m.dst unitBytes = false → NoFinal s → Calm s →
    (∀ i, i < 32 → s.outside (s.tagAddr (m.dst + 65536 * i)) = false ∧ s.unreadable (s.tagAddr (m.dst + 65536 * i)) = false) →
    Runs (.migrationCheckDone id) s fun t => t.migration id = some { m with state := .copy, leafAddr := 0, leaf := 0 } ∧
      t.regs = s.regs ∧ ∀ i, i < 32 →
        t.peek (s.tagAddr (m.dst + 65536 * i)) = BitVec.ofNat 8 (s.keyTag (m.src + 65536 * i))) ∧
  (∀ (s : State) (id : Nat) (m : Migration) (st : Nat), s.migration id = some m → m.state = .check → m.failed = some st → st ≠ 0 →
    m.fromEngine = false → NoFinal s → RingSound migPlace s → Runs (.migrationCheckDone id) s fun t =>
      t.mig.inflight = eraseFirst (·.id == m.id) s.mig.inflight ∧ Counted Fld.memsMigCntNotOk s t ∧
      Completes migPlace (migRecord m.tag st (b2n m.poison) 0) s t) ∧
  (∀ (s : State) (id : Nat) (m : Migration), s.migration id = some m → m.state = .copy → m.dst % 64 = 0 → NoFinal s → Calm s →
    (∀ a, s.stuckGolden a = none) → Runs (.migrationCopyDone id) s fun t =>
      t.migration id = some { m with state := .final, poison := s.anyPoison m.src unitBytes } ∧ SameOutside m.dst unitBytes s t ∧
      t.regs = s.regs ∧ ∀ i d, i < unitBytes / 64 → s.readLine m.ctx (m.src + 64 * i) 64 = .ok d → s.inTier (m.dst + 64 * i) = true →
        s.retired (m.dst + 64 * i) = false → t.peekN (m.dst + 64 * i) 64 = d) ∧
  (∀ (s : State) (m : Migration), s.mig.inflight = [m] → m.state = .final → m.fromEngine = false → RingSound migPlace s →
    (m.va = 0 → Runs (.migrationFinalDone m.id) s fun t => ∃ u : State, u.mig = { s.mig with inflight := [] } ∧
      Counted Fld.memsMigCntOk s u ∧ Completes migPlace (migRecord m.tag Ms.ok (b2n m.poison) 0) s u ∧
      t = u.after (releaseWrites m m.src)) ∧
    (m.va ≠ 0 → s.peekNat m.leafAddr 8 ≠ m.leaf → Runs (.migrationFinalDone m.id) s fun t => ∃ u : State,
      u.mig = { s.mig with inflight := [] } ∧ Counted Fld.memsMigCntNotOk s u ∧
      Completes migPlace (migRecord m.tag Ms.mismatch (b2n m.poison) (if m.kind = 1 then 0 else m.dst)) s u ∧
      t = u.after (releaseWrites m m.src)) ∧
    (∀ w : Walk, m.va ≠ 0 → s.walk (migAgent m.ctx) m.va 2 = .ok w → w.leafAddr = m.leafAddr → w.leaf = m.leaf →
      s.peekNat m.leafAddr 8 = m.leaf → m.leafAddr % 8 = 0 → s.inTier m.leafAddr = true → s.unreadable m.leafAddr = false →
      (m.leafAddr < m.src ∨ m.src + unitBytes ≤ m.leafAddr) → m.leafAddr / 64 ≠ s.cplSlot migPlace / 64 →
      s.pagesReady = false → s.flt.repairs = [] → Runs (.migrationFinalDone m.id) s fun t => ∃ u : State,
        u.mig = { s.mig with inflight := [] } ∧ Counted Fld.memsMigCntOk s u ∧
        u.peekN m.leafAddr 8 = leBytes 8 (movedLeaf m.leaf m.dst) ∧
        (u.devRing 0).produced = countUp (s.devRing 0).produced ∧
        u.peekN (s.cplSlot migPlace) 16 = migRecord m.tag Ms.ok (b2n m.poison) m.src ∧
        t = u.after (releaseWrites m m.dst)))

/-- Packer jobs, the invalidation of views, and the compression error log -/
def Obligations.Packers : Prop :=
  (∀ (s : State) (d : Bytes) (c : Instr) (k : Nat), s.nextJob = some d → RingSound packPlace s → fieldAt d 0 1 = k →
    (c = .pack ∧ k = 1) ∨ (c = .unpack ∧ k = 2) → s.jobOk d = true → s.streamOn d = true → Runs c s fun t =>
      t.packs = s.packs ++ [⟨s.packNext, d, []⟩] ∧ t.packNext = s.packNext + 1 ∧ t.fget (Fld.clkDomState 14) = 2 ∧
      (t.devRing 1).taken = countUp (s.devRing 1).taken ∧ (t.devRing 1).produced = (s.devRing 1).produced ∧
      t.outbox = s.outbox ∧ SameRegs [Reg.clkDom 14] s t ∧ SameMemory s t) ∧
  (∀ (s : State) (d : Bytes) (c : Instr) (status : Nat), s.nextJob = some d → RingSound packPlace s → NoFinal s →
    ((c = .pack ∧ fieldAt d 0 1 = 1 ∨ c = .unpack ∧ fieldAt d 0 1 = 2) ∧
        (s.jobOk d = false ∧ status = Pk.badDesc ∨ s.jobOk d = true ∧ s.streamOn d = false ∧ status = Pk.streamOff)) ∨
      (c = .reservedJobKind ∧ fieldAt d 0 1 ≠ 1 ∧ fieldAt d 0 1 ≠ 2 ∧ status = Pk.badDesc) → Runs c s fun t =>
      t.packs = s.packs ∧ (t.devRing 1).taken = countUp (s.devRing 1).taken ∧ SameRegs [Reg.clkDom 14] s t ∧
      Completes packPlace (packRecord d status false 0) s t) ∧
  (∀ (s : State) (id : Nat) (j : PackJob), s.basic = false → s.packs.find? (·.id == id) = some j → RingSound packPlace s → NoFinal s →
    (∀ raw, fieldAt j.desc 0 1 = 1 →
      s.readVa (packAgent (fieldAt j.desc 2 1)) (fieldAt j.desc 8 8) (fieldAt j.desc 0x18 4 * 4096) = .ok raw →
      Runs (.packerJobComplete id) s fun t => ∃ u : State, SameMemory s u ∧ u.packs = s.packs ∧ SameRegs [Reg.xltCnt] s u ∧
        RingSound packPlace u ∧ NoFinal u ∧ t = u.after (jobWrites j (s.houseTables (fieldAt j.desc 2 1) (bitOf (fieldAt j.desc 1 1) 0))
          (packImage (s.houseTables (fieldAt j.desc 2 1) (bitOf (fieldAt j.desc 1 1) 0))
            (s.image (fieldAt j.desc 2 1)).comp.rawThreshold (s.image (fieldAt j.desc 2 1)).comp.segmentLog2 (fieldAt j.desc 16 8) raw)
          (countBlocks (packCounts (s.houseTables (fieldAt j.desc 2 1) (bitOf (fieldAt j.desc 1 1) 0))
            (s.image (fieldAt j.desc 2 1)).comp.rawThreshold raw (s.image (fieldAt j.desc 2 1)).comp.segmentLog2)))) ∧
    (∀ e, fieldAt j.desc 0 1 = 1 →
      s.readVa (packAgent (fieldAt j.desc 2 1)) (fieldAt j.desc 8 8) (fieldAt j.desc 0x18 4 * 4096) = .error e →
      Runs (.packerJobComplete id) s fun t => t.packs = s.packs.filter (·.id != id) ∧ ∃ u w : State,
        SameMemory s u ∧ SameRegs [Reg.xltCnt] s u ∧ w = u.after (undefVa (packAgent (fieldAt j.desc 2 1)) (fieldAt j.desc 16 8)
          (packWorst (s.image (fieldAt j.desc 2 1)).comp.segmentLog2 (fieldAt j.desc 0x18 4))) ∧
        Completes packPlace (packRecord j.desc (match e with | .poison _ => Pk.poison | _ => Pk.translation) false 0) w t) ∧
    (fieldAt j.desc 0 1 = 2 → (∀ a e, s.viewAt 4 (fieldAt j.desc 2 1) (fieldAt j.desc 8 8) = some (a, e) →
        (fieldAt j.desc 8 8 - (viewOf e).base) % 2 ^ (viewOf e).seg ≠ 0) →
      Runs (.packerJobComplete id) s fun t => t.packs = s.packs.filter (·.id != id) ∧ t.regs = s.regs ∧
        Completes packPlace (packRecord j.desc Pk.badDesc false 0) s t) ∧
    (∀ a e raw, fieldAt j.desc 0 1 = 2 → s.viewAt 4 (fieldAt j.desc 2 1) (fieldAt j.desc 8 8) = some (a, e) →
      (fieldAt j.desc 8 8 - (viewOf e).base) % 2 ^ (viewOf e).seg = 0 →
      s.viewRead (packAgent (fieldAt j.desc 2 1)) (fieldAt j.desc 8 8) (fieldAt j.desc 0x18 4) = .ok raw →
      Runs (.packerJobComplete id) s fun t => ∃ u : State, SameMemory s u ∧ u.packs = s.packs ∧ SameRegs [Reg.xltCnt, Reg.fltCnt] s u ∧
        RingSound packPlace u ∧ NoFinal u ∧ t = u.after (jobWrites j false raw nothing))) ∧
  (∀ (u t : State) (j : PackJob) (house : Bool) (b : Bytes) (counts : Act), t = u.after (jobWrites j house b counts) →
    RingSound packPlace u → NoFinal u → counts = nothing ∨ (∃ k, counts = countBlocks k) → t.packs = u.packs.filter (·.id != j.id) ∧
    (u.viewMet 4 (fieldAt j.desc 2 1) (fieldAt j.desc 16 8) b.length = none →
      (u.checkVa (packAgent (fieldAt j.desc 2 1)) (fieldAt j.desc 16 8) b.length = none → ∃ w : State,
        w = (((u.after (noteWalks (packAgent (fieldAt j.desc 2 1)) (fieldAt j.desc 16 8) b.length 1)).after
          (storeVa (packAgent (fieldAt j.desc 2 1)) (fieldAt j.desc 16 8) b)).after counts) ∧
        Completes packPlace (packRecord j.desc Pk.ok house b.length) w t) ∧
      ∀ e, u.checkVa (packAgent (fieldAt j.desc 2 1)) (fieldAt j.desc 16 8) b.length = some e → ∃ w : State,
        w = u.after (undefVa (packAgent (fieldAt j.desc 2 1)) (fieldAt j.desc 16 8) b.length) ∧
        Completes packPlace (packRecord j.desc (stopStatus e) false 0) w t) ∧
    (∀ va, u.viewMet 4 (fieldAt j.desc 2 1) (fieldAt j.desc 16 8) b.length = some va →
      Completes packPlace (packRecord j.desc Pk.translation false 0) u t ∧ t.regs = u.regs)) ∧
  (∀ (s : State) (c : Ctx), s.bound = true → Runs (.cmpInvalidate c) s fun t => SameMemory s t ∧ t.cmpCache = s.cmpCache ∧
    SameRegs [Reg.cmpInvStatus] s t ∧
    if s.flag Fld.cmpInvStatusBusy then t.fget Fld.cmpInvStatusRefused = 1 ∧ t.cmpInvalidating = s.cmpInvalidating
    else t.fget Fld.cmpInvStatusBusy = 1 ∧ t.cmpInvalidating = some c.val) ∧
  (∀ (s : State) (c : Nat), s.cmpInvalidating = some c → Runs .cmpInvalidateDone s fun t => SameMemory s t ∧
    t.cmpCache = s.cmpCache.filter (·.ctx != c) ∧ t.cmpInvalidating = none ∧ t.fget Fld.cmpInvStatusBusy = 0 ∧
    t.fget Fld.cmpInvStatusDone = 1 ∧ SameRegs [Reg.cmpInvStatus] s t) ∧
  (∀ s : State, s.bound = true → Runs .cmpErrLogPop s fun t => t = { s with cmpErrs := s.cmpErrs.drop 1 })

/-- The page service: the ledger, allocation, copy-on-write, SHARE, FREE, compaction and the release ring -/
def Obligations.PageService : Prop :=
  (∀ (s : State) (b : BitVec 24) (on : Bool), s.bound3 = true → Runs (.ledgerEnable b on) s fun t => SameMemory s t ∧
    SameRegs [Reg.attLedger, Reg.attStatus] s t ∧
    if s.flag Fld.attLedgerEnable then
      (if on = true ∨ s.ledgerBusy = true then t = s else t.fget Fld.attLedgerEnable = 0 ∧ t.pagesReady = false)
    else t.fget Fld.attLedgerBase = b.toNat ∧ t.flag Fld.attLedgerEnable = on ∧ t.pagesReady = on) ∧
  (∀ (s : State) (c : Instr) (cow : Bool) (r : PageReq), (c = .pageAllocate ∧ cow = false) ∨ (c = .copyOnWrite ∧ cow = true) →
    s.pagesRun = true →
    s.pages.reqs.find? (fun r => r.cow == cow && (!s.reqStands r || !r.waited || s.freeWaiting r.ctx != 0)) = some r →
    (s.reqStands r = false ∨ s.pageNeed r.ctx r.va = .none → Runs c s fun t =>
      t.pages = { s.pages with reqs := eraseFirst (· == r) s.pages.reqs } ∧ t.regs = s.regs ∧ SameMemory s t ∧
      (∀ q ∈ (t.core r.core).queue, q.id = r.cmd → q.run ≠ .needsPage)) ∧
    (∀ p, s.reqStands r = true → s.pageNeed r.ctx r.va = .alloc →
      s.freeScan r.ctx (s.freeWaiting r.ctx) (tabGet (fun _ => 0) s.pages.freeTaken r.ctx) = ([], some p) →
      s.rangeMigrates p (s.pageBytes r.ctx) = false →
      Runs c s fun t => t.pages.reqs = eraseFirst (· == r) s.pages.reqs ∧ Counted Fld.attCntAllocs s t ∧
        tabGet (fun _ => 0) t.pages.freeTaken r.ctx = countUp (tabGet (fun _ => 0) s.pages.freeTaken r.ctx) ∧
        (∀ q ∈ (t.core r.core).queue, q.id = r.cmd → q.run ≠ .needsPage) ∧
        SameMemory (((s.after (consumeFree r.ctx 1)).after (setLive r.ctx p)).after
          (mapPage r.ctx (s.pageStart r.ctx r.va) p leafRw)) t) ∧
    (r.ctx < 16 → s.reqStands r = true → s.pageNeed r.ctx r.va = .alloc → s.freeWaiting r.ctx = 0 → r.waited = false → Runs c s fun t =>
      t.pages = { s.pages with reqs := modFirst (· == r) (fun x => { x with waited := true }) s.pages.reqs } ∧
      Counted Fld.attCnt3NopageWaits s t ∧
      t.fget (Fld.attStatusFreeEmpty.item r.ctx) = 1 ∧ t.cores = s.cores ∧ SameMemory s t) ∧
    (∀ w, s.reqStands r = true → s.pageNeed r.ctx r.va = .cow →
      s.walk (pageAgent r.ctx) (s.pageStart r.ctx r.va) 2 = .ok w →
      ((s.ledger w.pa).refcount = 1 → Runs c s fun t =>
        t.pages = { s.pages with reqs := eraseFirst (· == r) s.pages.reqs } ∧ Counted Fld.attCnt3Ownership s t ∧
        (∀ q ∈ (t.core r.core).queue, q.id = r.cmd → q.run ≠ .needsPage) ∧
        SameMemory (s.after (mapPage r.ctx (s.pageStart r.ctx r.va) w.pa leafRw)) t) ∧
      (∀ p, (s.ledger w.pa).refcount ≠ 1 → s.rangeMigrates p (s.pageBytes r.ctx) = false →
        s.freeScan r.ctx (s.freeWaiting r.ctx) (tabGet (fun _ => 0) s.pages.freeTaken r.ctx) = ([], some p) → Runs c s fun t =>
        t.pages.reqs = eraseFirst (· == r) s.pages.reqs ∧ Counted Fld.attCntCowCopies s t ∧
        tabGet (fun _ => 0) t.pages.freeTaken r.ctx = countUp (tabGet (fun _ => 0) s.pages.freeTaken r.ctx) ∧
        (∀ q ∈ (t.core r.core).queue, q.id = r.cmd → q.run ≠ .needsPage) ∧
        SameMemory (((((s.after (consumeFree r.ctx 1)).after (setLive r.ctx p)).after
          (copyLines 1 r.ctx w.pa p (s.pageBytes r.ctx))).after (mapPage r.ctx (s.pageStart r.ctx r.va) p leafRw)).after
          (dropRef w.pa)) t))) ∧
  (∀ (s : State) (c : Instr) (d : Bytes), s.pagesRun = true → s.nextDesc pagePlace 0 = some d → RingSound pagePlace s → NoFinal s →
    (c = .reservedPageOpKind ∧ (fieldAt d 0 1 = 0 ∨ 3 ≤ fieldAt d 0 1)) ∨ (c = .share ∧ fieldAt d 0 1 = 1 ∧ s.pageDescOk d = false) ∨
      (c = .free ∧ fieldAt d 0 1 = 2 ∧ s.pageDescOk d = false) → Runs c s fun t =>
      t.pages = s.pages ∧ t.regs = s.regs ∧ (t.devRing 2).taken = countUp (s.devRing 2).taken ∧
      Completes pagePlace (pageRecord (fieldAt d 4 4) Ps.badDesc 0 0) s t) ∧
  (∀ (s : State) (c : Instr) (d : Bytes) (x : OpPiece), s.pagesRun = true → s.nextDesc pagePlace 0 = some d → s.pageDescOk d = true →
    fieldAt d 0x18 4 = 1 → RingSound pagePlace s → NoFinal s →
    (c = .share ∧ fieldAt d 0 1 = 1 ∧ x = sharePiece (fieldAt d 2 1) (fieldAt d 8 8) (fieldAt d 16 8) s 0) ∨
      (c = .free ∧ fieldAt d 0 1 = 2 ∧ x = freePiece (fieldAt d 2 1) (fieldAt d 16 8) 1 s 0) →
    (x.status ≠ 0 → Runs c s fun t => t.pages = s.pages ∧ t.regs = s.regs ∧ (t.devRing 2).taken = countUp (s.devRing 2).taken ∧
      Completes pagePlace (pageRecord (fieldAt d 4 4) x.status 0 0) s t) ∧
    (x.status = 0 → Runs c s fun t => (t.devRing 2).taken = countUp (s.devRing 2).taken ∧
      (t.devRing 2).produced = countUp (s.devRing 2).produced ∧ t.pages = (s.after x.effect).pages ∧
      (RingSound pagePlace (s.after x.effect) →
        Completes pagePlace (pageRecord (fieldAt d 4 4) 0 x.pages x.released) (s.after x.effect) t))) ∧
  (∀ (s : State) (c : Ctx) (page reason a : Nat), s.pages.held.find? (·.1 == c.val) = some (c.val, page, reason) →
    s.releaseRoom c = true → a = ringSlot (s.fget (Fld.attRelBase c) * 64) (s.fget (Fld.attRelSizeCode c)) 8
      (tabGet (fun _ => 0) s.pages.relProduced c) → Runs (.heldPageWrite c) s fun t =>
      t.pages.held = eraseFirst (·.1 == c.val) s.pages.held ∧
      tabGet (fun _ => 0) t.pages.relProduced c = countUp (tabGet (fun _ => 0) s.pages.relProduced c) ∧
      (Sends Vec.release s → t.outbox = s.outbox ++ [.msix Vec.release]) ∧ SameRegs [Reg.attCnt2, Reg.attStatus, Reg.fltCnt] s t ∧
      (NoFinal s → Calm s → s.outside a = false → s.unreadable a = false → s.ledgerAddr page / 64 ≠ a / 64 →
        t.peekN a 8 = leBytes 8 (page / 65536 * 65536 + reason))) ∧
  (∀ (s : State) (k : SlotId) (m : Compaction), s.pagesRun = true → s.pages.compactions.find? (·.slot == k.val) = some m →
    m.copied = false → Calm s → (∀ x ∈ s.compactRows m, s.pageNeed m.ctx (s.rowVas m.ctx k x.1 x.2.2).1 ≠ .alloc ∧
      s.pageNeed m.ctx (s.rowVas m.ctx k x.1 x.2.2).1 ≠ .cow) → Runs (.compaction k) s fun t =>
      t.pages = { s.pages with compactions := modFirst (·.slot == k.val) (fun x => { x with copied := true }) s.pages.compactions } ∧
      SameRegs [Reg.xltCnt] s t ∧ t.outbox = s.outbox ∧
      SameMemory (s.after (forA (s.compactRows m) fun x => compactRow m x.1 x.2.1 x.2.2)) t) ∧
  (∀ (s : State) (k : SlotId) (m : Compaction), s.pages.compactions.find? (·.slot == k.val) = some m → m.copied = true →
    Runs (.compactionComplete k) s fun t =>
      t.pages = { s.pages with compactions := eraseFirst (·.slot == k.val) s.pages.compactions } ∧
      Counted Fld.attCnt2Compactions s t ∧ SameRegs [Reg.attCnt2] s t ∧ SameMemory s t) ∧
  (∀ s : State, s.bound = true → Runs .attErrLogPop s fun t => t = { s with attErrs := s.attErrs.drop 1 })

/-- Firmware: transfer, activation, the instant of activation, and the management interface -/
def Obligations.FirmwareUpdates : Prop :=
  (∀ (s : State) (k : Fin 6) (off : Nat) (d : Bytes) (last : Bool), s.ioUp = true → s.port.mailboxReady = true →
    k.val = 0 ∨ (off ≠ 0 ∧ off ≠ (s.fw k).transfer.length) ∨ 8388608 < off + d.length →
    Runs (.transferFw k off d last) s fun t => t = { s with outbox := s.outbox ++ [.mailbox 2 []] }) ∧
  (∀ (s : State) (k : Fin 6) (off : Nat) (d b : Bytes) (last : Bool), s.ioUp = true → s.port.mailboxReady = true → k.val ≠ 0 →
    off = 0 ∨ off = (s.fw k).transfer.length → off + d.length ≤ 8388608 →
    b = (if off = 0 then [] else (s.fw k).transfer) ++ d → Runs (.transferFw k off d last) s fun t =>
      (t.fw k).running = (s.fw k).running ∧ (t.fw k).stored = (s.fw k).stored ∧ (∀ j, j ≠ k.val → t.fw j = s.fw j) ∧
      (off = 0 → (t.fw k).fallback = [] ∧ (t.fw k).activating = false) ∧ SameMemory s t ∧ SameRegs [Reg.secStatus] s t ∧
      if last = false then (t.fw k).transfer = b ∧ t.outbox = s.outbox ++ [.mailbox 0 []]
      else (t.fw k).transfer = [] ∧
        if s.fwOk k b then (t.fw k).staged = some b ∧ t.fget Fld.secStatusStaged = 1 ∧ t.outbox = s.outbox ++ [.mailbox 0 []]
        else (t.fw k).staged = (if off = 0 then none else (s.fw k).staged) ∧ t.outbox = s.outbox ++ [.mailbox 2 []]) ∧
  (∀ (s : State) (k : Fin 6), s.ioUp = true → s.port.mailboxReady = true → Runs (.activateFw k) s fun t =>
    if k.val = 0 ∨ (s.fw k).staged = none then t = { s with outbox := s.outbox ++ [.mailbox 2 []] }
    else if (k.val = 4 ∧ s.flag Fld.reqCtrlEnable = true) ∨ (k.val = 2 ∧ s.sec.imports ≠ []) then
      t = { s with outbox := s.outbox ++ [.mailbox 6 []] }
    else t.fw k = { s.fw k with activating := true } ∧ (∀ j, j ≠ k.val → t.fw j = s.fw j) ∧
      t.outbox = s.outbox ++ [.mailbox 0 []] ∧ t.regs = s.regs ∧ SameMemory s t) ∧
  (∀ (s : State) (k : Fin 6) (b : Bytes), k.val = 2 ∨ k.val = 3 ∨ k.val = 4 → (s.fw k).activating = true → (s.fw k).staged = some b →
    s.sec.booted = true → (k.val = 4 → s.flag Fld.reqCtrlEnable = false) → (k.val = 2 → s.sec.imports = []) →
    Runs (.fwActivationInstant k) s fun t =>
      (t.fw k).running = b ∧ (t.fw k).stored = b ∧ (t.fw k).fallback = (s.fw k).stored ∧ (t.fw k).staged = none ∧
      (t.fw k).activating = false ∧ (∀ j, j ≠ k.val → t.fw j = s.fw j) ∧ SameMemory s t ∧
      (k.val = 2 → t.sec.restarting = true ∧ t.sec.sessions = [] ∧ t.sec.exchanging = [] ∧ t.debug = false ∧
        (∀ l, l < 12 → (t.link l).spdmOpen = false ∧ (t.link l).keyExchanged = false) ∧
        t.sec.leaf = max s.sec.leaf s.sec.nvmLeaf) ∧
      (k.val ≠ 2 → t.sec.restarting = s.sec.restarting ∧ t.sec.sessions = s.sec.sessions ∧ SameRegs [Reg.secStatus] s t)) ∧
  (∀ (s : State) (k : Fin 6), k.val = 0 ∨ k.val = 1 ∨ k.val = 5 → Runs (.fwActivationInstant k) s fun t => t = s) ∧
  (∀ (s : State) (n : Nat), s.mgmtUp = true ∨ s.power.railFail.isSome = true → Runs (.pldmMonitoring n) s fun t =>
    t = { s with outbox := s.outbox ++ [.mctp (Config.standardReply 0x200 (leBytes 4 n ++ leBytes 8 (s.rd Reg.pwrStatus).toNat ++
      leBytes 1 s.power.rails ++ leBytes 1 (s.power.railFail.getD 0xFF)))] }) ∧
  (∀ (s : State) (k : Fin 6) (b : Bytes), s.mgmtUp = true → k.val ≠ 0 → s.sec.held = false → Runs (.pldmFirmwareUpdate k b) s fun t =>
    (t.fw k).staged = (if s.fwOk k b then some b else none) ∧ (t.fw k).stored = (s.fw k).stored ∧
    (t.fw k).running = (s.fw k).running ∧ SameRegs [Reg.secStatus] s t ∧ SameMemory s t ∧
    t.outbox = s.outbox ++ [.mctp (Config.standardReply 0x500 [BitVec.ofNat 8 k, BitVec.ofNat 8 (b2n (s.fwOk k b))])]) ∧
  (∀ (s : State) (k : Fin 6) (b : Bytes), s.mgmtUp = true → s.sec.held = true → Runs (.pldmFirmwareUpdate k b) s fun t =>
    t.regs = s.regs ∧ SameMemory s t ∧
    if k.val = 0 ∨ ((s.fw 1).dead = true ∧ k.val ≠ 1) ∨ s.fwOk k b = false then
      t = { s with outbox := s.outbox ++ [.mctp (Config.standardReply 0x500 [BitVec.ofNat 8 k, 0])] }
    else (t.fw k).stored = b ∧ (t.fw k).fallback = (s.fw k).stored ∧
      t.outbox = s.outbox ++ [.mctp (Config.standardReply 0x500 [BitVec.ofNat 8 k, 1])])

/-- The SPDM responder: measurements, certificates, challenges, sessions and errors -/
def Obligations.SpdmResponder : Prop :=
  (∀ (s : State) (p : SpdmPort) (c : Instr), (∃ (i code : Byte) (n : Option (BitVec 256)) (m : BitVec 256) (slot : Fin 8)
      (off len : Nat) (b : Bool) (f : PeerProof),
      c = .spdmGetMeasurements p i n ∨ c = .spdmGetCertificate p slot off len ∨ c = .spdmChallenge p m ∨ c = .spdmKeyExchange p b ∨
      c = .spdmFinish p b f ∨ c = .spdmKeyUpdate p ∨ (c = .spdmUnsupportedRequest p code ∧ code.toNat ∉ spdmOwnRow)) →
    (SpdmReaches s p → s.sec.restarting = true ∨ s.sec.booted = false →
      Runs c s fun t => t = (s.spdmArrived p).after (spdmSay p (.error 3))) ∧
    (s.spdmOpen p = false → Runs c s fun t => t = s) ∧
    (∀ (l : LinkId) (x : CtrlSeal), p = .link l x → s.spdmOpen p = true → ¬CtrlSound s l x → Runs c s fun t =>
      t = (s.after (framesIn l)).after (discardOn l x.seqLo.toNat (some 2)))) ∧
  (∀ (s u : State) (p : SpdmPort), SpdmReaches s p → s.sec.restarting = false → s.sec.booted = true → u = s.spdmArrived p →
    (∀ (i : Byte) (n : Option (BitVec 256)) (ms : List Measure), i ≠ 0xF0 →
      ms = u.measures.filter (fun m => i == 0xFF || m.index == i.toNat) → Runs (.spdmGetMeasurements p i n) s fun t =>
        if ms = [] then t = u.after (spdmSay p (.error 1))
        else t = u.after (spdmSay p (.measurements i.toNat (ms.flatMap Measure.bytes) (match n with
          | none => []
          | some n => u.aliasSign (Config.sha384 (ms.flatMap Measure.bytes ++ leBytes 32 n.toNat)))))) ∧
    (∀ (slot : Fin 8) (off len : Nat), Runs (.spdmGetCertificate p slot off len) s fun t =>
      if slot.val ≠ 0 ∨ u.certificateChain.length < off then t = u.after (spdmSay p (.error 1))
      else t = u.after (spdmSay p (.certificate ((u.certificateChain.drop off).take len)))) ∧
    (∀ n : BitVec 256, Runs (.spdmChallenge p n) s fun t => t = u.after (spdmSay p (.challengeAuth
      (u.aliasSign (Config.sha384 (leBytes 32 n.toNat ++ u.measures.flatMap Measure.bytes)))))) ∧
    (Runs (.spdmKeyUpdate p) s fun t => t = u.after (spdmSay p (if u.inSession p then .keyUpdateAck else .error 4))) ∧
    (∀ code : Byte, code.toNat ∉ spdmOwnRow → Runs (.spdmUnsupportedRequest p code) s fun t =>
      if code = 0x81 then t = u.after (spdmSay p (.digests (Config.sha384 u.certificateChain)))
      else if code = 0x84 then t = u.after (spdmSay p (.versions [0x12, 0x13]))
      else if code = 0xE1 ∨ code = 0xE3 then t = u.after (spdmSay p (.negotiated (Config.standardReply (0x600 + code.toNat) [])))
      else if code = 0xEC then (u.inSession p = false → t = u.after (spdmSay p (.error 4))) ∧ (u.inSession p = true → t.inSession p = false)
      else t = u.after (spdmSay p (.error 7)))) ∧
  (∀ (s : State) (p : SpdmPort), p = .doe ∨ p = .mctp → s.spdmOpen p = true → s.sec.restarting = false → s.sec.booted = true →
    (∀ m : Bool, Runs (.spdmKeyExchange p m) s fun t => t = { s with
      sec := { s.sec with exchanging := s.sec.exchanging.filter (· != p) ++ [p] }
      outbox := s.outbox ++ [.spdm p .keyExchangeRsp] }) ∧
    (∀ f : PeerProof, p ∈ s.sec.exchanging → Runs (.spdmFinish p true f) s fun t => t = { s with
      sec := { s.sec with exchanging := s.sec.exchanging.filter (· != p), sessions := s.sec.sessions.filter (· != p) ++ [p] }
      outbox := s.outbox ++ [.spdm p .finishRsp] }) ∧
    (∀ f : PeerProof, p ∈ s.sec.exchanging → Runs (.spdmFinish p false f) s fun t =>
      t.sec.sessions = s.sec.sessions ∧ p ∉ t.sec.exchanging ∧ t.outbox = s.outbox ++ [.spdm p (.error 6)]) ∧
    (∀ (f : PeerProof) (ok : Bool), p ∉ s.sec.exchanging → Runs (.spdmFinish p ok f) s fun t =>
      t = { s with outbox := s.outbox ++ [.spdm p (.error 4)] })) ∧
  (∀ (s u : State) (l : LinkId) (x : CtrlSeal), SpdmReaches s (.link l x) → s.sec.restarting = false → s.sec.booted = true →
    u = s.took l →
    (∀ m : Bool, Runs (.spdmKeyExchange (.link l x) m) s fun t =>
      if m = false ∨ u.linkState l ≠ Ls.attest then t = u.after (sendCtrl l (.spdm (.error 1)))
      else t = (u.run [.link l fun x => { x with keyExchanged := true }]).after (sendCtrl l (.spdm .keyExchangeRsp))) ∧
    (∀ (ok : Bool) (f : PeerProof), (u.link l).keyExchanged = false ∨ u.linkState l ≠ Ls.attest →
      Runs (.spdmFinish (.link l x) ok f) s fun t => t = u.after (sendCtrl l (.spdm (.error 4)))) ∧
    (∀ (ok : Bool) (f : PeerProof), (u.link l).keyExchanged = true → u.linkState l = Ls.attest →
      ok = false ∨ f.fingerprint ≠ (u.link l).peerFingerprint → Runs (.spdmFinish (.link l x) ok f) s fun t =>
        t = u.after (fenceLink l Hr.fenceAttest) ∧ t.linkState l = Ls.fenced) ∧
    (∀ f : PeerProof, (u.link l).keyExchanged = true → u.linkState l = Ls.attest →
      f.fingerprint = (u.link l).peerFingerprint → Runs (.spdmFinish (.link l x) true f) s fun t =>
        t.linkState l = Ls.up ∧ (t.link l).session = some s.sec.nextKey ∧ t.sec.nextKey = s.sec.nextKey + 1 ∧
        (t.link l).spdmOpen = true ∧ (t.link l).peerTrust = f.trust ∧ ∃ nonce,
          t = (((u.run [.draw, .link l fun x => { x with spdmOpen := true, peerTrust := f.trust }]).after
            (sendCtrl l (.spdm .finishRsp))).after (sendCtrl l (.spdm (.askColophon nonce)))).after (Machine.linkUp l)))

/-- A request for a colophon that reaches the booted responder, with the top tree used up, is answered Unspecified; while a subtree is renewed, or used up, it waits and is answered ResponseNotReady; else it takes the next leaf. At the first leaf of each run of 64 the index 64 ahead is committed first; when that commit fails (an open outcome, log entry 45) nothing is signed and a fault record is made. A used-up subtree starts a renewal, or ends colophons when the top tree is used up too. A renewal whose commit holds takes the next top leaf and starts at leaf 0, one whose commit fails has no leaf and makes a fault record; then what waited is served. A restart of the engine ends. -/
def Obligations.ColophonsAndLms : Prop :=
  (∀ (s u : State) (p : SpdmPort) (n : Option (BitVec 256)), SpdmReaches s p → s.sec.restarting = false → s.sec.booted = true →
    u = s.spdmArrived p → Runs (.spdmGetMeasurements p 0xF0 n) s fun t =>
      if u.flag Fld.secStatusLmsExhausted = true ∨ (2 ^ 20 ≤ u.sec.leaf ∧ 2 ^ 20 ≤ u.sec.nvmTop) then t = u.after (spdmSay p (.error 5))
      else if u.flag Fld.secStatusLmsRenewing = true ∨ 2 ^ 20 ≤ u.sec.leaf then
        t = (u.run [.sec fun x => { x with colophonWait := x.colophonWait ++ [(p, n.getD 0)] }]).after (spdmSay p (.notReady 19))
      else if u.sec.nvmLeaf ≤ u.sec.leaf ∧ Config.commitFails u.free = true then
        t = ((u.run [.draw]).after (faultRecord 0x0E 0 0xFF 2 1 0 0 false)).after (spdmSay p (.error 5))
      else ∃ v : State, v.sec.leaf = u.sec.leaf + 1 ∧ v.sec.nvmLeaf = max u.sec.nvmLeaf (u.sec.leaf / 64 * 64 + 64) ∧
        v.fget Fld.secLmsLeaf = (u.sec.leaf + 1) % 2 ^ Fld.secLmsLeaf.width ∧ SameRegs [Fld.secLmsLeaf.addr] u v ∧
        v.outbox = u.outbox ∧ SameMemory u v ∧ t = v.after (spdmSay p (.colophon (u.colophon (n.getD 0))))) ∧
  (∀ s : State, s.sec.booted = true → 2 ^ 20 ≤ s.sec.leaf → s.flag Fld.secStatusLmsRenewing = false →
    s.flag Fld.secStatusLmsExhausted = false → Runs .lmsSubtreeExhausted s fun t => t.sec = s.sec ∧ SameRegs [Reg.secStatus] s t ∧
      SameMemory s t ∧ t.flag Fld.secStatusLmsExhausted = decide (2 ^ 20 ≤ s.sec.nvmTop) ∧
      t.flag Fld.secStatusLmsRenewing = decide (s.sec.nvmTop < 2 ^ 20)) ∧
  (∀ s : State, s.flag Fld.secStatusLmsRenewing = true → s.sec.nvmTop < 2 ^ 20 → Runs .lmsRenewalComplete s fun t => ∃ u : State,
    u.flag Fld.secStatusLmsRenewing = false ∧ u.sec.colophonWait = [] ∧ u.outbox = s.outbox ∧ SameMemory s u ∧
    (if Config.commitFails s.free = true then u.sec.nvmTop = s.sec.nvmTop ∧ u.sec.leaf = 2 ^ 20 ∧ u.sec.nvmLeaf = 2 ^ 20 ∧
        u.flt = (s.after (faultRecord 0x0E 0 0xFF 2 1 0 0 false)).flt
      else u.sec.nvmTop = s.sec.nvmTop + 1 ∧ u.sec.leaf = 0 ∧ u.sec.nvmLeaf = 0 ∧ u.fget Fld.secLmsLeaf = 0 ∧
        u.fget Fld.secLmsSubtree = s.sec.nvmTop % 2 ^ Fld.secLmsSubtree.width ∧ u.flt = s.flt) ∧
    t = u.after (forA s.sec.colophonWait fun x => whenA (·.spdmOpen x.1) fun v =>
      if v.leavesGone then spdmError x.1 5 v else colophonAsk x.1 x.2 v) ∧ (s.sec.colophonWait = [] → t = u)) ∧
  (∀ s : State, Runs .securityEngineRestartDone s fun t => t = { s with sec := { s.sec with restarting := false } })

/-- The boot of the security domain, and debug mode -/
def Obligations.SecurityBootAndDebug : Prop :=
  (∀ (s : State) (A B : List Bool) (k : Nat), s.powered = true → s.sec.booted = false → s.sec.held = false → k = 1 ∨ k = 2 ∨ k = 3 →
    A.getD (k - 1) false = false → B.getD (k - 1) false = false → Runs (.securityDomainReady A B) s fun t =>
      t.sec.held = true ∧ t.sec.booted = false) ∧
  (∀ (s : State) (A B : List Bool), s.powered = true → s.sec.booted = false → s.sec.held = false → s.sec.arb = [0, 0, 0, 0, 0] →
    A.getD 0 false = true → A.getD 1 false = true → A.getD 2 false = true → A.getD 3 false = true →
    Runs (.securityDomainReady A B) s fun t =>
      t.sec.booted = true ∧ t.sec.held = false ∧ t.sec.bootCount = (s.sec.bootCount + 1) % 2 ^ 32 ∧
      t.flag Fld.secProtLock = true ∧ t.flag Fld.secStatusLocked = true ∧ SameMemory s t ∧ t.outbox = s.outbox ∧
      t.sec.udsClosed = true ∧ t.sec.cdi = Config.hmac384 (leBytes 32 Config.uds.toNat)
        ((t.measures.filter fun m => decide (1 ≤ m.index ∧ m.index ≤ 6)).flatMap fun m => digestBytes m.digest) ∧
      (∀ k, k = 1 ∨ k = 2 ∨ k = 3 ∨ k = 4 → (t.fw k).running = ((s.fw k).swap).stored ∧ (t.fw k).dead = false) ∧
      (if 2 ^ 20 ≤ s.sec.nvmTop then t.flag Fld.secStatusLmsExhausted = true ∧ t.sec.leaf = s.sec.leaf ∧ t.flt = s.flt
       else if Config.commitFails s.free = true then t.sec.nvmTop = s.sec.nvmTop ∧ t.sec.leaf = 2 ^ 20
       else t.sec.nvmTop = s.sec.nvmTop + 1 ∧ t.sec.leaf = 0 ∧ t.sec.nvmLeaf = 0 ∧ t.flt = s.flt)) ∧
  (∀ (s : State) (A B : List Bool), s.powered = true → s.sec.booted = false → s.sec.held = false → s.sec.arb = [0, 0, 0, 0, 0] →
    A.getD 0 false = true → A.getD 1 false = true → A.getD 2 false = true → A.getD 3 false = false → B.getD 3 false = false →
    Runs (.securityDomainReady A B) s fun t => t.sec.booted = true ∧ (t.fw 4).dead = true ∧ t.basic = true) ∧
  (∀ s : State, s.bound = true → Runs .debugEnable s fun t => SameMemory s t ∧ SameRegs [Reg.secDbg, Reg.secStatus] s t ∧
    if s.flag Fld.secProtDebugLock = true ∨ s.confidential = true then t.flag Fld.secDbgRefused = true ∧ t.debug = s.debug
    else t.debug = true ∧ t.flag Fld.secStatusDebugUsed = true ∧ t.flag Fld.secDbgEnable = true) ∧
  (∀ s : State, s.bound = true → Runs .debugDisable s fun t => t.debug = false ∧ t.flag Fld.secDbgEnable = false ∧
    t.fget Fld.secStatusDebugUsed = s.fget Fld.secStatusDebugUsed ∧ SameRegs [Reg.secDbg, Reg.secStatus] s t ∧ SameMemory s t)

/-- Security operations: context roots, frame tags, and the import of model packages -/
def Obligations.SecurityOperations : Prop :=
  (∀ (s : State) (d : Bytes) (c : Instr) (k status : Nat), s.nextDesc secPlace s.sec.imports.length = some d → k = fieldAt d 0 1 →
    RingSound secPlace s → NoFinal s →
    (c = .ctxRoot ∧ k = 1 ∧ (secFieldsOk d = false ∨ s.rootOk (fieldAt d 8 8) = false) ∧ status = Ss.badDesc) ∨
      (c = .ctxRoot ∧ k = 1 ∧ secFieldsOk d = true ∧ s.rootOk (fieldAt d 8 8) = true ∧ s.ctxState (fieldAt d 2 1) = 0 ∧ status = Ss.contextState) ∨
      (c = .assign ∧ k = 2 ∧ s.assignOk d = false ∧ status = Ss.badDesc) ∨
      (∃ h, c = .importPackage h ∧ k = 3 ∧ secFieldsOk d = false ∧ status = Ss.badDesc) ∨
      (∃ h, c = .importPackage h ∧ k = 3 ∧ secFieldsOk d = true ∧ s.ctxLive (fieldAt d 2 1) = false ∧ status = Ss.contextState) ∨
      (∃ h e, c = .importPackage h ∧ k = 3 ∧ secFieldsOk d = true ∧ s.ctxLive (fieldAt d 2 1) = true ∧ s.pkgHead d h = .error e ∧ status = e) ∨
      (c = .reservedSecOpKind ∧ (k = 0 ∨ 4 ≤ k) ∧ status = Ss.badDesc) → Runs c s fun t =>
      t.regs = s.regs ∧ t.sec = s.sec ∧ t.ctxs = s.ctxs ∧ t.xlt = s.xlt ∧ (t.devRing 3).taken = countUp (s.devRing 3).taken ∧
      Completes secPlace (leBytes 4 (fieldAt d 4 4) ++ leBytes 1 status ++ zeros 11) s t) ∧
  (∀ (s : State) (d : Bytes) (c r : Nat), s.nextDesc secPlace s.sec.imports.length = some d → fieldAt d 0 1 = 1 →
    RingSound secPlace s → NoFinal s → secFieldsOk d = true → c = fieldAt d 2 1 → r = fieldAt d 8 8 → s.rootOk r = true →
    s.ctxState c ≠ 0 → s.outside (s.ctxEntry c) = false → s.unreadable (s.ctxEntry c) = false →
    s.ctxEntry c / 64 ≠ s.cplSlot secPlace / 64 → Runs .ctxRoot s fun t =>
      t.xlt.cache = s.xlt.cache.filter (·.2.ctx != c) ∧ t.regs = s.regs ∧ t.sec = s.sec ∧ t.ctxs = s.ctxs ∧ t.outbox = s.outbox ∧
      (t.devRing 3).taken = countUp (s.devRing 3).taken ∧ (t.devRing 3).produced = countUp (s.devRing 3).produced ∧
      t.peekN (s.ctxEntry c) 8 = leBytes 8 (if r = 0 then 0 else r + 1) ∧
      t.peekN (s.cplSlot secPlace) 16 = leBytes 4 (fieldAt d 4 4) ++ zeros 12 ∧
      (∀ b, b / 64 ≠ s.ctxEntry c / 64 → b / 64 ≠ s.cplSlot secPlace / 64 → t.peek b = s.peek b)) ∧
  (∀ (s : State) (d : Bytes) (a n : Nat), s.nextDesc secPlace s.sec.imports.length = some d → fieldAt d 0 1 = 2 →
    s.assignOk d = true → a = fieldAt d 8 8 → n = fieldAt d 24 8 →
    (s.rangeMigrates a n = true → Runs .assign s fun t => t = s) ∧
    (s.rangeMigrates a n = false → RingSound secPlace s → NoFinal s →
      (∀ i, i < n / 65536 → s.outside (s.tagAddr a + i) = false ∧ s.unreadable (s.tagAddr a + i) = false ∧
        (s.tagAddr a + i) / 64 ≠ s.cplSlot secPlace / 64) → Runs .assign s fun t =>
        t.regs = s.regs ∧ t.sec = s.sec ∧ t.ctxs = s.ctxs ∧ t.outbox = s.outbox ∧
        (t.devRing 3).taken = countUp (s.devRing 3).taken ∧ (t.devRing 3).produced = countUp (s.devRing 3).produced ∧
        (∀ i, i < n / 65536 → t.peek (s.tagAddr a + i) =
          BitVec.ofNat 8 (if fieldAt d 3 1 = 0 then 0 else 2 * fieldAt d 2 1 + fieldAt d 3 1)) ∧
        t.peekN (s.cplSlot secPlace) 16 = leBytes 4 (fieldAt d 4 4) ++ zeros 4 ++ leBytes 8 n)) ∧
  (∀ (s : State) (d h : Bytes) (c : Nat) (host : HostResult), s.nextDesc secPlace s.sec.imports.length = some d → fieldAt d 0 1 = 3 →
    RingSound secPlace s → NoFinal s →
    secFieldsOk d = true → c = fieldAt d 2 1 → s.ctxLive c = true → s.pkgHead d host = .ok h → Runs (.importPackage host) s fun t =>
      (t.devRing 3).taken = countUp (s.devRing 3).taken ∧
      if pkgOk d h = false then t.sec = s.sec ∧ t.ctxs = s.ctxs ∧ Completes secPlace (leBytes 4 (fieldAt d 4 4) ++ leBytes 1 Ss.badDesc ++ zeros 11) s t
      else match pkgOwnEntry h with
        | none => t.sec = s.sec ∧ t.ctxs = s.ctxs ∧ Completes secPlace (leBytes 4 (fieldAt d 4 4) ++ leBytes 1 Ss.notListed ++ zeros 11) s t
        | some e => match Config.unwrapKey (Config.identity "binding") (Config.sha384 (slice h 0 0xC0)) (slice h 0x50 97 ++ e) with
          | none => t.sec = s.sec ∧ t.ctxs = s.ctxs ∧ Completes secPlace (leBytes 4 (fieldAt d 4 4) ++ leBytes 1 Ss.unwrap ++ zeros 11) s t
          | some key => if (s.ctx c).keyContent ≠ 0 ∧ (s.ctx c).packageId ≠ fieldAt h 16 16 then
              t.sec = s.sec ∧ t.ctxs = s.ctxs ∧ Completes secPlace (leBytes 4 (fieldAt d 4 4) ++ leBytes 1 Ss.keyBusy ++ zeros 11) s t
            else t.ctx c = { s.ctx c with keyContent := 2 ^ 64 + key.toNat, packageId := fieldAt h 16 16 } ∧
              t.sec = { s.sec with imports := s.sec.imports ++ [⟨d, c, h, 2 ^ 64 + key.toNat⟩] } ∧
              (t.devRing 3).produced = (s.devRing 3).produced ∧ t.outbox = s.outbox ∧
              (s.outside (s.ctxEntry c + 8) = false → s.unreadable (s.ctxEntry c + 8) = false →
                t.peekN (s.ctxEntry c + 8) 4 = leBytes 4 (b2n (s.image c).confidential + 2) ∧ t.regs = s.regs)) ∧
  (∀ (s : State) (o : ImportOp) (rest : List ImportOp) (host : HostResult), s.sec.imports = o :: rest → Calm s →
    (s.importHeld o = true → Runs (.importComplete host) s fun t => t = s) ∧
    (s.importHeld o = false → Runs (.importComplete host) s fun t => t.sec.imports = rest ∧
      (t.devRing 3).produced = countUp (s.devRing 3).produced ∧ SameRegs [Reg.fltCnt] s t ∧ t.outbox = s.outbox)) ∧
  (∀ (s : State) (o : ImportOp) (rest : List ImportOp) (late : Bool), s.sec.imports = o :: rest → inHost o.desc = true →
    s.importHeld o = false → RingSound secPlace s → NoFinal s → Runs (.importComplete (.failed late)) s fun t =>
      (t.ctx o.ctx).keyContent = 0 ∧ (t.ctx o.ctx).packageDigest = none ∧ ∃ (w : State) (n : Nat),
        Completes secPlace (leBytes 4 (fieldAt o.desc 4 4) ++ leBytes 1 Ss.hostRead ++ zeros 3 ++ leBytes 8 n) w t) ∧
  (∀ (s : State) (o : ImportOp) (rest : List ImportOp) (host : HostResult) (x : Bytes) (units : List Bytes) (r : List Upd × Nat × Nat)
    (status : Nat), s.sec.imports = o :: rest → s.importHeld o = false → RingSound secPlace s → NoFinal s →
    (∃ b, inHost o.desc = true ∧ host = .ok b ∧ x = slice b 0 (fieldAt o.header 8 8)) ∨
      (inHost o.desc = false ∧ x = s.cipherN (fieldAt o.desc 8 8 + pkgContent o.header) (fieldAt o.header 8 8) ∧
        ∀ i, i < fieldAt o.header 8 8 / 4096 → ∃ y, s.pkgRead (fieldAt o.desc 8 8 + pkgContent o.header + 4096 * i) 4096 = .ok y) →
    units = chunksOf 4096 (x.length / 4096 + 1) x → units.length ≤ fieldAt o.header 8 8 / 4096 → r = streamUnits o units 0 s →
    status = (if r.2.1 ≠ 0 then r.2.1 else if leNat (slice o.header 0x20 48) ≠ (Config.sha384 x).toNat then Ss.digest else Ss.ok) →
    Runs (.importComplete host) s fun t => t = (s.run r.1).after (importDone o status r.2.2) ∧
      (status ≠ Ss.ok → (t.ctx o.ctx).keyContent = 0) ∧
      (status = Ss.ok → (s.ctx o.ctx).keyContent = o.key → (t.ctx o.ctx).keyContent = o.key ∧
        (t.ctx o.ctx).packageDigest = some (Config.sha384 (slice o.header 0 0xC0))) ∧
      ∃ w : State, Completes secPlace (leBytes 4 (fieldAt o.desc 4 4) ++ leBytes 1 status ++ zeros 3 ++ leBytes 8 r.2.2) w t)

/-- The states of a Huras link -/
def Obligations.LinkStates : Prop :=
  (∀ (s : State) (l : LinkId) (c : Instr), c = .presenceDetected l ∨ c = .absentCheck l true → s.linkState l = 5 → Runs c s fun t =>
    t.linkState l = 1 ∧ (t.link l).lateHello = false ∧ (Sends Vec.links s → .msix Vec.links ∈ t.outbox) ∧ SameMemory s t) ∧
  (∀ (s : State) (l : LinkId), Runs (.absentCheck l false) s fun t => t = s) ∧
  (∀ (s : State) (l : LinkId) (r : LaneResult), s.linkState l = 1 → s.fget Fld.hlFabricStage ≠ 0 → Runs (.linkTrainingComplete l r) s fun t =>
    SameMemory s t ∧ (Sends Vec.links s → .msix Vec.links ∈ t.outbox) ∧
    if (r.fail224.map (·.val)).eraseDups.length ≤ 1 ∨ (r.partner21 = true ∧ (r.fail112.map (·.val)).eraseDups.length ≤ 1) then
      t.linkState l = 2 ∧ t.fget (Fld.hlLstatProto l) = 0 ∧
      t.fget (Fld.hlLstatRate l) = (if (r.fail224.map (·.val)).eraseDups.length ≤ 1 then 2 else 1) ∧ (t.link l).rxCounter = 0 ∧
      ∃ m : HelloMsg, .ctrl l (.hello m) ∈ t.outbox ∧ m.versions = 3 ∧ m.fabricId.toNat = s.ownId ∧ m.link.toNat = l ∧ m.fingerprint = Config.fingerprint
    else t.linkState l = 6) ∧
  (∀ (s : State) (l : LinkId) (b : Bool), s.linkState l = 1 → Runs (.absentTimeout l b) s fun t =>
    t.linkState l = 5 ∧ t.fget (Fld.hlLstatFenceReason l) = 0x15 ∧ SameMemory s t) ∧
  (∀ (s : State) (l : LinkId) (x : CtrlSeal) (m : HelloMsg), s.linkState l = 2 → s.fget (Fld.hlLstatProto l) = 0 →
    (CtrlSound s l x → helloOk m = true → Runs (.hello ⟨l, x⟩ m) s fun t => SameMemory s t ∧
      if s.helloProto m = 0 ∨ m.fabricId.toNat = s.ownId then t.linkState l = 7 ∧ t.fget (Fld.hlLstatFenceReason l) = 0x13
      else t.fget (Fld.hlLstatProto l) = s.helloProto m ∧ t.fget (Fld.hlLstatPeerId l) = m.fabricId.toNat ∧
        (t.link l).peerFingerprint = m.fingerprint ∧ (t.link l).peerLink = m.link.toNat ∧ (t.link l).peerFlags = m.flags.toNat ∧
        (t.link l).rxCounter = ((s.link l).rxCounter + 1) % 2 ^ 64 ∧
        t.linkState l = (if s.flag Fld.hlCtrlForm then 3 else 2)) ∧
    (CtrlSound s l x → helloOk m = false → Runs (.hello ⟨l, x⟩ m) s fun t => t.linkState l = 2 ∧ t.fget (Fld.hlLstatProto l) = 0 ∧
      Counted (Fld.hlLerrCheckFail l) s t ∧ t.outbox = s.outbox ∧ SameMemory s t) ∧
    (¬CtrlSound s l x → Runs (.hello ⟨l, x⟩ m) s fun t => t.linkState l = 2 ∧ t.fget (Fld.hlLstatProto l) = 0 ∧
      Counted (Fld.hlLerrAuthFail l) s t ∧ (t.link l).rxCounter = (s.link l).rxCounter ∧
      SameMemory s t)) ∧
  (∀ (s : State) (l : LinkId) (x : CtrlSeal) (m : HelloMsg), s.linkState l = 7 → (s.link l).lateHello = true →
    Runs (.hello ⟨l, x⟩ m) s fun t => Counted (Fld.hlLerrLate l) s t ∧ (t.link l).lateHello = false ∧ t.linkState l = 7 ∧
      t.outbox = s.outbox ∧ SameMemory s t) ∧
  (∀ (s : State) (l : LinkId), s.linkState l = 2 → s.fget (Fld.hlLstatProto l) = 0 → Runs (.helloTimeout l) s fun t =>
    t.linkState l = 7 ∧ t.fget (Fld.hlLstatFenceReason l) = 0x13 ∧ (t.link l).lateHello = true ∧ SameMemory s t) ∧
  (∀ (s : State) (l : LinkId) (r : Nat), s.linkIsUp l = true → s.overThreshold l = some r → Runs (.linkFence l) s fun t =>
    t.linkState l = 7 ∧ t.fget (Fld.hlLstatFenceReason l) = r ∧ (t.link l).session = none ∧ SameMemory s t) ∧
  (∀ (s : State) (l : LinkId) (vc : Fin 3), s.linkIsUp l = true → (s.link l).waiting.any (·.vc == some vc.val) = true →
    (s.link l).creditFor vc = false → Runs (.creditStallTimeout l vc) s fun t =>
      t.linkState l = 7 ∧ t.fget (Fld.hlLstatFenceReason l) = 0x12 ∧ SameMemory s t) ∧
  (∀ (s : State) (l : LinkId), s.bound3 = true → Runs (.linkRetrain l) s fun t =>
    if s.flag (Fld.hlLctrlDisable l) = true ∨ s.linkState l = 0 then t = s else t.linkState l = 1 ∧ SameMemory s t) ∧
  (∀ (s : State) (l : LinkId), s.bound3 = true → Runs (.linkDisable l) s fun t =>
    if s.flag (Fld.hlLctrlDisable l) = true then t = s
    else t.linkState l = 0 ∧ t.flag (Fld.hlLctrlDisable l) = true ∧ t.flag (Fld.pwrPendingLink.item l) = false ∧
      (t.link l).shutting = true ∧ SameMemory s t) ∧
  (∀ (s : State) (l : LinkId), s.bound3 = true → Runs (.linkEnable l) s fun t => SameMemory s t ∧
    if (s.link l).shutting = true then t.flag (Fld.hlLctrlDisable l) = false ∧ t.flag (Fld.pwrPendingLink.item l) = true ∧
      t.linkState l = s.linkState l ∧ t.links = s.links
    else if s.flag (Fld.hlLctrlDisable l) = false then t = s
    else t.flag (Fld.hlLctrlDisable l) = false ∧
      t.linkState l = (if s.linkState l = 0 ∧ s.flag Fld.pwrStrapFidErr = false then 1 else s.linkState l)) ∧
  (∀ (s : State) (l : LinkId), (s.link l).shutting = true → Runs (.linkShutdownComplete l) s fun t =>
    (t.link l).shutting = false ∧ t.flag (Fld.pwrPendingLink.item l) = false ∧ SameMemory s t ∧
    t.linkState l = (if s.flag (Fld.pwrPendingLink.item l) = true ∧ s.linkState l = 0 ∧ s.flag Fld.pwrStrapFidErr = false then 1
      else s.linkState l))

/-- Frames that arrive: authentication, checks, WRITE, READ_REQ and the three kinds of answer -/
def Obligations.InboundFrames : Prop :=
  (∀ (s : State) (l : LinkId) (f : Frame) (c : Instr) (k : Nat), s.linkIsUp l = true → s.authentic l f = false →
    k = (frameHead f).kind →
    (c = .writeFrame l f ∧ k = 1) ∨ (c = .readReq l f ∧ k = 2) ∨ (c = .readRsp l f ∧ k = 3) ∨ (c = .nack l f ∧ k = 4) ∨
      (c = .writeAck l f ∧ k = 5) ∨ (c = .reservedFrameType l f ∧ 8 ≤ k) → Runs c s fun t =>
      (t.link l).rxCounter = (s.link l).rxCounter ∧ SameMemory s t ∧ Counted (Fld.hlLerrAuthFail l) s t ∧
      t = ((s.after (demand 12)).after (framesIn l)).after (discardFrame l f)) ∧
  (∀ (s u : State) (l : LinkId) (f g : Frame) (h : Head) (n : Nat), s.linkIsUp l = true → s.authentic l f = true → h = frameHead f →
    g = s.opened l f → u = s.framed l g → n = h.count + 1 →
    (∀ c, ((c = .writeFrame l f ∧ h.kind = 1) ∨ (c = .readReq l f ∧ h.kind = 2) ∨ (c = .readRsp l f ∧ h.kind = 3) ∨
        (c = .nack l f ∧ h.kind = 4) ∨ (c = .writeAck l f ∧ h.kind = 5)) →
      (u.frameOk l g = false → Runs c s fun t => t = u.after (refuseFrame l h 0x09)) ∧
      (u.frameOk l g = true → h.dst ≠ u.ownId → Runs c s fun t => t = u.after (forwardFrame l g))) ∧
    (8 ≤ h.kind → Runs (.reservedFrameType l f) s fun t => t = u.after (refuseFrame l h 0x09)) ∧
    (u.frameOk l g = true → h.dst = u.ownId →
      (∀ a, h.kind = 1 → h.coded = false → u.checkRequest l h n = .ok a → u.holdingBanks a (64 * n) = [] →
        a % 64 = 0 → Calm s → Runs (.writeFrame l f) s fun t => ∃ v : State,
          v = u.after (storeLines a h.poison ((frameBytes g).take (64 * n))) ∧ SameOutside a (64 * n) u v ∧
          (∀ i, i < n → bitOf h.poison i = false → u.region (a + 64 * i) = .pool ∨ u.region (a + 64 * i) = .galley →
            v.peekN (a + 64 * i) 64 = slice (frameBytes g) (64 * i) 64) ∧
          (∀ i, i < n → bitOf h.poison i = true → v.poisoned (a + 64 * i) = true) ∧
          (regionOf a = .pool → SameMemory v t) ∧
          t = (v.after (restage a (64 * n))).after (answer l h 5 h.count 0 [])) ∧
      (∀ c r, ((c = .writeFrame l f ∧ h.kind = 1 ∧ h.coded = false) ∨ (c = .readReq l f ∧ h.kind = 2)) →
        u.checkRequest l h n = .error r → Runs c s fun t => SameMemory s t ∧
          t = (u.after (refusalCounts r (u.requestAddr h) n)).after (refuseFrame l h r)) ∧
      (∀ c a, ((c = .writeFrame l f ∧ h.kind = 1 ∧ h.coded = false) ∨ (c = .readReq l f ∧ h.kind = 2)) →
        u.checkRequest l h n = .ok a → u.holdingBanks a (64 * n) ≠ [] → Runs c s fun t => SameMemory s t ∧
          (t.link l).held = (s.link l).held ++ [⟨g.header, a, n, if h.kind = 1 then (frameBytes g).take (64 * n) else []⟩]) ∧
      (∀ a, h.kind = 2 → u.checkRequest l h n = .ok a → u.holdingBanks a (64 * n) = [] → s.port.filter = [] →
        Runs (.readReq l f) s fun t => SameMemory s t ∧ ∃ (b : Bytes) (bits : Nat),
          (∀ i, i < n → bitOf bits i = u.poisoned (a + 64 * i) ∧
            (u.poisoned (a + 64 * i) = false → slice b (64 * i) 64 = u.peekN (a + 64 * i) 64)) ∧
          t = (u.run (if bits = 0 then [] else [.draw])).after (answer l h 3 h.count bits b)) ∧
      (h.kind = 1 → h.coded = true →
        (u.linkNew l = false → Runs (.writeFrame l f) s fun t => t = u.after (refuseFrame l h Hr.version)) ∧
        (u.linkNew l = true → (u.gathering l g).refused = false →
          (∀ r, u.checkSource l h = some r → Runs (.writeFrame l f) s fun t => SameMemory s t ∧
            t = (u.run [.link l fun x => { x with gather := some { u.gathering l g with refused := true, data := [] } }]).after
              (refuseFrame l (headOf (u.gathering l g).header) r)) ∧
          (u.checkSource l h = none → (u.gathering l g).got < (u.gathering l g).need → Runs (.writeFrame l f) s fun t =>
            (t.link l).gather = some (u.gathering l g) ∧ t.outbox = u.outbox ∧ SameMemory s t))) ∧
      (∀ c r, ((c = .readRsp l f ∧ h.kind = 3) ∨ (c = .nack l f ∧ h.kind = 4) ∨ (c = .writeAck l f ∧ h.kind = 5)) →
        u.outbound.reqs.find? (·.tag == h.tag) = some r → Runs c s fun t => ∃ v : State,
          v.outbound = { s.outbound with reqs := s.outbound.reqs.filter (·.tag != h.tag) } ∧ v.cores = s.cores ∧
          v = u.after (dropReq h.tag) ∧
          t = v.after (if h.kind = 3 then linesIn h (frameBytes g) r else if h.kind = 4 then askerFault r Cmd.translation
            else pumpSends r.core r.cmd)) ∧
      (∀ c, ((c = .readRsp l f ∧ h.kind = 3) ∨ (c = .nack l f ∧ h.kind = 4) ∨ (c = .writeAck l f ∧ h.kind = 5)) →
        u.outbound.reqs.find? (·.tag == h.tag) = none → Runs c s fun t => SameMemory s t ∧ t.cores = s.cores ∧
          if u.outbound.late.any (·.2 == h.tag) then
            t.outbound = { s.outbound with late := s.outbound.late.filter (·.2 != h.tag) } ∧ Counted (Fld.hlLerrLate l) s t
          else t = u)))

/-- Sending, credits, replay, key epochs, protection modes, request timeouts and the outbound table -/
def Obligations.LinkUpkeep : Prop :=
  (∀ (s : State) (l : Nat) (m : CtrlMsg),
    ((s.link l).canSend (.ctrl m) = true → (∀ x ∈ (s.link l).waiting, x.vc ≠ some 2) →
      (s.after (sendCtrl l m)).outbox = s.outbox ++ [.ctrl l m] ∧
      ((s.after (sendCtrl l m)).link l).replay = (s.link l).replay ++ [((s.link l).txCounter, .ctrl m)] ∧
      ((s.after (sendCtrl l m)).link l).txCounter = ((s.link l).txCounter + 1) % 2 ^ 64) ∧
    ((s.link l).canSend (.ctrl m) = false → s.after (sendCtrl l m) = s.run [.link l fun x => { x with waiting := x.waiting ++ [.ctrl m] }])) ∧
  (∀ (s : State) (l : LinkId) (f g : Frame), (frameHead f).kind = 6 → s.linkIsUp l = true → s.authentic l f = true → g = s.opened l f →
    creditOk g = true →
    Runs (.credit l f) s fun t => SameMemory s t ∧ (t.link l).rxCounter = ((s.link l).rxCounter + 1) % 2 ^ 64 ∧
      (t.link l).gotBack = [fieldAt (frameBytes g) 0 2, fieldAt (frameBytes g) 2 2, fieldAt (frameBytes g) 4 2] ∧
      ((s.link l).waiting = [] → (s.link l).resending = [] →
        (t.link l).replay = (s.link l).replay.filter (fun r => fieldAt (frameBytes g) 8 8 < r.1) ∧ t.outbox = s.outbox)) ∧
  (∀ (s : State) (l : LinkId), s.linkIsUp l = true → (s.link l).owed ≠ (s.link l).owedSaid → (s.link l).rxCounter ≠ 0 →
    Runs (.creditSendTimer l) s fun t => (t.link l).owedSaid = (s.link l).owed ∧ (t.link l).owed = (s.link l).owed ∧
      SameRegs [Reg.hlLtraf l] s t ∧ SameMemory s t ∧
      ((s.link l).replay.length < 3072 → (s.link l).resending = [] → (s.link l).waiting = [] → t.outbox = s.outbox ++
        [.frame l (s.stamp l (s.link l).txCounter (mkFrame
          { kind := 6, vc := 0, hops := 0, src := s.ownId, dst := s.fget (Fld.hlLstatPeerId l) }
          ((s.link l).owed.flatMap (leBytes 2) ++ zeros 2 ++ leBytes 8 ((s.link l).rxCounter - 1))))])) ∧
  (∀ (s : State) (l : LinkId) (x : CtrlSeal) (n k : Nat), s.linkIsUp l = true → CtrlSound s l x →
    k = (if (s.link l).resendOf = n then (s.link l).resends else 0) →
    (3 ≤ k → Runs (.ctrlNak ⟨l, x⟩ n) s fun t => t.linkState l = 1 ∧ SameMemory s t ∧
      t = ((s.took l).after (countReset 5)).after (trainLink l)) ∧
    (k < 3 → Runs (.ctrlNak ⟨l, x⟩ n) s fun t => SameMemory s t ∧
      (t.link l).resendOf = n ∧ (t.link l).resends = k + 1 ∧ (t.link l).replay = (s.link l).replay ∧
      t = ((s.took l).run [.link l fun y => { y with resendOf := n, resends := k + 1, resending := [] }]).after
        (forA ((s.link l).replay.filter fun r => n ≤ r.1) (resendOn l)) ∧
      (∀ r, (s.link l).replay.filter (fun r => n ≤ r.1) = [r] → (∀ vc, r.2.vc = some vc → (s.link l).creditFor vc = true) →
        t.outbox = s.outbox ++ [match r.2 with
          | .data f => .frame l f
          | .ctrl m => .ctrl l m]))) ∧
  (∀ (s : State) (l : LinkId), s.linkIsUp l = true → Runs (.sealKeyEpoch l) s fun t =>
    t.link l = { s.link l with epoch := (s.link l).txCounter / 2 ^ 32 } ∧ t.regs = s.regs ∧ SameMemory s t) ∧
  (∀ (s : State) (l : LinkId) (x : CtrlSeal) (n : Nat), s.linkIsUp l = true → CtrlSound s l x → Runs (.mode ⟨l, x⟩ n) s fun t =>
    if s.linkNew l = false ∨ ((s.took l).modeGoal l = 0 ∧ (s.took l).rackTrusted l = false) then t = s.took l
    else (t.link l).modeAt = some (n, 1 - s.modeGoal l) ∧ SameRegs [Reg.hlLtraf l] s t ∧ SameMemory s t) ∧
  (∀ (s : State) (l : LinkId) (x : CtrlSeal) (n : Nat) (c : Instr), c = .mode ⟨l, x⟩ n ∨ c = .ctrlNak ⟨l, x⟩ n →
    s.linkIsUp l = true → ¬CtrlSound s l x → Runs c s fun t =>
      t = (s.after (framesIn l)).after (discardOn l x.seqLo.toNat (some 2)) ∧ (t.link l).rxCounter = (s.link l).rxCounter) ∧
  (∀ (s : State) (l : LinkId) (n m : Nat), s.linkIsUp l = true → (s.link l).modeAt = some (n, m) → n ≤ (s.link l).txCounter →
    n ≤ (s.link l).rxCounter → m < 2 →
    Runs (.modeSwitch l) s fun t => ∃ u : State, u.fget (Fld.hlLstatMode l) = m ∧ (u.link l).modeAt = none ∧
      SameRegs [Reg.hlLstat l] s u ∧ SameMemory s u ∧ t = u.after (reviewMode l)) ∧
  (∀ (s : State) (l : LinkId) (n m : Nat), (s.link l).modeAt = some (n, m) → (s.link l).txCounter < n ∨ (s.link l).rxCounter < n →
    Runs (.modeSwitch l) s fun t => t = s) ∧
  (∀ (s : State) (l : LinkId) (tag : BitVec 11) (r : OutReq),
    s.outbound.reqs.find? (fun r => r.tag == tag.toNat && r.link == l.val) = some r → Runs (.hurasRequestTimeout l tag) s fun t =>
      ∃ u : State, u.outbound = { s.outbound with reqs := s.outbound.reqs.filter (·.tag != tag.toNat), late := s.outbound.late ++ [(l.val, tag.toNat)] } ∧
        (s.hlErrs.length < 32 → ∃ e, u.hlErrs = s.hlErrs ++ [e] ∧ e.1 / 2 ^ 48 = Hr.timeout) ∧
        u.cores = s.cores ∧ u.regs = s.regs ∧ SameMemory s u ∧ t = u.after (askerFault r Cmd.translation)) ∧
  (∀ (s : State) (k : Fin 4096), s.bound3 = true → Runs (.outboundInvalidate k) s fun t =>
    t.outbound = { s.outbound with invalidating := some k.val } ∧ t.fget Fld.hlOutinvSlot = k ∧ SameRegs [Reg.hlOutinv] s t ∧ SameMemory s t) ∧
  (∀ (s : State) (k : Nat), s.outbound.invalidating = some k → Runs .outboundInvalidateDone s fun t =>
    tabGet (fun _ => []) t.outbound.cache k = [] ∧ (∀ j, j ≠ k → tabGet (fun _ => []) t.outbound.cache j = tabGet (fun _ => []) s.outbound.cache j) ∧
    t.outbound.invalidating = none ∧ t.fget Fld.hlOutinvDone = 1 ∧ SameMemory s t) ∧
  (∀ s : State, s.bound3 = true → Runs .hlErrLogPop s fun t => t = { s with hlErrs := s.hlErrs.drop 1 })

/-- The formation of the fabric: election, topology, routes, READY and the heartbeat -/
def Obligations.FabricFormation : Prop :=
  (∀ (s : State) (l : LinkId) (x : CtrlSeal) (c : Instr), (∃ (id : Fin 512) (fp : BitVec 384) (n : Nat) (m : TopoMsg)
      (es : List (Fin 12 × Fin 16)), c = .elect ⟨l, x⟩ id fp n ∨ c = .coord ⟨l, x⟩ id n ∨ c = .topo ⟨l, x⟩ m ∨
      c = .routeTable ⟨l, x⟩ id es ∨ c = .routeAck ⟨l, x⟩ id ∨ c = .ready ⟨l, x⟩ n ∨ c = .heartbeat ⟨l, x⟩ id) →
    (s.linkIsUp l = false → Runs c s fun t => t = s) ∧
    (s.linkIsUp l = true → ¬CtrlSound s l x → Runs c s fun t =>
      t = (s.after (framesIn l)).after (discardOn l x.seqLo.toNat (some 2)) ∧ t.fabric = s.fabric) ∧
    (s.linkIsUp l = true → CtrlSound s l x → s.linkNew l = false → Runs c s fun t => t = s.took l)) ∧
  (∀ (s : State) (l : LinkId) (x : CtrlSeal) (id : Fin 512) (fp : BitVec 384) (hops : Nat), s.linkIsUp l = true → s.linkNew l = true →
    CtrlSound s l x → Runs (.elect ⟨l, x⟩ id fp hops) s fun t => SameMemory s t ∧
      if id.val = s.ownId ∧ fp ≠ Config.fingerprint then
        t.fget Fld.hlFabricDup = 1 ∧ t.fget Fld.hlFabricStage = 7 ∧ t.fabric.electing = false ∧ id.val ∈ t.fabric.excluded
      else (id.val, fp) ∈ t.fabric.heard ∧ t.fget Fld.hlFabricStage = s.fget Fld.hlFabricStage ∧
        (s.fget Fld.hlFabricStage < 4 → s.fabric.keptElect = none → t.fabric.keptElect = some (id.val, fp)) ∧
        (4 ≤ s.fget Fld.hlFabricStage → s.fget Fld.hlFabricStage ≠ 7 → s.fabric.electing = true → id.val < s.fabric.best →
          t.fabric.best = id ∧ t.fabric.bestFp = fp ∧ t.fabric.bestTick = s.ticks) ∧
        (s.fabric.best ≤ id.val → t.fabric.best = s.fabric.best)) ∧
  (∀ (s : State) (l : LinkId) (x : CtrlSeal) (id : Fin 512) (hops : Nat), s.linkIsUp l = true → s.linkNew l = true → CtrlSound s l x →
    (s.fget Fld.hlFabricStage < 4 → s.fabric.keptCoord = none → Runs (.coord ⟨l, x⟩ id hops) s fun t =>
      t.fabric = { s.fabric with keptCoord := some (id.val, l.val, hops) } ∧ SameMemory s t) ∧
    (4 ≤ s.fget Fld.hlFabricStage → s.fget Fld.hlFabricStage ≠ 7 → s.fabric.coordKnown = false → s.flag Fld.hlFabricCoordinator = false →
      Runs (.coord ⟨l, x⟩ id hops) s fun t => SameMemory s t ∧
        if hops = 0 then t.fget Fld.hlFabricStage = 7 ∧ t.fabric = { s.fabric with electing := false }
        else t.fget Fld.hlFabricCoordId = id ∧
          t.fabric = { s.fabric with coordKnown := true, coordLink := some l.val, coordHops := hops, electing := false, heartbeatTick := s.ticks } ∧
          t.fget Fld.hlFabricStage = (if s.fabricReady then 6 else 5))) ∧
  (∀ s : State, s.fabric.electing = true → s.fabric.best = s.ownId → Runs .coordinatorDeclare s fun t =>
    t.flag Fld.hlFabricCoordinator = true ∧ t.fget Fld.hlFabricCoordId = s.ownId ∧ t.fabric.topos = [s.ownTopo] ∧
    t.fabric.coordKnown = true ∧ t.fabric.electing = false ∧ t.fabric.coordLink = none ∧ SameMemory s t) ∧
  (∀ (s : State) (l : LinkId) (c : CtrlSeal) (m : TopoMsg) (x : Topo), s.linkIsUp l = true → s.linkNew l = true → CtrlSound s l c →
    x = ⟨m.id.val, m.partners.map fun p => (p.1.val, p.2.val), m.leaves.map fun p => (p.1.val, p.2.val)⟩ →
    (s.flag Fld.hlFabricCoordinator = true → Runs (.topo ⟨l, c⟩ m) s fun t => SameMemory s t ∧ t.fabric =
      (if s.fabric.computed ∧ s.fabricReady = false then { s.fabric with late := s.fabric.late ++ [x] } else keepTopo x s.fabric)) ∧
    (∀ k, s.flag Fld.hlFabricCoordinator = false → 4 ≤ s.fget Fld.hlFabricStage → s.fget Fld.hlFabricStage ≠ 7 → s.fabric.coordLink = some k →
      Runs (.topo ⟨l, c⟩ m) s fun t => t = (s.took l).after (sendCtrl k (.topo x.id x.partners x.leaves)))) ∧
  (∀ (s : State) (ts : List Topo), s.flag Fld.hlFabricCoordinator = true → s.fabric.computed = false → s.fabric.gathered s.ownId = true →
    ts = s.fabric.served (s.fabric.levels s.ownId) → Runs .routeComputation s fun t => ∃ u : State,
      u.fabric = { s.fabric with computed := true, reported := ts.map (·.id), acks := [s.ownId], routes := applyTable (s.fabric.tableOf (s.fabric.levels s.ownId) ((ts.find? (·.id == s.ownId)).getD { id := s.ownId, partners := [] })) } ∧
      u.regs = s.regs ∧ SameMemory s u ∧
      t = (u.after (forA (ts.filter (·.id != s.ownId)) fun x => fun v => match v.routeTo x.id with
        | some l => sendCtrl l (.routeTable x.id (s.fabric.tableOf (s.fabric.levels s.ownId) x)) v
        | none => [])).after tryReady) ∧
  (∀ (s : State) (l : LinkId) (x : CtrlSeal) (dst : Fin 512) (es : List (Fin 12 × Fin 16)), s.linkIsUp l = true → s.linkNew l = true →
    CtrlSound s l x → Runs (.routeTable ⟨l, x⟩ dst es) s fun t => SameMemory s t ∧
      if dst.val = s.ownId then t.fabric = { s.fabric with routes := applyTable (es.map fun p => (p.1.val, p.2.val)) } ∧
        t = ((s.took l).run [.fabric fun f => { f with routes := applyTable (es.map fun p => (p.1.val, p.2.val)) }]).after
          (match s.fabric.coordLink with | some k => sendCtrl k (.routeAck s.ownId) | none => nothing)
      else t.fabric = s.fabric) ∧
  (∀ (s : State) (l : LinkId) (x : CtrlSeal) (id : Fin 512), s.linkIsUp l = true → s.linkNew l = true → CtrlSound s l x →
    (s.flag Fld.hlFabricCoordinator = true → id.val ∉ s.fabric.acks → Runs (.routeAck ⟨l, x⟩ id) s fun t => ∃ u : State,
      u.fabric = { s.fabric with acks := s.fabric.acks ++ [id.val] } ∧ SameMemory s u ∧ u.outbox = s.outbox ∧ t = u.after tryReady ∧
      (s.fabric.computed = true → s.fabric.reported.all (s.fabric.acks ++ [id.val]).contains = true → t.fabricReady = true)) ∧
    (∀ k, s.flag Fld.hlFabricCoordinator = false → s.fabric.coordLink = some k → Runs (.routeAck ⟨l, x⟩ id) s fun t =>
      t = (s.took l).after (sendCtrl k (.routeAck id)))) ∧
  (∀ (s : State) (l : LinkId) (x : CtrlSeal) (n : Nat), s.linkIsUp l = true → s.linkNew l = true → CtrlSound s l x →
    s.flag Fld.hlFabricCoordinator = false → s.fget Fld.hlFabricStage ≠ 7 → n < 512 →
    ¬(s.fabricReady = true ∧ s.fget Fld.hlFabricModules = n) → Runs (.ready ⟨l, x⟩ n) s fun t =>
      t.fabricReady = true ∧ t.fget Fld.hlFabricModules = n ∧ t.fabric = s.fabric ∧ SameMemory s t) ∧
  (∀ (s : State) (l : LinkId) (x : CtrlSeal) (id : Fin 512), s.linkIsUp l = true → s.linkNew l = true → CtrlSound s l x →
    id.val = s.fget Fld.hlFabricCoordId → s.fabric.coordLink = some l.val → Runs (.heartbeat ⟨l, x⟩ id) s fun t =>
      t.fabric = { s.fabric with heartbeatTick := s.ticks } ∧ SameMemory s t) ∧
  (∀ s : State, s.fabric.coordKnown = true → s.flag Fld.hlFabricCoordinator = false → s.fget Fld.hlFabricStage ≠ 7 →
    Runs .coordinatorLoss s fun t => t.fget Fld.hlFabricStage = 4 ∧ t.fget Fld.hlFabricModules = 0 ∧ SameMemory s t ∧
      t.fabric = { s.fabric with coordKnown := false, coordLink := none, keptCoord := none, keptElect := none, best := s.ownId, bestFp := Config.fingerprint, bestTick := s.ticks, electing := true }) ∧
  (∀ s : State, Runs .ctrlHeartbeatSend s fun t => SameMemory s t ∧ t.fabric = s.fabric ∧
    if s.flag Fld.hlFabricCoordinator then t = s.after (flood s.fabricLinks (.heartbeat s.ownId)) else t = s)

/-- Input power, power-good, power-down, thermal trip, the module resets and hub ready -/
def Obligations.PowerSupplyAndModuleResets : Prop :=
  (∀ (s : State) (n : Nat) (c : Instr), s.flag Fld.pwrStatusPg = false →
    (c = .inputPowerUp n ∧ s.power.pwrEn = true) ∨ (c = .pwrEnHigh n ∧ s.power.input = true) → Runs c s fun t =>
      t = { s with power := { s.power with input := true, pwrEn := true, tripped := false, railsGood := n, rails := min n 7, railFail := if n < 7 then some n else none } }) ∧
  (∀ (s : State) (n : Nat), s.flag Fld.pwrStatusPg = true ∨ s.power.pwrEn = false → Runs (.inputPowerUp n) s fun t => t = { s with power := { s.power with input := true } }) ∧
  (∀ (s : State) (n : Nat), s.flag Fld.pwrStatusPg = true ∨ s.power.input = false → Runs (.pwrEnHigh n) s fun t => t = { s with power := { s.power with pwrEn := true } }) ∧
  (∀ (s : State) (c : Instr), (c = .powerGood ∧ s.flag Fld.pwrStatusPg = false ∧ 7 ≤ s.power.rails ∧ s.power.tripped = false) ∨
      (c = .moduleColdReset ∧ (s.powered = true ∨ s.power.tripped = true)) → Runs c s fun t =>
    t.powered = true ∧ t.power.hubReady = false ∧ t.power.coldReset = true ∧ t.power.rails = 7 ∧ t.flag Fld.pwrStatusEmergency = s.power.throtLow ∧
    (∀ a, a ≠ Reg.pwrStatus → t.rd a = regReset a) ∧ (∀ k : Ctx, t.ctx k = {}) ∧ t.hub = State.reset.hub ∧ t.reqs = [] ∧
    t.sec.bootCount = s.sec.bootCount ∧ t.sec.nvmTop = s.sec.nvmTop ∧ t.sec.nvmLeaf = s.sec.nvmLeaf ∧ t.sec.arb = s.sec.arb ∧
    t.sec.booted = false ∧ t.outbox = s.outbox) ∧
  (∀ s : State, s.flag Fld.pwrStatusPg = true ∨ s.power.rails < 7 ∨ s.power.tripped = true → Runs .powerGood s fun t => t = s) ∧
  (∀ (s : State) (c : Instr), c = .pwrEnLow ∨ c = .inputUndervoltage ∨ c = .inputOvervoltage → Runs c s fun t =>
    t.powered = false ∧ t.power.rails = 0 ∧ t.power.pwrEn = (if c = .pwrEnLow then false else s.power.pwrEn) ∧
    t.power.input = (if c = .pwrEnLow then s.power.input else false) ∧ (∀ k : Ctx, t.ctx k = {}) ∧
    t.sec.bootCount = s.sec.bootCount ∧ t.sec.nvmTop = s.sec.nvmTop ∧ t.sec.arb = s.sec.arb ∧ t.sec.booted = false ∧ t.outbox = s.outbox) ∧
  (∀ s : State, s.power.rails ≠ 0 → Runs .thermalTrip s fun t => t.powered = false ∧ t.power.rails = 3 ∧ t.power.tripped = true ∧
    t.sec.nvmTop = s.sec.nvmTop ∧ t.sec.booted = false ∧ (∀ k : Ctx, t.ctx k = {})) ∧
  (∀ s : State, s.powered = true → Runs .hubWarmReset s fun t => t.power.hubReady = false ∧ t.power.coldReset = false ∧
    (∀ k : Ctx, t.ctxState k = 0 ∧ (t.ctx k).keyPrivate = 0 ∧ (t.ctx k).keyContent = 0) ∧ t.xlt.retired = s.xlt.retired ∧
    (s.Canonical → t.rd Reg.secProt = s.rd Reg.secProt ∧ (s.ctxEntry 0 + 1024 ≤ Config.fastEnd →
      (∀ a, a < s.ctxEntry 0 ∨ s.ctxEntry 0 + 1024 ≤ a → a < Config.fastEnd → t.peek a = s.peek a) ∧
      (s.xlt.retired = [] → (∀ a, s.markAt a = .sound) → ∀ k : Ctx, s.ctxState k ≠ 0 →
        t.peekN (s.ctxEntry k + 8) 24 = zeros 4 ++ leBytes 4 (s.ctx k).generation ++ zeros 16))) ∧
    t.hub = State.reset.hub ∧ t.reqs = []) ∧
  (∀ s : State, s.powered = true → s.power.hubReady = false → s.sec.booted = true → s.sec.held = false → Runs .hubReady s fun t =>
    t.power.hubReady = true ∧ t.power.rails = min s.power.railsGood 21 ∧
    t.power.railFail = (if s.power.railsGood < 21 then some s.power.railsGood else none) ∧
    (21 ≤ s.power.railsGood → t.flag Fld.poolMarchStatusBusy = true ∧
      t.march = some { dies := 0xF, preserve := !s.power.coldReset, startUp := true, since := s.ticks }) ∧ t.fget Fld.pwrStrapFid = Config.fidPins.toNat ∧ t.ownId = Config.fidPins.toNat ∧
    t.flag Fld.pwrStrapFidErr = !pinsOdd ∧ SameMemory s t ∧
    (s.port.perst = false → t.fget Fld.cxlLinkState = 1 ∧ t.fget (Fld.clkDomState 11) = 2) ∧
    (pinsOdd = true → ∀ l : LinkId, s.flag (Fld.hlLctrlDisable l) = false → t.linkState l = 1) ∧
    (pinsOdd = false → ∀ l : LinkId, t.linkState l = s.linkState l)) ∧
  (∀ s : State, s.powered = false ∨ s.power.hubReady = true ∨ s.sec.booted = false ∨ s.sec.held = true → Runs .hubReady s fun t => t = s)

/-- Power samples, the emergency limit and thermal throttling -/
def Obligations.Throttling : Prop :=
  (∀ (s : State) (w k : Nat), s.powered = true → Runs (.powerSample w k) s fun t => SameMemory s t ∧
    t.power.samples = (w :: s.power.samples).take 100000 ∧ t.flag Fld.pwrStatusExcursion = decide (s.fget Fld.pwrLimitTdpW < w) ∧
    t.power.overSamples = (if s.fget Fld.pwrLimitTdpW < w ∧ 4000 ≤ s.power.quietSamples then s.power.overSamples + 1 else 0) ∧
    t.power.quietSamples = (if s.fget Fld.pwrLimitTdpW < w then if 4000 ≤ s.power.quietSamples then 4000 else 0
      else if s.power.overSamples = 0 then min 4000 (s.power.quietSamples + 1) else 1) ∧
    SameRegs [Reg.pwrStatus, Reg.pwrCnt] s t ∧
    if s.sampleBreaks w = true then t.fget Fld.pwrStatusRatio = max 1 (s.fget Fld.pwrStatusRatio - max 1 k) ∧ t.flag Fld.pwrStatusPower = true ∧
      (s.flag Fld.pwrStatusPower = false → Counted Fld.pwrCntPower s t ∧ (s.power.lastEvent = none → Sends Vec.power s → t.outbox = s.outbox ++ [.msix Vec.power]))
    else t.fget Fld.pwrStatusRatio = s.fget Fld.pwrStatusRatio ∧ t.flag Fld.pwrStatusPower = s.flag Fld.pwrStatusPower ∧ t.outbox = s.outbox) ∧
  (∀ s : State, s.powered = true → s.belowLimit = true → s.flag Fld.pwrStatusThermal = false → Runs .ratioRaiseTick s fun t =>
    t.fget Fld.pwrStatusRatio = min 32 (s.fget Fld.pwrStatusRatio + 1) ∧ SameRegs [Reg.pwrStatus] s t ∧ SameMemory s t ∧
    t.flag Fld.pwrStatusPower = (s.flag Fld.pwrStatusPower && decide (s.fget Fld.pwrStatusRatio < 31))) ∧
  (∀ s : State, s.powered = false ∨ s.belowLimit = false ∨ s.flag Fld.pwrStatusThermal = true → Runs .ratioRaiseTick s fun t => t = s) ∧
  (∀ (s : State) (r : Fin 33), s.powered = true → Runs (.throtNFall r) s fun t => t.power.throtLow = true ∧
    t.flag Fld.pwrStatusEmergency = true ∧ t.fget Fld.pwrStatusRatio = min (s.fget Fld.pwrStatusRatio) (max 1 r.val) ∧
    SameRegs [Reg.pwrStatus, Reg.pwrCnt] s t ∧ SameMemory s t ∧ Counted Fld.pwrCntEmergency s t) ∧
  (∀ (s : State) (r : Fin 33), s.powered = false → Runs (.throtNFall r) s fun t => t = { s with power := { s.power with throtLow := true } }) ∧
  (∀ (s : State) (w k : Nat), s.powered = false → Runs (.powerSample w k) s fun t => t = s) ∧
  (∀ (s : State) (w : Nat) (r : Fin 33), s.powered = false → Runs (.thermalThrottle w r) s fun t => t = s) ∧
  (∀ s : State, Runs .throtNRise s fun t => t = { s with power := { s.power with throtLow := false } }) ∧
  (∀ s : State, Runs .emergencyRelease s fun t => if s.power.throtLow = true then t = s
    else t.flag Fld.pwrStatusEmergency = false ∧ t.fget Fld.pwrStatusRatio = s.fget Fld.pwrStatusRatio ∧ SameRegs [Reg.pwrStatus] s t ∧
      SameMemory s t) ∧
  (∀ (s : State) (c : Nat) (r : Fin 33), s.powered = true → Runs (.thermalThrottle c r) s fun t => SameMemory s t ∧
    SameRegs [Reg.pwrStatus, Reg.pwrCnt] s t ∧ t.fget Fld.pwrStatusTmaxC = c % 256 ∧
    if s.fget Fld.pwrThermThrottleC ≤ c then t.flag Fld.pwrStatusThermal = true ∧
      t.fget Fld.pwrStatusRatio = min (s.fget Fld.pwrStatusRatio) (max 1 r.val)
    else t.fget Fld.pwrStatusRatio = s.fget Fld.pwrStatusRatio ∧ t.flag Fld.pwrStatusThermal =
      (s.flag Fld.pwrStatusThermal && decide (s.fget Fld.pwrThermThrottleC < c + s.fget Fld.pwrThermHysteresisC))) ∧
  (∀ (s : State) (k : Fin 6) (c : Nat), Runs (.hbmHotRefresh k c) s fun t => t.regs = s.regs ∧ SameMemory s t ∧
    (k.val ∈ t.power.hotStacks ↔ 85 ≤ c) ∧ (∀ j, j ≠ k.val → (j ∈ t.power.hotStacks ↔ j ∈ s.power.hotStacks)))

/-- Clock domains, the power states of cores, and the targets of clusters -/
def Obligations.ClocksClustersAndCores : Prop :=
  (∀ (s : State) (d : Fin 18), Runs (.domainStart d) s fun t => SameMemory s t ∧
    if s.fget (Fld.clkDomState d) = 2 then t = s
    else t.fget (Fld.clkDomState d) = 2 ∧ SameRegs [Reg.clkDom d] s t ∧
      t.fget (Fld.clkDomStarts d) = satAdd 32 (s.fget (Fld.clkDomStarts d)) 1) ∧
  (∀ (s : State) (d : Fin 18), Runs (.domainStop d) s fun t =>
    if s.fget (Fld.clkDomState d) = 2 ∧ s.mayStop d = true then t.fget (Fld.clkDomState d) = 0 ∧ SameRegs [Reg.clkDom d] s t ∧ SameMemory s t
    else t = s) ∧
  (∀ (s : State) (n : CoreId), Runs (.coreNap n) s fun t =>
    if s.coreIdle n = true ∧ s.fget Fld.pwrCorePolNapUs ≠ 0 then t.fget (Fld.coreStatePower n) = 2 ∧ SameRegs [Reg.coreState n] s t ∧
      SameMemory s t ∧ t.cores = s.cores
    else t = s) ∧
  (∀ (s : State) (n : CoreId), s.fget (Fld.coreStatePower n) = 2 ∨ (s.fget (Fld.coreStatePower n) = 3 ∧
      s.fget (Fld.pwrClusterTarget (clusterOf n)) = 0 ∧ s.fget (Fld.pwrClusterCurrent (clusterOf n)) ≠ 2 ∧ s.inService (clusterOf n) = true ∧
      n.val ∉ s.flt.noCore) → Runs (.coreWake n) s fun t => t.fget (Fld.coreStatePower n) = 0 ∧
    SameRegs [Reg.coreState n] s t ∧ (t.core n).mustClear = false ∧
    if (s.core n).mustClear = true then SameOutside (galleyOf n) Config.galleyBytes s t ∧
      (∀ i, i < Config.galleyBytes → t.peek (galleyOf n + i) = 0) ∧ (t.core n).acc = [] ∧ (t.core n).weights = []
    else SameMemory s t ∧ t.cores = s.cores) ∧
  (∀ (s : State) (n : CoreId), s.fget (Fld.coreStatePower n) ≠ 2 → s.fget (Fld.coreStatePower n) ≠ 3 ∨ s.fget (Fld.pwrClusterCurrent (clusterOf n)) = 2 →
    Runs (.coreWake n) s fun t => t = s) ∧
  (∀ (s : State) (k : ClusterId) (c : Instr), c = .clusterTargetOn k ∨ c = .clusterTargetGated k ∨ c = .clusterTargetOff k →
    s.fget (Fld.pwrClusterStatus k) = 3 → Runs c s fun t => t = s) ∧
  (∀ (s : State) (k : ClusterId) (c : Instr) (g : Nat), s.bound = true → s.fget (Fld.pwrClusterStatus k) ≠ 3 →
    (c = .clusterTargetOn k ∧ g = 0) ∨ (c = .clusterTargetGated k ∧ g = 1) → Runs c s fun t =>
      t.fget (Fld.pwrClusterTarget k) = g ∧
      if s.clusterShutting k = true then t.fget (Fld.pwrClusterStatus k) = 2 ∧ (t.cluster k).pendingOn = true ∧
        t.fget (Fld.pwrClusterCurrent k) = s.fget (Fld.pwrClusterCurrent k) ∧ SameRegs [Reg.pwrCluster k] s t
      else if s.fget (Fld.pwrClusterCurrent k) = 2 then t.fget (Fld.pwrClusterCurrent k) = 0 ∧ t.fget (Fld.pwrClusterStatus k) = g ∧
        (∀ n ∈ coresOf k, n ∉ s.flt.noCore → t.fget (Fld.coreStatePower n) = 0)
      else g = 0 → t.fget (Fld.pwrClusterStatus k) = s.runStatus k 0 ∧ SameMemory s t ∧
        SameRegs [Reg.pwrCluster k, Reg.clkDom (k / 16), Reg.clkDom (4 + k / 16)] s t ∧
        t.fget (Fld.pwrClusterCurrent k) = (if (s.cluster k).taken then 0 else s.fget (Fld.pwrClusterCurrent k))) ∧
  (∀ (s : State) (k : ClusterId), s.bound = true → s.fget (Fld.pwrClusterStatus k) ≠ 3 → s.clusterShutting k = false →
    s.fget (Fld.pwrClusterCurrent k) ≠ 2 → Runs (.clusterTargetGated k) s fun t => (t.cluster k).queue = [] ∧
      t.hub.queue.length = s.hub.queue.length + (s.cluster k).queue.length ∧ SameMemory s t ∧
      t.fget (Fld.pwrClusterStatus k) = (if s.fget (Fld.pwrClusterCurrent k) = 1 then s.fget (Fld.pwrClusterStatus k) else s.runStatus k 1)) ∧
  (∀ (s : State) (k : ClusterId), s.bound = true → s.fget (Fld.pwrClusterStatus k) ≠ 3 → Runs (.clusterTargetOff k) s fun t =>
    t.fget (Fld.pwrClusterTarget k) = 2 ∧ t.fget (Fld.pwrClusterCurrent k) = s.fget (Fld.pwrClusterCurrent k) ∧
    if (s.cluster k).pendingOn = true then t.fget (Fld.pwrClusterStatus k) = 1 ∧ (t.cluster k).pendingOn = false ∧ SameMemory s t
    else if s.fget (Fld.pwrClusterCurrent k) = 2 then t.fget (Fld.pwrClusterStatus k) = s.fget (Fld.pwrClusterStatus k) ∧ SameMemory s t
    else t.fget (Fld.pwrClusterStatus k) = 1 ∧ (t.cluster k).queue = []) ∧
  (∀ (s : State) (k : ClusterId), s.fget (Fld.pwrClusterTarget k) = 1 → s.fget (Fld.pwrClusterCurrent k) = 0 → s.clusterShutting k = false →
    (coresOf k).all (fun n => (s.core n).queue.isEmpty) = true → Runs (.clusterClockGated k) s fun t =>
      t.fget (Fld.pwrClusterCurrent k) = 1 ∧ t.fget (Fld.pwrClusterStatus k) = 0 ∧ SameRegs [Reg.pwrCluster k] s t ∧ SameMemory s t) ∧
  (∀ (s : State) (k : ClusterId), s.fget (Fld.pwrClusterTarget k) ≠ 1 ∨ s.fget (Fld.pwrClusterCurrent k) ≠ 0 ∨ s.clusterShutting k = true →
    Runs (.clusterClockGated k) s fun t => t = s) ∧
  (∀ (s : State) (k : ClusterId), s.clusterShutting k = false → Runs (.clusterShutdownComplete k) s fun t => t = s) ∧
  (∀ (s : State) (k : ClusterId), s.clusterShutting k = true → Runs (.clusterShutdownComplete k) s fun t =>
    (t.cluster k).pendingOn = false ∧ (t.cluster k).ctx = none ∧ (t.cluster k).taken = false ∧
    t.fget (Fld.pwrClusterCurrent k) = (if (s.cluster k).pendingOn then 0 else 2) ∧
    (∀ c ∈ coresOf k, (s.cluster k).pendingOn = false → t.fget (Fld.coreStatePower c) = 3) ∧
    t.fget (Fld.pwrClusterStatus k) = (if (s.cluster k).pendingOn then b2n (s.fget (Fld.pwrClusterTarget k) == 1) else 0))

/-- Core, cluster, die, context and link resets, their end, and the start-up self-test -/
def Obligations.PartialResetsAndSelfTest : Prop :=
  (∀ (s : State) (c : Instr) (k : Nat) (x : BitVec 11), s.bound = true →
    (c = .coreReset x ∧ k = 1) ∨ (c = .clusterReset x ∧ k = 2) ∨ (c = .dieReset x ∧ k = 3) ∨ (c = .contextReset x ∧ k = 4) ∨
      (c = .linkReset x ∧ k = 5) →
    (s.power.hubReady = false ∨ s.resetTarget k x.toNat = false → Runs c s fun t => t.fget Fld.pwrResetStatusRefused = 1 ∧
      t = s.run [.fld Fld.pwrResetStatusRefused 1]) ∧
    (s.power.hubReady = true → s.resetTarget k x.toNat = true →
      (s.flag Fld.pwrResetStatusBusy = false ∨ scopeInside (s.fget Fld.pwrResetStatusKind) (s.fget Fld.pwrResetStatusTarget) k x.toNat = true ∧
          scopeInside k x.toNat (s.fget Fld.pwrResetStatusKind) (s.fget Fld.pwrResetStatusTarget) = false) →
      Runs c s fun t => ∃ u : State, u.fget Fld.pwrResetStatusBusy = 1 ∧ u.fget Fld.pwrResetStatusKind = k ∧
        u.fget Fld.pwrResetStatusTarget = x.toNat ∧ u.fget Fld.secStatusLastReset = k % 2 ^ Fld.secStatusLastReset.width ∧
        SameMemory s u ∧ SameRegs [Reg.pwrResetStatus, Fld.secResetgenCount.addr, Reg.secStatus] s u ∧
        t = u.after (if k = 1 then resetCore x.toNat else if k = 2 then resetCluster x.toNat else if k = 3 then resetDie x.toNat
          else if k = 4 then resetContext x.toNat else resetLink x.toNat)) ∧
    (s.power.hubReady = true → s.resetTarget k x.toNat = true → s.flag Fld.pwrResetStatusBusy = true →
      scopeInside k x.toNat (s.fget Fld.pwrResetStatusKind) (s.fget Fld.pwrResetStatusTarget) = true →
      Runs c s fun t => t = s.run [.fld Fld.pwrResetStatusAbsorbed 1]) ∧
    (s.power.hubReady = true → s.resetTarget k x.toNat = true → s.flag Fld.pwrResetStatusBusy = true →
      scopeInside k x.toNat (s.fget Fld.pwrResetStatusKind) (s.fget Fld.pwrResetStatusTarget) = false →
      scopeInside (s.fget Fld.pwrResetStatusKind) (s.fget Fld.pwrResetStatusTarget) k x.toNat = false →
      Runs c s fun t => t = s.run [.fld Fld.pwrResetStatusRefused 1])) ∧
  (∀ (s : State) (x : BitVec 11), s.bound = true → s.power.hubReady = true → s.flag Fld.pwrResetStatusBusy = false →
    Runs (.coreReset x) s fun t => (∀ i, i < Config.galleyBytes → t.peek (galleyOf x.toNat + i) = 0) ∧ (t.core x.toNat).acc = [] ∧
      (t.core x.toNat).queue = []) ∧
  (∀ (s : State) (x : BitVec 11), s.bound = true → s.power.hubReady = true → s.flag Fld.pwrResetStatusBusy = false → x.toNat < 64 →
    Runs (.clusterReset x) s fun t => (t.cluster x.toNat).queue = [] ∧ (t.cluster x.toNat).expBufs = [] ∧ (t.cluster x.toNat).pendingOn = false ∧
      ∀ c ∈ coresOf x.toNat, (t.core c).queue = [] ∧ (t.core c).acc = [] ∧ ∀ i, i < Config.galleyBytes → t.peek (galleyOf c + i) = 0) ∧
  (∀ (s : State) (k : Nat), k = s.fget Fld.pwrResetStatusTarget / 32 → Runs .resetComplete s fun t => SameMemory s t ∧
    if s.flag Fld.pwrResetStatusBusy then t.fget Fld.pwrResetStatusBusy = 0 ∧ t.fget Fld.pwrResetStatusDone = 1 ∧
      if s.fget Fld.pwrResetStatusKind = 1 ∧ s.fget (Fld.pwrClusterStatus k) = 2 ∧ (s.cluster k).pendingOn = false then
        t.fget (Fld.pwrClusterStatus k) = b2n (s.fget (Fld.pwrClusterTarget k) == 1 && s.fget (Fld.pwrClusterCurrent k) == 0) ∧
        SameRegs [Reg.pwrResetStatus, Reg.pwrCluster k] s t
      else SameRegs [Reg.pwrResetStatus] s t
    else t = s) ∧
  (∀ (s : State) (slots : List (Fin 64 × Fin 33)) (banks : List BankId), s.power.hubReady = true → 21 ≤ s.power.rails →
    s.fget Fld.hlFabricStage = 0 → Runs (.selfTestComplete slots banks) s fun t => ∃ u : State, u.fget Fld.hlFabricStage = 1 ∧
      (∀ k : ClusterId, (∀ p ∈ slots, p.1.val ≠ k.val) → s.fget (Fld.pwrClusterStatus k) ≠ 3 → u.fget (Fld.pwrClusterTarget k) = 0) ∧
      (∀ (k : ClusterId) (i j : Fin 33), i ≠ j → (k, i) ∈ slots → (k, j) ∈ slots → u.fget (Fld.fltOutClusters.item k) = 1 ∧
        u.fget (Fld.pwrClusterStatus k) = 3 ∧ k.val * 33 + i.val ∈ u.flt.failed) ∧
      (∀ (k : ClusterId) (i : Fin 33), (k, i) ∈ slots → (∀ p ∈ slots, p.1 = k → p.2 = i) → i.val ≠ 32 →
        u.fget (Fld.coreIdPhysSlot (k * 32 + i)) = 32 ∧ u.fget (Fld.coreIdSpareActive (k * 32 + i)) = 1 ∧ k.val * 33 + i.val ∈ u.flt.failed) ∧
      ((∀ m, s.march = some m → m.startUp = true → m.dies = 0xF) → ∀ b ∈ banks, u.flag (Fld.poolStateFailed b) = true) ∧
      ((s.march.map (·.startUp)) = some true → u.march = none ∧ u.fget Fld.poolMarchStatusDone = 1) ∧
      t = (u.after basicBelow).after stageReview) ∧
  (∀ (s : State) (slots : List (Fin 64 × Fin 33)) (banks : List BankId), s.power.hubReady = false ∨ s.power.rails < 21 ∨
    s.fget Fld.hlFabricStage ≠ 0 → Runs (.selfTestComplete slots banks) s fun t => t = s)

/-- A failed slot of a cluster in service loses its work and its number, and the spare is queued to take over, or the removal of the cluster is decided; in BASIC mode it is only recorded, and a slot already gone changes nothing. The running takeover clears the galley of the spare; a spare that passes its test takes the number with a record, one that fails is recorded and its cluster removed. Faulty cluster logic resets the cluster, within 1 s again removes it. A removal that runs leaves the cluster out of service; without one, or without a takeover that is awake, nothing happens. A fault of the die fabric is recorded and resets the die, within 1 s again removes its clusters. -/
def Obligations.SlotClusterAndDieFaults : Prop :=
  (∀ (s : State) (n : CoreId) (d : Fin 4), s.inService (clusterOf n) = true → n.val ∉ s.flt.noCore →
    (s.basic = true → Runs (.slotFailure n d) s fun t => t = s.after (faultRecord 0x03 0 0xFF n (max 1 d.val) (s.fget (Fld.coreIdPhysSlot n)) 0 false)) ∧
    (s.basic = false → Runs (.slotFailure n d) s fun t => ∃ u : State, (u.core n).queue = [] ∧ u.flt.noCore = n.val :: s.flt.noCore ∧
      u.flt.failed = (clusterOf n * 33 + s.fget (Fld.coreIdPhysSlot n)) :: s.flt.failed ∧ u.fget (Fld.coreStatePower n) = 3 ∧
      t = u.after (if s.spareFree (clusterOf n) then queueRecovery (.takeover n (max 1 d.val) (s.fget (Fld.coreIdPhysSlot n)))
        else decideRemoval (clusterOf n) (if s.flt.failed.contains (clusterOf n * 33 + 32) then 2 else 1)))) ∧
  (∀ (s : State) (n : CoreId) (d : Fin 4), s.inService (clusterOf n) = false ∨ n.val ∈ s.flt.noCore → Runs (.slotFailure n d) s fun t => t = s) ∧
  (∀ (s : State) (n : CoreId), Runs (.hangDetected n false) s fun t =>
    if (s.core n).queue = [] then t = s else t = s.after (slotFails n 2)) ∧
  (∀ (s : State) (n : CoreId), Runs (.hangDetected n true) s fun t =>
    if (s.cluster (clusterOf n)).queue = [] then t = s else t = s.after (clusterLogic (clusterOf n))) ∧
  (∀ (s : State) (n : CoreId) (d p : Nat), s.flt.running = some (.takeover n d p) → s.flt.takeoverAwake = false → Runs .spareTakeover s fun t =>
    t.flt = { s.flt with takeoverAwake := true } ∧ (∀ i, i < Config.galleyBytes → t.peek (galleyOf n + i) = 0) ∧
    SameOutside (galleyOf n) Config.galleyBytes s t ∧ t.regs = s.regs) ∧
  (∀ (s : State) (n : CoreId) (d p : Nat), s.flt.running = some (.takeover n d p) → s.flt.takeoverAwake = true →
    (Runs (.spareSelfTestComplete true) s fun t => t.fget (Fld.coreIdPhysSlot n) = 32 ∧ t.fget (Fld.coreIdSpareActive n) = 1 ∧
      t.fget (Fld.fltSpareClusters.item (clusterOf n)) = 1 ∧ n.val ∉ t.flt.noCore ∧ t.flt.running = s.flt.waiting.head? ∧
      t.flt.waiting = s.flt.waiting.drop 1 ∧ SameMemory s t ∧
      t.fget (Fld.coreStatePower n) = if s.fget (Fld.pwrClusterCurrent (clusterOf n)) = 2 then 3 else 0) ∧
    (Runs (.spareSelfTestComplete false) s fun t => ∃ u : State, u.flt.failed = (clusterOf n * 33 + 32) :: s.flt.failed ∧
      u.flt.noCore = s.flt.noCore ∧ SameMemory s u ∧ t = u.after (decideRemoval (clusterOf n) 2))) ∧
  (∀ (s : State) (k : ClusterId), Runs (.clusterLogicFault k) s fun t =>
    if s.inService k = false then t = s
    else if s.basic = true then t = s.after (faultRecord 0x04 0 0xFF k 3 s.servedClusters 0 false)
    else if s.within1s (tabGet (fun _ => 0) s.flt.clusterFault k) = true then t = s.after (decideRemoval k 3)
    else ∃ u : State, tabGet (fun _ => 0) u.flt.clusterFault k = s.ticks + 1 ∧ u.regs = s.regs ∧ SameMemory s u ∧
      t = u.after (resetRequest 2 k)) ∧
  (∀ (s : State) (k : ClusterId) (d : Nat), s.flt.running = some (.removal k d) → Runs .clusterRemoval s fun t =>
    t.fget (Fld.fltOutClusters.item k) = 1 ∧ t.fget (Fld.pwrClusterStatus k) = 3 ∧ t.fget (Fld.pwrClusterCurrent k) = 2 ∧
    (t.cluster k).ctx = none ∧ t = (s.after nextRecovery).after (removeCluster k d)) ∧
  (∀ s : State, (∀ k d, s.flt.running ≠ some (.removal k d)) → Runs .clusterRemoval s fun t => t = s) ∧
  (∀ (s : State) (b : Bool), (∀ n d p, s.flt.running ≠ some (.takeover n d p)) ∨ s.flt.takeoverAwake = false → Runs (.spareSelfTestComplete b) s fun t => t = s) ∧
  (∀ (s : State) (d : DieId) (b : Bool), Runs (.dieFabricFault d b) s fun t =>
    if s.basic = true then t = s.after (faultRecord 0x05 0 0xFF d (1 + b2n b) 0 0 false)
    else if s.within1s (tabGet (fun _ => 0) s.flt.dieFault d) = true then
      t = (s.after (faultRecord 0x05 0 0xFF d (1 + b2n b) 1 0 false)).after (removeDie d)
    else ∃ u : State, tabGet (fun _ => 0) u.flt.dieFault d = s.ticks + 1 ∧ SameRegs [Reg.hubD2dCnt d] s u ∧ SameMemory s u ∧
      t = (u.after (faultRecord 0x05 10 0xFF d (1 + b2n b) 1 0 false)).after (resetRequest 3 d))

/-- The oldest queued fault record is written to the free entry of the fault ring, the count follows it, and vector 1 is raised; with the ring full or off nothing happens. A sampling unit that fails its check gives its job back and is out; with both out the module is in BASIC mode. A mismatch of the engine copies ends every period, and with one copy alone is BASIC mode; a copy that fails its check is out, and both out are BASIC mode. A repair that starts is recorded and asks for its golden line; the line is written whole, where it can be, and verified; a clean read-back ends the repair, a poisoned one tries again, after three attempts it stands in STUCK. -/
def Obligations.FaultRecordsEnginesAndRepair : Prop :=
  (∀ (s : State) (r : FaultRec) (rest : List FaultRec) (a b : Nat), s.flt.queue = r :: rest → s.flag Fld.fltRingEnable = true →
    countDiff (s.devRing 4).produced (s.devRing 4).head < ringEntries (s.fget Fld.fltRingSizeCode) → b = s.fget Fld.fltRingBase * 64 →
    a = ringSlot b (s.fget Fld.fltRingSizeCode) 32 (s.devRing 4).produced → s.outside a = false → s.outside b = false → NoFinal s → Runs .faultRecordWrite s fun t =>
      t.flt.queue = rest ∧ t.flt.lostPending = false ∧ (t.devRing 4).produced = countUp (s.devRing 4).produced ∧
      (Sends Vec.faults s → t.outbox = s.outbox ++ [.msix Vec.faults]) ∧ SameRegs [Reg.fltCnt] s t ∧
      (∀ x, x / 64 ≠ a / 64 → x / 64 ≠ b / 64 → t.peek x = s.peek x) ∧
      (s.poisoned a = false → s.retired a = false → t.seenN 0 a 32 = ({ r with lostBefore := s.flt.lostPending } : FaultRec).bytes) ∧
      (s.poisoned b = false → s.retired b = false → t.seenN 0 (b + 4) 4 = leBytes 4 (countUp (s.devRing 4).produced))) ∧
  (∀ s : State, s.flt.queue = [] ∨ s.flag Fld.fltRingEnable = false ∨
    ringEntries (s.fget Fld.fltRingSizeCode) ≤ countDiff (s.devRing 4).produced (s.devRing 4).head → Runs .faultRecordWrite s fun t => t = s) ∧
  (∀ (s : State) (u : Fin 2), s.flag (Fld.smpStatusFailed.item u) = false → s.basic = false → Runs (.samplerSelfCheckFail u) s fun t =>
    (s.flag (Fld.smpStatusFailed.item (1 - u.val)) = true → t.basic = true) ∧
    (s.flag (Fld.smpStatusFailed.item (1 - u.val)) = false → ∃ v : State, v.flag (Fld.smpStatusFailed.item u) = true ∧
      v.flag (Fld.smpStatusBusy.item u) = false ∧ v.sampler.unit u = none ∧ v.sampler.queue = (s.sampler.unit u).toList ++ s.sampler.queue ∧
      SameRegs [Reg.smpStatus] s v ∧ SameMemory s v ∧ t = v.after (faultRecord 0x06 0 0xFF u 1 0 0 false))) ∧
  (∀ s : State, s.basic = false →
    (s.flag Fld.reqStatusSmDegraded = true ∨ s.within1s s.flt.mismatch = true → Runs .stateMachineMismatch s fun t => t.basic = true) ∧
    (s.flag Fld.reqStatusSmDegraded = false → s.within1s s.flt.mismatch = false → Runs .stateMachineMismatch s fun t => ∃ u : State,
      u.flt.mismatch = s.ticks + 1 ∧ SameMemory s u ∧ u.periods = s.periods ∧ t = u.after endPeriods)) ∧
  (∀ (s : State) (c : Fin 2), s.basic = false → c.val ∉ s.flt.copyOut →
    (s.flag Fld.reqStatusSmDegraded = true → Runs (.stateMachineSelfCheckFail c) s fun t => t.basic = true) ∧
    (s.flag Fld.reqStatusSmDegraded = false → Runs (.stateMachineSelfCheckFail c) s fun t => t.flt.copyOut = c.val :: s.flt.copyOut ∧
      t.flag Fld.reqStatusSmDegraded = true ∧ SameMemory s t ∧ t.periods = s.periods)) ∧
  (∀ (s : State) (c : Fin 2), c.val ∈ s.flt.copyOut → Runs (.stateMachineSelfCheckFail c) s fun t => t = s) ∧
  (∀ (s : State) (r : Repair), s.flt.repairWait = [] → s.flt.repairs.find? (·.state == .detected) = some r → Runs .repairStart s fun t => ∃ u : State,
    u.flt.repairs = modFirst (·.line == r.line) (fun x => { x with state := .refetch }) s.flt.repairs ∧ u.regs = s.regs ∧ SameMemory s u ∧
    t = (u.after (repairRecords r 6)).after (if r.inHost then askHost (.goldenLine r.line) r.goldenAddr 64 else nothing)) ∧
  (∀ (s : State) (line : Nat) (r : Repair) (g : HostResult),
    s.flt.repairs.find? (fun r => r.line == line && r.state == .refetch) = some r → Runs (.goldenLineReadDone line g) s fun t => ∃ u : State,
      SameMemory s u ∧ u.flt = s.flt ∧ match s.goldenOf r g with
        | none => t = u.after (endRepair r 9)
        | some b => SameOutside (line * 64) 64 s t ∧ (line * 64 < Config.fastEnd → s.retired (line * 64) = false → NoFinal s → b.length = 64 →
            t.peekN (line * 64) 64 = b ∧ t.poisoned (line * 64) = false) ∧ t.flt.repairs =
            modFirst (·.line == line) (fun x => { x with golden := b, state := .verify, attempts := x.attempts + 1 }) s.flt.repairs) ∧
  (∀ (s : State) (line : Nat) (r : Repair), s.flt.repairs.find? (fun r => r.line == line && r.state == .verify) = some r →
    (Runs (.repairReadback line false) s fun t => t.flt.repairs = s.flt.repairs.filter (·.line != line) ∧ SameMemory s t) ∧
    (Runs (.repairReadback line true) s fun t => SameMemory s t ∧ t.poisoned (line * 64) = true ∧
      t.flt.repairs = modFirst (·.line == line) (fun x => { x with state := if r.attempts < 3 then .refetch else .stuck }) s.flt.repairs))
end

