-- ==== Sys2Proof/Laws/State.lean ====
section
/-! SUPPORT. What each primitive update leaves of each field of the state: one lemma for each update and field, true by
computation. No later proof unfolds a record update. -/

namespace Sys2Proof.Machine

namespace State

set_option Elab.async false

variable (s : State)

/-! ## Runs of updates and actions -/

@[simp] theorem run_nil : s.run [] = s := rfl
@[simp] theorem run_cons (u : Upd) (us : List Upd) : s.run (u :: us) = (s.apply u).run us := rfl
@[simp] theorem run_append (us vs : List Upd) : s.run (us ++ vs) = (s.run us).run vs := by
  simp [State.run, List.foldl_append]
@[simp] theorem after_nothing : s.after nothing = s := rfl
@[simp] theorem after_act (us : List Upd) : s.after (act us) = s.run us := rfl
@[simp] theorem after_seqA_nil : s.after (seqA []) = s := rfl
@[simp] theorem after_seqA_cons (a : Act) (as : List Act) :
    s.after (seqA (a :: as)) = (s.after a).after (seqA as) := by
  simp [State.after, seqA]
@[simp] theorem after_forA_nil {α : Type} (f : α → Act) : s.after (forA [] f) = s := rfl
@[simp] theorem after_forA_cons {α : Type} (x : α) (xs : List α) (f : α → Act) :
    s.after (forA (x :: xs) f) = (s.after (f x)).after (forA xs f) := by
  simp [forA]
theorem after_whenA (c : State → Bool) (a : Act) :
    s.after (whenA c a) = if c s then s.after a else s := by
  unfold State.after whenA; split <;> rfl
@[simp] theorem done_eq (a : Act) : done a s = .next (s.after a) := rfl

@[simp] theorem apply_fld_pending f v : (s.apply (.fld f v)).pending = s.pending := rfl
@[simp] theorem apply_fld_outbox f v : (s.apply (.fld f v)).outbox = s.outbox := rfl
@[simp] theorem apply_fld_ticks f v : (s.apply (.fld f v)).ticks = s.ticks := rfl
@[simp] theorem apply_fld_free f v : (s.apply (.fld f v)).free = s.free := rfl
@[simp] theorem apply_fld_mem f v : (s.apply (.fld f v)).mem = s.mem := rfl
@[simp] theorem apply_fld_undef f v : (s.apply (.fld f v)).undef = s.undef := rfl
@[simp] theorem apply_fld_marks f v : (s.apply (.fld f v)).marks = s.marks := rfl
@[simp] theorem apply_fld_lineKey f v : (s.apply (.fld f v)).lineKey = s.lineKey := rfl
@[simp] theorem apply_fld_loader f v : (s.apply (.fld f v)).loader = s.loader := rfl
@[simp] theorem apply_fld_ctxs f v : (s.apply (.fld f v)).ctxs = s.ctxs := rfl
@[simp] theorem apply_fld_windows f v : (s.apply (.fld f v)).windows = s.windows := rfl
@[simp] theorem apply_fld_hub f v : (s.apply (.fld f v)).hub = s.hub := rfl
@[simp] theorem apply_fld_clusters f v : (s.apply (.fld f v)).clusters = s.clusters := rfl
@[simp] theorem apply_fld_cores f v : (s.apply (.fld f v)).cores = s.cores := rfl
@[simp] theorem apply_fld_srCtr f v : (s.apply (.fld f v)).srCtr = s.srCtr := rfl
@[simp] theorem apply_fld_rings f v : (s.apply (.fld f v)).rings = s.rings := rfl
@[simp] theorem apply_fld_issues f v : (s.apply (.fld f v)).issues = s.issues := rfl
@[simp] theorem apply_fld_reqs f v : (s.apply (.fld f v)).reqs = s.reqs := rfl
@[simp] theorem apply_fld_stampNext f v : (s.apply (.fld f v)).stampNext = s.stampNext := rfl
@[simp] theorem apply_fld_periods f v : (s.apply (.fld f v)).periods = s.periods := rfl
@[simp] theorem apply_fld_sampler f v : (s.apply (.fld f v)).sampler = s.sampler := rfl
@[simp] theorem apply_fld_pages f v : (s.apply (.fld f v)).pages = s.pages := rfl
@[simp] theorem apply_fld_devRings f v : (s.apply (.fld f v)).devRings = s.devRings := rfl
@[simp] theorem apply_fld_mig f v : (s.apply (.fld f v)).mig = s.mig := rfl
@[simp] theorem apply_fld_packs f v : (s.apply (.fld f v)).packs = s.packs := rfl
@[simp] theorem apply_fld_packNext f v : (s.apply (.fld f v)).packNext = s.packNext := rfl
@[simp] theorem apply_fld_xlt f v : (s.apply (.fld f v)).xlt = s.xlt := rfl
@[simp] theorem apply_fld_tiers f v : (s.apply (.fld f v)).tiers = s.tiers := rfl
@[simp] theorem apply_fld_banks f v : (s.apply (.fld f v)).banks = s.banks := rfl
@[simp] theorem apply_fld_march f v : (s.apply (.fld f v)).march = s.march := rfl
@[simp] theorem apply_fld_cmpErrs f v : (s.apply (.fld f v)).cmpErrs = s.cmpErrs := rfl
@[simp] theorem apply_fld_attErrs f v : (s.apply (.fld f v)).attErrs = s.attErrs := rfl
@[simp] theorem apply_fld_hlErrs f v : (s.apply (.fld f v)).hlErrs = s.hlErrs := rfl
@[simp] theorem apply_fld_cmpInvalidating f v : (s.apply (.fld f v)).cmpInvalidating = s.cmpInvalidating := rfl
@[simp] theorem apply_fld_cmpCache f v : (s.apply (.fld f v)).cmpCache = s.cmpCache := rfl
@[simp] theorem apply_fld_port f v : (s.apply (.fld f v)).port = s.port := rfl
@[simp] theorem apply_fld_mailbox f v : (s.apply (.fld f v)).mailbox = s.mailbox := rfl
@[simp] theorem apply_fld_links f v : (s.apply (.fld f v)).links = s.links := rfl
@[simp] theorem apply_fld_fabric f v : (s.apply (.fld f v)).fabric = s.fabric := rfl
@[simp] theorem apply_fld_outbound f v : (s.apply (.fld f v)).outbound = s.outbound := rfl
@[simp] theorem apply_fld_sec f v : (s.apply (.fld f v)).sec = s.sec := rfl
@[simp] theorem apply_fld_rotation f v : (s.apply (.fld f v)).rotation = s.rotation := rfl
@[simp] theorem apply_fld_sliceLate f v : (s.apply (.fld f v)).sliceLate = s.sliceLate := rfl
@[simp] theorem apply_fld_power f v : (s.apply (.fld f v)).power = s.power := rfl
@[simp] theorem apply_fld_flt f v : (s.apply (.fld f v)).flt = s.flt := rfl
@[simp] theorem apply_fld_regs f v :
    (s.apply (.fld f v)).regs = tabSet regReset s.regs f.addr (f.put (s.rd f.addr) v) := rfl

@[simp] theorem apply_reg_pending addr v : (s.apply (.reg addr v)).pending = s.pending := rfl
@[simp] theorem apply_reg_outbox addr v : (s.apply (.reg addr v)).outbox = s.outbox := rfl
@[simp] theorem apply_reg_ticks addr v : (s.apply (.reg addr v)).ticks = s.ticks := rfl
@[simp] theorem apply_reg_free addr v : (s.apply (.reg addr v)).free = s.free := rfl
@[simp] theorem apply_reg_mem addr v : (s.apply (.reg addr v)).mem = s.mem := rfl
@[simp] theorem apply_reg_undef addr v : (s.apply (.reg addr v)).undef = s.undef := rfl
@[simp] theorem apply_reg_marks addr v : (s.apply (.reg addr v)).marks = s.marks := rfl
@[simp] theorem apply_reg_lineKey addr v : (s.apply (.reg addr v)).lineKey = s.lineKey := rfl
@[simp] theorem apply_reg_loader addr v : (s.apply (.reg addr v)).loader = s.loader := rfl
@[simp] theorem apply_reg_ctxs addr v : (s.apply (.reg addr v)).ctxs = s.ctxs := rfl
@[simp] theorem apply_reg_windows addr v : (s.apply (.reg addr v)).windows = s.windows := rfl
@[simp] theorem apply_reg_hub addr v : (s.apply (.reg addr v)).hub = s.hub := rfl
@[simp] theorem apply_reg_clusters addr v : (s.apply (.reg addr v)).clusters = s.clusters := rfl
@[simp] theorem apply_reg_cores addr v : (s.apply (.reg addr v)).cores = s.cores := rfl
@[simp] theorem apply_reg_srCtr addr v : (s.apply (.reg addr v)).srCtr = s.srCtr := rfl
@[simp] theorem apply_reg_rings addr v : (s.apply (.reg addr v)).rings = s.rings := rfl
@[simp] theorem apply_reg_issues addr v : (s.apply (.reg addr v)).issues = s.issues := rfl
@[simp] theorem apply_reg_reqs addr v : (s.apply (.reg addr v)).reqs = s.reqs := rfl
@[simp] theorem apply_reg_stampNext addr v : (s.apply (.reg addr v)).stampNext = s.stampNext := rfl
@[simp] theorem apply_reg_periods addr v : (s.apply (.reg addr v)).periods = s.periods := rfl
@[simp] theorem apply_reg_sampler addr v : (s.apply (.reg addr v)).sampler = s.sampler := rfl
@[simp] theorem apply_reg_pages addr v : (s.apply (.reg addr v)).pages = s.pages := rfl
@[simp] theorem apply_reg_devRings addr v : (s.apply (.reg addr v)).devRings = s.devRings := rfl
@[simp] theorem apply_reg_mig addr v : (s.apply (.reg addr v)).mig = s.mig := rfl
@[simp] theorem apply_reg_packs addr v : (s.apply (.reg addr v)).packs = s.packs := rfl
@[simp] theorem apply_reg_packNext addr v : (s.apply (.reg addr v)).packNext = s.packNext := rfl
@[simp] theorem apply_reg_xlt addr v : (s.apply (.reg addr v)).xlt = s.xlt := rfl
@[simp] theorem apply_reg_tiers addr v : (s.apply (.reg addr v)).tiers = s.tiers := rfl
@[simp] theorem apply_reg_banks addr v : (s.apply (.reg addr v)).banks = s.banks := rfl
@[simp] theorem apply_reg_march addr v : (s.apply (.reg addr v)).march = s.march := rfl
@[simp] theorem apply_reg_cmpErrs addr v : (s.apply (.reg addr v)).cmpErrs = s.cmpErrs := rfl
@[simp] theorem apply_reg_attErrs addr v : (s.apply (.reg addr v)).attErrs = s.attErrs := rfl
@[simp] theorem apply_reg_hlErrs addr v : (s.apply (.reg addr v)).hlErrs = s.hlErrs := rfl
@[simp] theorem apply_reg_cmpInvalidating addr v : (s.apply (.reg addr v)).cmpInvalidating = s.cmpInvalidating := rfl
@[simp] theorem apply_reg_cmpCache addr v : (s.apply (.reg addr v)).cmpCache = s.cmpCache := rfl
@[simp] theorem apply_reg_port addr v : (s.apply (.reg addr v)).port = s.port := rfl
@[simp] theorem apply_reg_mailbox addr v : (s.apply (.reg addr v)).mailbox = s.mailbox := rfl
@[simp] theorem apply_reg_links addr v : (s.apply (.reg addr v)).links = s.links := rfl
@[simp] theorem apply_reg_fabric addr v : (s.apply (.reg addr v)).fabric = s.fabric := rfl
@[simp] theorem apply_reg_outbound addr v : (s.apply (.reg addr v)).outbound = s.outbound := rfl
@[simp] theorem apply_reg_sec addr v : (s.apply (.reg addr v)).sec = s.sec := rfl
@[simp] theorem apply_reg_rotation addr v : (s.apply (.reg addr v)).rotation = s.rotation := rfl
@[simp] theorem apply_reg_sliceLate addr v : (s.apply (.reg addr v)).sliceLate = s.sliceLate := rfl
@[simp] theorem apply_reg_power addr v : (s.apply (.reg addr v)).power = s.power := rfl
@[simp] theorem apply_reg_flt addr v : (s.apply (.reg addr v)).flt = s.flt := rfl
@[simp] theorem apply_reg_regs addr v :
    (s.apply (.reg addr v)).regs = tabSet regReset s.regs addr v := rfl

@[simp] theorem apply_inc_pending f n : (s.apply (.inc f n)).pending = s.pending := rfl
@[simp] theorem apply_inc_outbox f n : (s.apply (.inc f n)).outbox = s.outbox := rfl
@[simp] theorem apply_inc_ticks f n : (s.apply (.inc f n)).ticks = s.ticks := rfl
@[simp] theorem apply_inc_free f n : (s.apply (.inc f n)).free = s.free := rfl
@[simp] theorem apply_inc_mem f n : (s.apply (.inc f n)).mem = s.mem := rfl
@[simp] theorem apply_inc_undef f n : (s.apply (.inc f n)).undef = s.undef := rfl
@[simp] theorem apply_inc_marks f n : (s.apply (.inc f n)).marks = s.marks := rfl
@[simp] theorem apply_inc_lineKey f n : (s.apply (.inc f n)).lineKey = s.lineKey := rfl
@[simp] theorem apply_inc_loader f n : (s.apply (.inc f n)).loader = s.loader := rfl
@[simp] theorem apply_inc_ctxs f n : (s.apply (.inc f n)).ctxs = s.ctxs := rfl
@[simp] theorem apply_inc_windows f n : (s.apply (.inc f n)).windows = s.windows := rfl
@[simp] theorem apply_inc_hub f n : (s.apply (.inc f n)).hub = s.hub := rfl
@[simp] theorem apply_inc_clusters f n : (s.apply (.inc f n)).clusters = s.clusters := rfl
@[simp] theorem apply_inc_cores f n : (s.apply (.inc f n)).cores = s.cores := rfl
@[simp] theorem apply_inc_srCtr f n : (s.apply (.inc f n)).srCtr = s.srCtr := rfl
@[simp] theorem apply_inc_rings f n : (s.apply (.inc f n)).rings = s.rings := rfl
@[simp] theorem apply_inc_issues f n : (s.apply (.inc f n)).issues = s.issues := rfl
@[simp] theorem apply_inc_reqs f n : (s.apply (.inc f n)).reqs = s.reqs := rfl
@[simp] theorem apply_inc_stampNext f n : (s.apply (.inc f n)).stampNext = s.stampNext := rfl
@[simp] theorem apply_inc_periods f n : (s.apply (.inc f n)).periods = s.periods := rfl
@[simp] theorem apply_inc_sampler f n : (s.apply (.inc f n)).sampler = s.sampler := rfl
@[simp] theorem apply_inc_pages f n : (s.apply (.inc f n)).pages = s.pages := rfl
@[simp] theorem apply_inc_devRings f n : (s.apply (.inc f n)).devRings = s.devRings := rfl
@[simp] theorem apply_inc_mig f n : (s.apply (.inc f n)).mig = s.mig := rfl
@[simp] theorem apply_inc_packs f n : (s.apply (.inc f n)).packs = s.packs := rfl
@[simp] theorem apply_inc_packNext f n : (s.apply (.inc f n)).packNext = s.packNext := rfl
@[simp] theorem apply_inc_xlt f n : (s.apply (.inc f n)).xlt = s.xlt := rfl
@[simp] theorem apply_inc_tiers f n : (s.apply (.inc f n)).tiers = s.tiers := rfl
@[simp] theorem apply_inc_banks f n : (s.apply (.inc f n)).banks = s.banks := rfl
@[simp] theorem apply_inc_march f n : (s.apply (.inc f n)).march = s.march := rfl
@[simp] theorem apply_inc_cmpErrs f n : (s.apply (.inc f n)).cmpErrs = s.cmpErrs := rfl
@[simp] theorem apply_inc_attErrs f n : (s.apply (.inc f n)).attErrs = s.attErrs := rfl
@[simp] theorem apply_inc_hlErrs f n : (s.apply (.inc f n)).hlErrs = s.hlErrs := rfl
@[simp] theorem apply_inc_cmpInvalidating f n : (s.apply (.inc f n)).cmpInvalidating = s.cmpInvalidating := rfl
@[simp] theorem apply_inc_cmpCache f n : (s.apply (.inc f n)).cmpCache = s.cmpCache := rfl
@[simp] theorem apply_inc_port f n : (s.apply (.inc f n)).port = s.port := rfl
@[simp] theorem apply_inc_mailbox f n : (s.apply (.inc f n)).mailbox = s.mailbox := rfl
@[simp] theorem apply_inc_links f n : (s.apply (.inc f n)).links = s.links := rfl
@[simp] theorem apply_inc_fabric f n : (s.apply (.inc f n)).fabric = s.fabric := rfl
@[simp] theorem apply_inc_outbound f n : (s.apply (.inc f n)).outbound = s.outbound := rfl
@[simp] theorem apply_inc_sec f n : (s.apply (.inc f n)).sec = s.sec := rfl
@[simp] theorem apply_inc_rotation f n : (s.apply (.inc f n)).rotation = s.rotation := rfl
@[simp] theorem apply_inc_sliceLate f n : (s.apply (.inc f n)).sliceLate = s.sliceLate := rfl
@[simp] theorem apply_inc_power f n : (s.apply (.inc f n)).power = s.power := rfl
@[simp] theorem apply_inc_flt f n : (s.apply (.inc f n)).flt = s.flt := rfl
@[simp] theorem apply_inc_regs f n :
    (s.apply (.inc f n)).regs = tabSet regReset s.regs f.addr (f.put (s.rd f.addr) (satAdd f.width (s.fget f) n)) := rfl

@[simp] theorem apply_regReset_pending base n : (s.apply (.regReset base n)).pending = s.pending := rfl
@[simp] theorem apply_regReset_outbox base n : (s.apply (.regReset base n)).outbox = s.outbox := rfl
@[simp] theorem apply_regReset_ticks base n : (s.apply (.regReset base n)).ticks = s.ticks := rfl
@[simp] theorem apply_regReset_free base n : (s.apply (.regReset base n)).free = s.free := rfl
@[simp] theorem apply_regReset_mem base n : (s.apply (.regReset base n)).mem = s.mem := rfl
@[simp] theorem apply_regReset_undef base n : (s.apply (.regReset base n)).undef = s.undef := rfl
@[simp] theorem apply_regReset_marks base n : (s.apply (.regReset base n)).marks = s.marks := rfl
@[simp] theorem apply_regReset_lineKey base n : (s.apply (.regReset base n)).lineKey = s.lineKey := rfl
@[simp] theorem apply_regReset_loader base n : (s.apply (.regReset base n)).loader = s.loader := rfl
@[simp] theorem apply_regReset_ctxs base n : (s.apply (.regReset base n)).ctxs = s.ctxs := rfl
@[simp] theorem apply_regReset_windows base n : (s.apply (.regReset base n)).windows = s.windows := rfl
@[simp] theorem apply_regReset_hub base n : (s.apply (.regReset base n)).hub = s.hub := rfl
@[simp] theorem apply_regReset_clusters base n : (s.apply (.regReset base n)).clusters = s.clusters := rfl
@[simp] theorem apply_regReset_cores base n : (s.apply (.regReset base n)).cores = s.cores := rfl
@[simp] theorem apply_regReset_srCtr base n : (s.apply (.regReset base n)).srCtr = s.srCtr := rfl
@[simp] theorem apply_regReset_rings base n : (s.apply (.regReset base n)).rings = s.rings := rfl
@[simp] theorem apply_regReset_issues base n : (s.apply (.regReset base n)).issues = s.issues := rfl
@[simp] theorem apply_regReset_reqs base n : (s.apply (.regReset base n)).reqs = s.reqs := rfl
@[simp] theorem apply_regReset_stampNext base n : (s.apply (.regReset base n)).stampNext = s.stampNext := rfl
@[simp] theorem apply_regReset_periods base n : (s.apply (.regReset base n)).periods = s.periods := rfl
@[simp] theorem apply_regReset_sampler base n : (s.apply (.regReset base n)).sampler = s.sampler := rfl
@[simp] theorem apply_regReset_pages base n : (s.apply (.regReset base n)).pages = s.pages := rfl
@[simp] theorem apply_regReset_devRings base n : (s.apply (.regReset base n)).devRings = s.devRings := rfl
@[simp] theorem apply_regReset_mig base n : (s.apply (.regReset base n)).mig = s.mig := rfl
@[simp] theorem apply_regReset_packs base n : (s.apply (.regReset base n)).packs = s.packs := rfl
@[simp] theorem apply_regReset_packNext base n : (s.apply (.regReset base n)).packNext = s.packNext := rfl
@[simp] theorem apply_regReset_xlt base n : (s.apply (.regReset base n)).xlt = s.xlt := rfl
@[simp] theorem apply_regReset_tiers base n : (s.apply (.regReset base n)).tiers = s.tiers := rfl
@[simp] theorem apply_regReset_banks base n : (s.apply (.regReset base n)).banks = s.banks := rfl
@[simp] theorem apply_regReset_march base n : (s.apply (.regReset base n)).march = s.march := rfl
@[simp] theorem apply_regReset_cmpErrs base n : (s.apply (.regReset base n)).cmpErrs = s.cmpErrs := rfl
@[simp] theorem apply_regReset_attErrs base n : (s.apply (.regReset base n)).attErrs = s.attErrs := rfl
@[simp] theorem apply_regReset_hlErrs base n : (s.apply (.regReset base n)).hlErrs = s.hlErrs := rfl
@[simp] theorem apply_regReset_cmpInvalidating base n : (s.apply (.regReset base n)).cmpInvalidating = s.cmpInvalidating := rfl
@[simp] theorem apply_regReset_cmpCache base n : (s.apply (.regReset base n)).cmpCache = s.cmpCache := rfl
@[simp] theorem apply_regReset_port base n : (s.apply (.regReset base n)).port = s.port := rfl
@[simp] theorem apply_regReset_mailbox base n : (s.apply (.regReset base n)).mailbox = s.mailbox := rfl
@[simp] theorem apply_regReset_links base n : (s.apply (.regReset base n)).links = s.links := rfl
@[simp] theorem apply_regReset_fabric base n : (s.apply (.regReset base n)).fabric = s.fabric := rfl
@[simp] theorem apply_regReset_outbound base n : (s.apply (.regReset base n)).outbound = s.outbound := rfl
@[simp] theorem apply_regReset_sec base n : (s.apply (.regReset base n)).sec = s.sec := rfl
@[simp] theorem apply_regReset_rotation base n : (s.apply (.regReset base n)).rotation = s.rotation := rfl
@[simp] theorem apply_regReset_sliceLate base n : (s.apply (.regReset base n)).sliceLate = s.sliceLate := rfl
@[simp] theorem apply_regReset_power base n : (s.apply (.regReset base n)).power = s.power := rfl
@[simp] theorem apply_regReset_flt base n : (s.apply (.regReset base n)).flt = s.flt := rfl
@[simp] theorem apply_regReset_regs base n :
    (s.apply (.regReset base n)).regs = tabClear s.regs base n := rfl

@[simp] theorem apply_store_pending addr data : (s.apply (.store addr data)).pending = s.pending := rfl
@[simp] theorem apply_store_outbox addr data : (s.apply (.store addr data)).outbox = s.outbox := rfl
@[simp] theorem apply_store_ticks addr data : (s.apply (.store addr data)).ticks = s.ticks := rfl
@[simp] theorem apply_store_free addr data : (s.apply (.store addr data)).free = s.free := rfl
@[simp] theorem apply_store_marks addr data : (s.apply (.store addr data)).marks = s.marks := rfl
@[simp] theorem apply_store_lineKey addr data : (s.apply (.store addr data)).lineKey = s.lineKey := rfl
@[simp] theorem apply_store_regs addr data : (s.apply (.store addr data)).regs = s.regs := rfl
@[simp] theorem apply_store_loader addr data : (s.apply (.store addr data)).loader = s.loader := rfl
@[simp] theorem apply_store_ctxs addr data : (s.apply (.store addr data)).ctxs = s.ctxs := rfl
@[simp] theorem apply_store_windows addr data : (s.apply (.store addr data)).windows = s.windows := rfl
@[simp] theorem apply_store_hub addr data : (s.apply (.store addr data)).hub = s.hub := rfl
@[simp] theorem apply_store_clusters addr data : (s.apply (.store addr data)).clusters = s.clusters := rfl
@[simp] theorem apply_store_cores addr data : (s.apply (.store addr data)).cores = s.cores := rfl
@[simp] theorem apply_store_srCtr addr data : (s.apply (.store addr data)).srCtr = s.srCtr := rfl
@[simp] theorem apply_store_rings addr data : (s.apply (.store addr data)).rings = s.rings := rfl
@[simp] theorem apply_store_issues addr data : (s.apply (.store addr data)).issues = s.issues := rfl
@[simp] theorem apply_store_reqs addr data : (s.apply (.store addr data)).reqs = s.reqs := rfl
@[simp] theorem apply_store_stampNext addr data : (s.apply (.store addr data)).stampNext = s.stampNext := rfl
@[simp] theorem apply_store_periods addr data : (s.apply (.store addr data)).periods = s.periods := rfl
@[simp] theorem apply_store_sampler addr data : (s.apply (.store addr data)).sampler = s.sampler := rfl
@[simp] theorem apply_store_pages addr data : (s.apply (.store addr data)).pages = s.pages := rfl
@[simp] theorem apply_store_devRings addr data : (s.apply (.store addr data)).devRings = s.devRings := rfl
@[simp] theorem apply_store_mig addr data : (s.apply (.store addr data)).mig = s.mig := rfl
@[simp] theorem apply_store_packs addr data : (s.apply (.store addr data)).packs = s.packs := rfl
@[simp] theorem apply_store_packNext addr data : (s.apply (.store addr data)).packNext = s.packNext := rfl
@[simp] theorem apply_store_xlt addr data : (s.apply (.store addr data)).xlt = s.xlt := rfl
@[simp] theorem apply_store_tiers addr data : (s.apply (.store addr data)).tiers = s.tiers := rfl
@[simp] theorem apply_store_banks addr data : (s.apply (.store addr data)).banks = s.banks := rfl
@[simp] theorem apply_store_march addr data : (s.apply (.store addr data)).march = s.march := rfl
@[simp] theorem apply_store_cmpErrs addr data : (s.apply (.store addr data)).cmpErrs = s.cmpErrs := rfl
@[simp] theorem apply_store_attErrs addr data : (s.apply (.store addr data)).attErrs = s.attErrs := rfl
@[simp] theorem apply_store_hlErrs addr data : (s.apply (.store addr data)).hlErrs = s.hlErrs := rfl
@[simp] theorem apply_store_cmpInvalidating addr data : (s.apply (.store addr data)).cmpInvalidating = s.cmpInvalidating := rfl
@[simp] theorem apply_store_cmpCache addr data : (s.apply (.store addr data)).cmpCache = s.cmpCache := rfl
@[simp] theorem apply_store_port addr data : (s.apply (.store addr data)).port = s.port := rfl
@[simp] theorem apply_store_mailbox addr data : (s.apply (.store addr data)).mailbox = s.mailbox := rfl
@[simp] theorem apply_store_links addr data : (s.apply (.store addr data)).links = s.links := rfl
@[simp] theorem apply_store_fabric addr data : (s.apply (.store addr data)).fabric = s.fabric := rfl
@[simp] theorem apply_store_outbound addr data : (s.apply (.store addr data)).outbound = s.outbound := rfl
@[simp] theorem apply_store_sec addr data : (s.apply (.store addr data)).sec = s.sec := rfl
@[simp] theorem apply_store_rotation addr data : (s.apply (.store addr data)).rotation = s.rotation := rfl
@[simp] theorem apply_store_sliceLate addr data : (s.apply (.store addr data)).sliceLate = s.sliceLate := rfl
@[simp] theorem apply_store_power addr data : (s.apply (.store addr data)).power = s.power := rfl
@[simp] theorem apply_store_flt addr data : (s.apply (.store addr data)).flt = s.flt := rfl
@[simp] theorem apply_store_mem addr data :
    (s.apply (.store addr data)).mem = memPut s.mem addr data := rfl
@[simp] theorem apply_store_undef addr data :
    (s.apply (.store addr data)).undef = cutRanges addr data.length s.undef := rfl

@[simp] theorem apply_clear_pending addr n : (s.apply (.clear addr n)).pending = s.pending := rfl
@[simp] theorem apply_clear_outbox addr n : (s.apply (.clear addr n)).outbox = s.outbox := rfl
@[simp] theorem apply_clear_ticks addr n : (s.apply (.clear addr n)).ticks = s.ticks := rfl
@[simp] theorem apply_clear_free addr n : (s.apply (.clear addr n)).free = s.free := rfl
@[simp] theorem apply_clear_marks addr n : (s.apply (.clear addr n)).marks = s.marks := rfl
@[simp] theorem apply_clear_lineKey addr n : (s.apply (.clear addr n)).lineKey = s.lineKey := rfl
@[simp] theorem apply_clear_regs addr n : (s.apply (.clear addr n)).regs = s.regs := rfl
@[simp] theorem apply_clear_loader addr n : (s.apply (.clear addr n)).loader = s.loader := rfl
@[simp] theorem apply_clear_ctxs addr n : (s.apply (.clear addr n)).ctxs = s.ctxs := rfl
@[simp] theorem apply_clear_windows addr n : (s.apply (.clear addr n)).windows = s.windows := rfl
@[simp] theorem apply_clear_hub addr n : (s.apply (.clear addr n)).hub = s.hub := rfl
@[simp] theorem apply_clear_clusters addr n : (s.apply (.clear addr n)).clusters = s.clusters := rfl
@[simp] theorem apply_clear_cores addr n : (s.apply (.clear addr n)).cores = s.cores := rfl
@[simp] theorem apply_clear_srCtr addr n : (s.apply (.clear addr n)).srCtr = s.srCtr := rfl
@[simp] theorem apply_clear_rings addr n : (s.apply (.clear addr n)).rings = s.rings := rfl
@[simp] theorem apply_clear_issues addr n : (s.apply (.clear addr n)).issues = s.issues := rfl
@[simp] theorem apply_clear_reqs addr n : (s.apply (.clear addr n)).reqs = s.reqs := rfl
@[simp] theorem apply_clear_stampNext addr n : (s.apply (.clear addr n)).stampNext = s.stampNext := rfl
@[simp] theorem apply_clear_periods addr n : (s.apply (.clear addr n)).periods = s.periods := rfl
@[simp] theorem apply_clear_sampler addr n : (s.apply (.clear addr n)).sampler = s.sampler := rfl
@[simp] theorem apply_clear_pages addr n : (s.apply (.clear addr n)).pages = s.pages := rfl
@[simp] theorem apply_clear_devRings addr n : (s.apply (.clear addr n)).devRings = s.devRings := rfl
@[simp] theorem apply_clear_mig addr n : (s.apply (.clear addr n)).mig = s.mig := rfl
@[simp] theorem apply_clear_packs addr n : (s.apply (.clear addr n)).packs = s.packs := rfl
@[simp] theorem apply_clear_packNext addr n : (s.apply (.clear addr n)).packNext = s.packNext := rfl
@[simp] theorem apply_clear_xlt addr n : (s.apply (.clear addr n)).xlt = s.xlt := rfl
@[simp] theorem apply_clear_tiers addr n : (s.apply (.clear addr n)).tiers = s.tiers := rfl
@[simp] theorem apply_clear_banks addr n : (s.apply (.clear addr n)).banks = s.banks := rfl
@[simp] theorem apply_clear_march addr n : (s.apply (.clear addr n)).march = s.march := rfl
@[simp] theorem apply_clear_cmpErrs addr n : (s.apply (.clear addr n)).cmpErrs = s.cmpErrs := rfl
@[simp] theorem apply_clear_attErrs addr n : (s.apply (.clear addr n)).attErrs = s.attErrs := rfl
@[simp] theorem apply_clear_hlErrs addr n : (s.apply (.clear addr n)).hlErrs = s.hlErrs := rfl
@[simp] theorem apply_clear_cmpInvalidating addr n : (s.apply (.clear addr n)).cmpInvalidating = s.cmpInvalidating := rfl
@[simp] theorem apply_clear_cmpCache addr n : (s.apply (.clear addr n)).cmpCache = s.cmpCache := rfl
@[simp] theorem apply_clear_port addr n : (s.apply (.clear addr n)).port = s.port := rfl
@[simp] theorem apply_clear_mailbox addr n : (s.apply (.clear addr n)).mailbox = s.mailbox := rfl
@[simp] theorem apply_clear_links addr n : (s.apply (.clear addr n)).links = s.links := rfl
@[simp] theorem apply_clear_fabric addr n : (s.apply (.clear addr n)).fabric = s.fabric := rfl
@[simp] theorem apply_clear_outbound addr n : (s.apply (.clear addr n)).outbound = s.outbound := rfl
@[simp] theorem apply_clear_sec addr n : (s.apply (.clear addr n)).sec = s.sec := rfl
@[simp] theorem apply_clear_rotation addr n : (s.apply (.clear addr n)).rotation = s.rotation := rfl
@[simp] theorem apply_clear_sliceLate addr n : (s.apply (.clear addr n)).sliceLate = s.sliceLate := rfl
@[simp] theorem apply_clear_power addr n : (s.apply (.clear addr n)).power = s.power := rfl
@[simp] theorem apply_clear_flt addr n : (s.apply (.clear addr n)).flt = s.flt := rfl
@[simp] theorem apply_clear_mem addr n :
    (s.apply (.clear addr n)).mem = tabClear s.mem addr n := rfl
@[simp] theorem apply_clear_undef addr n :
    (s.apply (.clear addr n)).undef = cutRanges addr n s.undef := rfl

@[simp] theorem apply_undef_pending addr n : (s.apply (.undef addr n)).pending = s.pending := by simp only [State.apply]; split <;> rfl
@[simp] theorem apply_undef_outbox addr n : (s.apply (.undef addr n)).outbox = s.outbox := by simp only [State.apply]; split <;> rfl
@[simp] theorem apply_undef_ticks addr n : (s.apply (.undef addr n)).ticks = s.ticks := by simp only [State.apply]; split <;> rfl
@[simp] theorem apply_undef_marks addr n : (s.apply (.undef addr n)).marks = s.marks := by simp only [State.apply]; split <;> rfl
@[simp] theorem apply_undef_lineKey addr n : (s.apply (.undef addr n)).lineKey = s.lineKey := by simp only [State.apply]; split <;> rfl
@[simp] theorem apply_undef_regs addr n : (s.apply (.undef addr n)).regs = s.regs := by simp only [State.apply]; split <;> rfl
@[simp] theorem apply_undef_loader addr n : (s.apply (.undef addr n)).loader = s.loader := by simp only [State.apply]; split <;> rfl
@[simp] theorem apply_undef_ctxs addr n : (s.apply (.undef addr n)).ctxs = s.ctxs := by simp only [State.apply]; split <;> rfl
@[simp] theorem apply_undef_windows addr n : (s.apply (.undef addr n)).windows = s.windows := by simp only [State.apply]; split <;> rfl
@[simp] theorem apply_undef_hub addr n : (s.apply (.undef addr n)).hub = s.hub := by simp only [State.apply]; split <;> rfl
@[simp] theorem apply_undef_clusters addr n : (s.apply (.undef addr n)).clusters = s.clusters := by simp only [State.apply]; split <;> rfl
@[simp] theorem apply_undef_cores addr n : (s.apply (.undef addr n)).cores = s.cores := by simp only [State.apply]; split <;> rfl
@[simp] theorem apply_undef_srCtr addr n : (s.apply (.undef addr n)).srCtr = s.srCtr := by simp only [State.apply]; split <;> rfl
@[simp] theorem apply_undef_rings addr n : (s.apply (.undef addr n)).rings = s.rings := by simp only [State.apply]; split <;> rfl
@[simp] theorem apply_undef_issues addr n : (s.apply (.undef addr n)).issues = s.issues := by simp only [State.apply]; split <;> rfl
@[simp] theorem apply_undef_reqs addr n : (s.apply (.undef addr n)).reqs = s.reqs := by simp only [State.apply]; split <;> rfl
@[simp] theorem apply_undef_stampNext addr n : (s.apply (.undef addr n)).stampNext = s.stampNext := by simp only [State.apply]; split <;> rfl
@[simp] theorem apply_undef_periods addr n : (s.apply (.undef addr n)).periods = s.periods := by simp only [State.apply]; split <;> rfl
@[simp] theorem apply_undef_sampler addr n : (s.apply (.undef addr n)).sampler = s.sampler := by simp only [State.apply]; split <;> rfl
@[simp] theorem apply_undef_pages addr n : (s.apply (.undef addr n)).pages = s.pages := by simp only [State.apply]; split <;> rfl
@[simp] theorem apply_undef_devRings addr n : (s.apply (.undef addr n)).devRings = s.devRings := by simp only [State.apply]; split <;> rfl
@[simp] theorem apply_undef_mig addr n : (s.apply (.undef addr n)).mig = s.mig := by simp only [State.apply]; split <;> rfl
@[simp] theorem apply_undef_packs addr n : (s.apply (.undef addr n)).packs = s.packs := by simp only [State.apply]; split <;> rfl
@[simp] theorem apply_undef_packNext addr n : (s.apply (.undef addr n)).packNext = s.packNext := by simp only [State.apply]; split <;> rfl
@[simp] theorem apply_undef_xlt addr n : (s.apply (.undef addr n)).xlt = s.xlt := by simp only [State.apply]; split <;> rfl
@[simp] theorem apply_undef_tiers addr n : (s.apply (.undef addr n)).tiers = s.tiers := by simp only [State.apply]; split <;> rfl
@[simp] theorem apply_undef_banks addr n : (s.apply (.undef addr n)).banks = s.banks := by simp only [State.apply]; split <;> rfl
@[simp] theorem apply_undef_march addr n : (s.apply (.undef addr n)).march = s.march := by simp only [State.apply]; split <;> rfl
@[simp] theorem apply_undef_cmpErrs addr n : (s.apply (.undef addr n)).cmpErrs = s.cmpErrs := by simp only [State.apply]; split <;> rfl
@[simp] theorem apply_undef_attErrs addr n : (s.apply (.undef addr n)).attErrs = s.attErrs := by simp only [State.apply]; split <;> rfl
@[simp] theorem apply_undef_hlErrs addr n : (s.apply (.undef addr n)).hlErrs = s.hlErrs := by simp only [State.apply]; split <;> rfl
@[simp] theorem apply_undef_cmpInvalidating addr n : (s.apply (.undef addr n)).cmpInvalidating = s.cmpInvalidating := by simp only [State.apply]; split <;> rfl
@[simp] theorem apply_undef_cmpCache addr n : (s.apply (.undef addr n)).cmpCache = s.cmpCache := by simp only [State.apply]; split <;> rfl
@[simp] theorem apply_undef_port addr n : (s.apply (.undef addr n)).port = s.port := by simp only [State.apply]; split <;> rfl
@[simp] theorem apply_undef_mailbox addr n : (s.apply (.undef addr n)).mailbox = s.mailbox := by simp only [State.apply]; split <;> rfl
@[simp] theorem apply_undef_links addr n : (s.apply (.undef addr n)).links = s.links := by simp only [State.apply]; split <;> rfl
@[simp] theorem apply_undef_fabric addr n : (s.apply (.undef addr n)).fabric = s.fabric := by simp only [State.apply]; split <;> rfl
@[simp] theorem apply_undef_outbound addr n : (s.apply (.undef addr n)).outbound = s.outbound := by simp only [State.apply]; split <;> rfl
@[simp] theorem apply_undef_sec addr n : (s.apply (.undef addr n)).sec = s.sec := by simp only [State.apply]; split <;> rfl
@[simp] theorem apply_undef_rotation addr n : (s.apply (.undef addr n)).rotation = s.rotation := by simp only [State.apply]; split <;> rfl
@[simp] theorem apply_undef_sliceLate addr n : (s.apply (.undef addr n)).sliceLate = s.sliceLate := by simp only [State.apply]; split <;> rfl
@[simp] theorem apply_undef_power addr n : (s.apply (.undef addr n)).power = s.power := by simp only [State.apply]; split <;> rfl
@[simp] theorem apply_undef_flt addr n : (s.apply (.undef addr n)).flt = s.flt := by simp only [State.apply]; split <;> rfl

@[simp] theorem apply_mark_pending addr m : (s.apply (.mark addr m)).pending = s.pending := rfl
@[simp] theorem apply_mark_outbox addr m : (s.apply (.mark addr m)).outbox = s.outbox := rfl
@[simp] theorem apply_mark_ticks addr m : (s.apply (.mark addr m)).ticks = s.ticks := rfl
@[simp] theorem apply_mark_free addr m : (s.apply (.mark addr m)).free = s.free := rfl
@[simp] theorem apply_mark_mem addr m : (s.apply (.mark addr m)).mem = s.mem := rfl
@[simp] theorem apply_mark_undef addr m : (s.apply (.mark addr m)).undef = s.undef := rfl
@[simp] theorem apply_mark_lineKey addr m : (s.apply (.mark addr m)).lineKey = s.lineKey := rfl
@[simp] theorem apply_mark_regs addr m : (s.apply (.mark addr m)).regs = s.regs := rfl
@[simp] theorem apply_mark_loader addr m : (s.apply (.mark addr m)).loader = s.loader := rfl
@[simp] theorem apply_mark_ctxs addr m : (s.apply (.mark addr m)).ctxs = s.ctxs := rfl
@[simp] theorem apply_mark_windows addr m : (s.apply (.mark addr m)).windows = s.windows := rfl
@[simp] theorem apply_mark_hub addr m : (s.apply (.mark addr m)).hub = s.hub := rfl
@[simp] theorem apply_mark_clusters addr m : (s.apply (.mark addr m)).clusters = s.clusters := rfl
@[simp] theorem apply_mark_cores addr m : (s.apply (.mark addr m)).cores = s.cores := rfl
@[simp] theorem apply_mark_srCtr addr m : (s.apply (.mark addr m)).srCtr = s.srCtr := rfl
@[simp] theorem apply_mark_rings addr m : (s.apply (.mark addr m)).rings = s.rings := rfl
@[simp] theorem apply_mark_issues addr m : (s.apply (.mark addr m)).issues = s.issues := rfl
@[simp] theorem apply_mark_reqs addr m : (s.apply (.mark addr m)).reqs = s.reqs := rfl
@[simp] theorem apply_mark_stampNext addr m : (s.apply (.mark addr m)).stampNext = s.stampNext := rfl
@[simp] theorem apply_mark_periods addr m : (s.apply (.mark addr m)).periods = s.periods := rfl
@[simp] theorem apply_mark_sampler addr m : (s.apply (.mark addr m)).sampler = s.sampler := rfl
@[simp] theorem apply_mark_pages addr m : (s.apply (.mark addr m)).pages = s.pages := rfl
@[simp] theorem apply_mark_devRings addr m : (s.apply (.mark addr m)).devRings = s.devRings := rfl
@[simp] theorem apply_mark_mig addr m : (s.apply (.mark addr m)).mig = s.mig := rfl
@[simp] theorem apply_mark_packs addr m : (s.apply (.mark addr m)).packs = s.packs := rfl
@[simp] theorem apply_mark_packNext addr m : (s.apply (.mark addr m)).packNext = s.packNext := rfl
@[simp] theorem apply_mark_xlt addr m : (s.apply (.mark addr m)).xlt = s.xlt := rfl
@[simp] theorem apply_mark_tiers addr m : (s.apply (.mark addr m)).tiers = s.tiers := rfl
@[simp] theorem apply_mark_banks addr m : (s.apply (.mark addr m)).banks = s.banks := rfl
@[simp] theorem apply_mark_march addr m : (s.apply (.mark addr m)).march = s.march := rfl
@[simp] theorem apply_mark_cmpErrs addr m : (s.apply (.mark addr m)).cmpErrs = s.cmpErrs := rfl
@[simp] theorem apply_mark_attErrs addr m : (s.apply (.mark addr m)).attErrs = s.attErrs := rfl
@[simp] theorem apply_mark_hlErrs addr m : (s.apply (.mark addr m)).hlErrs = s.hlErrs := rfl
@[simp] theorem apply_mark_cmpInvalidating addr m : (s.apply (.mark addr m)).cmpInvalidating = s.cmpInvalidating := rfl
@[simp] theorem apply_mark_cmpCache addr m : (s.apply (.mark addr m)).cmpCache = s.cmpCache := rfl
@[simp] theorem apply_mark_port addr m : (s.apply (.mark addr m)).port = s.port := rfl
@[simp] theorem apply_mark_mailbox addr m : (s.apply (.mark addr m)).mailbox = s.mailbox := rfl
@[simp] theorem apply_mark_links addr m : (s.apply (.mark addr m)).links = s.links := rfl
@[simp] theorem apply_mark_fabric addr m : (s.apply (.mark addr m)).fabric = s.fabric := rfl
@[simp] theorem apply_mark_outbound addr m : (s.apply (.mark addr m)).outbound = s.outbound := rfl
@[simp] theorem apply_mark_sec addr m : (s.apply (.mark addr m)).sec = s.sec := rfl
@[simp] theorem apply_mark_rotation addr m : (s.apply (.mark addr m)).rotation = s.rotation := rfl
@[simp] theorem apply_mark_sliceLate addr m : (s.apply (.mark addr m)).sliceLate = s.sliceLate := rfl
@[simp] theorem apply_mark_power addr m : (s.apply (.mark addr m)).power = s.power := rfl
@[simp] theorem apply_mark_flt addr m : (s.apply (.mark addr m)).flt = s.flt := rfl
@[simp] theorem apply_mark_marks addr m :
    (s.apply (.mark addr m)).marks = tabSet (fun _ => .sound) s.marks addr m := rfl

@[simp] theorem apply_sound_pending addr n : (s.apply (.sound addr n)).pending = s.pending := rfl
@[simp] theorem apply_sound_outbox addr n : (s.apply (.sound addr n)).outbox = s.outbox := rfl
@[simp] theorem apply_sound_ticks addr n : (s.apply (.sound addr n)).ticks = s.ticks := rfl
@[simp] theorem apply_sound_free addr n : (s.apply (.sound addr n)).free = s.free := rfl
@[simp] theorem apply_sound_mem addr n : (s.apply (.sound addr n)).mem = s.mem := rfl
@[simp] theorem apply_sound_undef addr n : (s.apply (.sound addr n)).undef = s.undef := rfl
@[simp] theorem apply_sound_lineKey addr n : (s.apply (.sound addr n)).lineKey = s.lineKey := rfl
@[simp] theorem apply_sound_regs addr n : (s.apply (.sound addr n)).regs = s.regs := rfl
@[simp] theorem apply_sound_loader addr n : (s.apply (.sound addr n)).loader = s.loader := rfl
@[simp] theorem apply_sound_ctxs addr n : (s.apply (.sound addr n)).ctxs = s.ctxs := rfl
@[simp] theorem apply_sound_windows addr n : (s.apply (.sound addr n)).windows = s.windows := rfl
@[simp] theorem apply_sound_hub addr n : (s.apply (.sound addr n)).hub = s.hub := rfl
@[simp] theorem apply_sound_clusters addr n : (s.apply (.sound addr n)).clusters = s.clusters := rfl
@[simp] theorem apply_sound_cores addr n : (s.apply (.sound addr n)).cores = s.cores := rfl
@[simp] theorem apply_sound_srCtr addr n : (s.apply (.sound addr n)).srCtr = s.srCtr := rfl
@[simp] theorem apply_sound_rings addr n : (s.apply (.sound addr n)).rings = s.rings := rfl
@[simp] theorem apply_sound_issues addr n : (s.apply (.sound addr n)).issues = s.issues := rfl
@[simp] theorem apply_sound_reqs addr n : (s.apply (.sound addr n)).reqs = s.reqs := rfl
@[simp] theorem apply_sound_stampNext addr n : (s.apply (.sound addr n)).stampNext = s.stampNext := rfl
@[simp] theorem apply_sound_periods addr n : (s.apply (.sound addr n)).periods = s.periods := rfl
@[simp] theorem apply_sound_sampler addr n : (s.apply (.sound addr n)).sampler = s.sampler := rfl
@[simp] theorem apply_sound_pages addr n : (s.apply (.sound addr n)).pages = s.pages := rfl
@[simp] theorem apply_sound_devRings addr n : (s.apply (.sound addr n)).devRings = s.devRings := rfl
@[simp] theorem apply_sound_mig addr n : (s.apply (.sound addr n)).mig = s.mig := rfl
@[simp] theorem apply_sound_packs addr n : (s.apply (.sound addr n)).packs = s.packs := rfl
@[simp] theorem apply_sound_packNext addr n : (s.apply (.sound addr n)).packNext = s.packNext := rfl
@[simp] theorem apply_sound_xlt addr n : (s.apply (.sound addr n)).xlt = s.xlt := rfl
@[simp] theorem apply_sound_tiers addr n : (s.apply (.sound addr n)).tiers = s.tiers := rfl
@[simp] theorem apply_sound_banks addr n : (s.apply (.sound addr n)).banks = s.banks := rfl
@[simp] theorem apply_sound_march addr n : (s.apply (.sound addr n)).march = s.march := rfl
@[simp] theorem apply_sound_cmpErrs addr n : (s.apply (.sound addr n)).cmpErrs = s.cmpErrs := rfl
@[simp] theorem apply_sound_attErrs addr n : (s.apply (.sound addr n)).attErrs = s.attErrs := rfl
@[simp] theorem apply_sound_hlErrs addr n : (s.apply (.sound addr n)).hlErrs = s.hlErrs := rfl
@[simp] theorem apply_sound_cmpInvalidating addr n : (s.apply (.sound addr n)).cmpInvalidating = s.cmpInvalidating := rfl
@[simp] theorem apply_sound_cmpCache addr n : (s.apply (.sound addr n)).cmpCache = s.cmpCache := rfl
@[simp] theorem apply_sound_port addr n : (s.apply (.sound addr n)).port = s.port := rfl
@[simp] theorem apply_sound_mailbox addr n : (s.apply (.sound addr n)).mailbox = s.mailbox := rfl
@[simp] theorem apply_sound_links addr n : (s.apply (.sound addr n)).links = s.links := rfl
@[simp] theorem apply_sound_fabric addr n : (s.apply (.sound addr n)).fabric = s.fabric := rfl
@[simp] theorem apply_sound_outbound addr n : (s.apply (.sound addr n)).outbound = s.outbound := rfl
@[simp] theorem apply_sound_sec addr n : (s.apply (.sound addr n)).sec = s.sec := rfl
@[simp] theorem apply_sound_rotation addr n : (s.apply (.sound addr n)).rotation = s.rotation := rfl
@[simp] theorem apply_sound_sliceLate addr n : (s.apply (.sound addr n)).sliceLate = s.sliceLate := rfl
@[simp] theorem apply_sound_power addr n : (s.apply (.sound addr n)).power = s.power := rfl
@[simp] theorem apply_sound_flt addr n : (s.apply (.sound addr n)).flt = s.flt := rfl
@[simp] theorem apply_sound_marks addr n :
    (s.apply (.sound addr n)).marks = tabClear s.marks addr n := rfl

@[simp] theorem apply_lineKey_pending line key : (s.apply (.lineKey line key)).pending = s.pending := rfl
@[simp] theorem apply_lineKey_outbox line key : (s.apply (.lineKey line key)).outbox = s.outbox := rfl
@[simp] theorem apply_lineKey_ticks line key : (s.apply (.lineKey line key)).ticks = s.ticks := rfl
@[simp] theorem apply_lineKey_free line key : (s.apply (.lineKey line key)).free = s.free := rfl
@[simp] theorem apply_lineKey_mem line key : (s.apply (.lineKey line key)).mem = s.mem := rfl
@[simp] theorem apply_lineKey_undef line key : (s.apply (.lineKey line key)).undef = s.undef := rfl
@[simp] theorem apply_lineKey_marks line key : (s.apply (.lineKey line key)).marks = s.marks := rfl
@[simp] theorem apply_lineKey_regs line key : (s.apply (.lineKey line key)).regs = s.regs := rfl
@[simp] theorem apply_lineKey_loader line key : (s.apply (.lineKey line key)).loader = s.loader := rfl
@[simp] theorem apply_lineKey_ctxs line key : (s.apply (.lineKey line key)).ctxs = s.ctxs := rfl
@[simp] theorem apply_lineKey_windows line key : (s.apply (.lineKey line key)).windows = s.windows := rfl
@[simp] theorem apply_lineKey_hub line key : (s.apply (.lineKey line key)).hub = s.hub := rfl
@[simp] theorem apply_lineKey_clusters line key : (s.apply (.lineKey line key)).clusters = s.clusters := rfl
@[simp] theorem apply_lineKey_cores line key : (s.apply (.lineKey line key)).cores = s.cores := rfl
@[simp] theorem apply_lineKey_srCtr line key : (s.apply (.lineKey line key)).srCtr = s.srCtr := rfl
@[simp] theorem apply_lineKey_rings line key : (s.apply (.lineKey line key)).rings = s.rings := rfl
@[simp] theorem apply_lineKey_issues line key : (s.apply (.lineKey line key)).issues = s.issues := rfl
@[simp] theorem apply_lineKey_reqs line key : (s.apply (.lineKey line key)).reqs = s.reqs := rfl
@[simp] theorem apply_lineKey_stampNext line key : (s.apply (.lineKey line key)).stampNext = s.stampNext := rfl
@[simp] theorem apply_lineKey_periods line key : (s.apply (.lineKey line key)).periods = s.periods := rfl
@[simp] theorem apply_lineKey_sampler line key : (s.apply (.lineKey line key)).sampler = s.sampler := rfl
@[simp] theorem apply_lineKey_pages line key : (s.apply (.lineKey line key)).pages = s.pages := rfl
@[simp] theorem apply_lineKey_devRings line key : (s.apply (.lineKey line key)).devRings = s.devRings := rfl
@[simp] theorem apply_lineKey_mig line key : (s.apply (.lineKey line key)).mig = s.mig := rfl
@[simp] theorem apply_lineKey_packs line key : (s.apply (.lineKey line key)).packs = s.packs := rfl
@[simp] theorem apply_lineKey_packNext line key : (s.apply (.lineKey line key)).packNext = s.packNext := rfl
@[simp] theorem apply_lineKey_xlt line key : (s.apply (.lineKey line key)).xlt = s.xlt := rfl
@[simp] theorem apply_lineKey_tiers line key : (s.apply (.lineKey line key)).tiers = s.tiers := rfl
@[simp] theorem apply_lineKey_banks line key : (s.apply (.lineKey line key)).banks = s.banks := rfl
@[simp] theorem apply_lineKey_march line key : (s.apply (.lineKey line key)).march = s.march := rfl
@[simp] theorem apply_lineKey_cmpErrs line key : (s.apply (.lineKey line key)).cmpErrs = s.cmpErrs := rfl
@[simp] theorem apply_lineKey_attErrs line key : (s.apply (.lineKey line key)).attErrs = s.attErrs := rfl
@[simp] theorem apply_lineKey_hlErrs line key : (s.apply (.lineKey line key)).hlErrs = s.hlErrs := rfl
@[simp] theorem apply_lineKey_cmpInvalidating line key : (s.apply (.lineKey line key)).cmpInvalidating = s.cmpInvalidating := rfl
@[simp] theorem apply_lineKey_cmpCache line key : (s.apply (.lineKey line key)).cmpCache = s.cmpCache := rfl
@[simp] theorem apply_lineKey_port line key : (s.apply (.lineKey line key)).port = s.port := rfl
@[simp] theorem apply_lineKey_mailbox line key : (s.apply (.lineKey line key)).mailbox = s.mailbox := rfl
@[simp] theorem apply_lineKey_links line key : (s.apply (.lineKey line key)).links = s.links := rfl
@[simp] theorem apply_lineKey_fabric line key : (s.apply (.lineKey line key)).fabric = s.fabric := rfl
@[simp] theorem apply_lineKey_outbound line key : (s.apply (.lineKey line key)).outbound = s.outbound := rfl
@[simp] theorem apply_lineKey_sec line key : (s.apply (.lineKey line key)).sec = s.sec := rfl
@[simp] theorem apply_lineKey_rotation line key : (s.apply (.lineKey line key)).rotation = s.rotation := rfl
@[simp] theorem apply_lineKey_sliceLate line key : (s.apply (.lineKey line key)).sliceLate = s.sliceLate := rfl
@[simp] theorem apply_lineKey_power line key : (s.apply (.lineKey line key)).power = s.power := rfl
@[simp] theorem apply_lineKey_flt line key : (s.apply (.lineKey line key)).flt = s.flt := rfl
@[simp] theorem apply_lineKey_lineKey line key :
    (s.apply (.lineKey line key)).lineKey = tabSet (fun _ => 0) s.lineKey line key := rfl

@[simp] theorem apply_plainLines_pending line n : (s.apply (.plainLines line n)).pending = s.pending := rfl
@[simp] theorem apply_plainLines_outbox line n : (s.apply (.plainLines line n)).outbox = s.outbox := rfl
@[simp] theorem apply_plainLines_ticks line n : (s.apply (.plainLines line n)).ticks = s.ticks := rfl
@[simp] theorem apply_plainLines_free line n : (s.apply (.plainLines line n)).free = s.free := rfl
@[simp] theorem apply_plainLines_mem line n : (s.apply (.plainLines line n)).mem = s.mem := rfl
@[simp] theorem apply_plainLines_undef line n : (s.apply (.plainLines line n)).undef = s.undef := rfl
@[simp] theorem apply_plainLines_marks line n : (s.apply (.plainLines line n)).marks = s.marks := rfl
@[simp] theorem apply_plainLines_regs line n : (s.apply (.plainLines line n)).regs = s.regs := rfl
@[simp] theorem apply_plainLines_loader line n : (s.apply (.plainLines line n)).loader = s.loader := rfl
@[simp] theorem apply_plainLines_ctxs line n : (s.apply (.plainLines line n)).ctxs = s.ctxs := rfl
@[simp] theorem apply_plainLines_windows line n : (s.apply (.plainLines line n)).windows = s.windows := rfl
@[simp] theorem apply_plainLines_hub line n : (s.apply (.plainLines line n)).hub = s.hub := rfl
@[simp] theorem apply_plainLines_clusters line n : (s.apply (.plainLines line n)).clusters = s.clusters := rfl
@[simp] theorem apply_plainLines_cores line n : (s.apply (.plainLines line n)).cores = s.cores := rfl
@[simp] theorem apply_plainLines_srCtr line n : (s.apply (.plainLines line n)).srCtr = s.srCtr := rfl
@[simp] theorem apply_plainLines_rings line n : (s.apply (.plainLines line n)).rings = s.rings := rfl
@[simp] theorem apply_plainLines_issues line n : (s.apply (.plainLines line n)).issues = s.issues := rfl
@[simp] theorem apply_plainLines_reqs line n : (s.apply (.plainLines line n)).reqs = s.reqs := rfl
@[simp] theorem apply_plainLines_stampNext line n : (s.apply (.plainLines line n)).stampNext = s.stampNext := rfl
@[simp] theorem apply_plainLines_periods line n : (s.apply (.plainLines line n)).periods = s.periods := rfl
@[simp] theorem apply_plainLines_sampler line n : (s.apply (.plainLines line n)).sampler = s.sampler := rfl
@[simp] theorem apply_plainLines_pages line n : (s.apply (.plainLines line n)).pages = s.pages := rfl
@[simp] theorem apply_plainLines_devRings line n : (s.apply (.plainLines line n)).devRings = s.devRings := rfl
@[simp] theorem apply_plainLines_mig line n : (s.apply (.plainLines line n)).mig = s.mig := rfl
@[simp] theorem apply_plainLines_packs line n : (s.apply (.plainLines line n)).packs = s.packs := rfl
@[simp] theorem apply_plainLines_packNext line n : (s.apply (.plainLines line n)).packNext = s.packNext := rfl
@[simp] theorem apply_plainLines_xlt line n : (s.apply (.plainLines line n)).xlt = s.xlt := rfl
@[simp] theorem apply_plainLines_tiers line n : (s.apply (.plainLines line n)).tiers = s.tiers := rfl
@[simp] theorem apply_plainLines_banks line n : (s.apply (.plainLines line n)).banks = s.banks := rfl
@[simp] theorem apply_plainLines_march line n : (s.apply (.plainLines line n)).march = s.march := rfl
@[simp] theorem apply_plainLines_cmpErrs line n : (s.apply (.plainLines line n)).cmpErrs = s.cmpErrs := rfl
@[simp] theorem apply_plainLines_attErrs line n : (s.apply (.plainLines line n)).attErrs = s.attErrs := rfl
@[simp] theorem apply_plainLines_hlErrs line n : (s.apply (.plainLines line n)).hlErrs = s.hlErrs := rfl
@[simp] theorem apply_plainLines_cmpInvalidating line n : (s.apply (.plainLines line n)).cmpInvalidating = s.cmpInvalidating := rfl
@[simp] theorem apply_plainLines_cmpCache line n : (s.apply (.plainLines line n)).cmpCache = s.cmpCache := rfl
@[simp] theorem apply_plainLines_port line n : (s.apply (.plainLines line n)).port = s.port := rfl
@[simp] theorem apply_plainLines_mailbox line n : (s.apply (.plainLines line n)).mailbox = s.mailbox := rfl
@[simp] theorem apply_plainLines_links line n : (s.apply (.plainLines line n)).links = s.links := rfl
@[simp] theorem apply_plainLines_fabric line n : (s.apply (.plainLines line n)).fabric = s.fabric := rfl
@[simp] theorem apply_plainLines_outbound line n : (s.apply (.plainLines line n)).outbound = s.outbound := rfl
@[simp] theorem apply_plainLines_sec line n : (s.apply (.plainLines line n)).sec = s.sec := rfl
@[simp] theorem apply_plainLines_rotation line n : (s.apply (.plainLines line n)).rotation = s.rotation := rfl
@[simp] theorem apply_plainLines_sliceLate line n : (s.apply (.plainLines line n)).sliceLate = s.sliceLate := rfl
@[simp] theorem apply_plainLines_power line n : (s.apply (.plainLines line n)).power = s.power := rfl
@[simp] theorem apply_plainLines_flt line n : (s.apply (.plainLines line n)).flt = s.flt := rfl
@[simp] theorem apply_plainLines_lineKey line n :
    (s.apply (.plainLines line n)).lineKey = tabClear s.lineKey line n := rfl

@[simp] theorem apply_out_pending o : (s.apply (.out o)).pending = s.pending := rfl
@[simp] theorem apply_out_ticks o : (s.apply (.out o)).ticks = s.ticks := rfl
@[simp] theorem apply_out_free o : (s.apply (.out o)).free = s.free := rfl
@[simp] theorem apply_out_mem o : (s.apply (.out o)).mem = s.mem := rfl
@[simp] theorem apply_out_undef o : (s.apply (.out o)).undef = s.undef := rfl
@[simp] theorem apply_out_marks o : (s.apply (.out o)).marks = s.marks := rfl
@[simp] theorem apply_out_lineKey o : (s.apply (.out o)).lineKey = s.lineKey := rfl
@[simp] theorem apply_out_regs o : (s.apply (.out o)).regs = s.regs := rfl
@[simp] theorem apply_out_loader o : (s.apply (.out o)).loader = s.loader := rfl
@[simp] theorem apply_out_ctxs o : (s.apply (.out o)).ctxs = s.ctxs := rfl
@[simp] theorem apply_out_windows o : (s.apply (.out o)).windows = s.windows := rfl
@[simp] theorem apply_out_hub o : (s.apply (.out o)).hub = s.hub := rfl
@[simp] theorem apply_out_clusters o : (s.apply (.out o)).clusters = s.clusters := rfl
@[simp] theorem apply_out_cores o : (s.apply (.out o)).cores = s.cores := rfl
@[simp] theorem apply_out_srCtr o : (s.apply (.out o)).srCtr = s.srCtr := rfl
@[simp] theorem apply_out_rings o : (s.apply (.out o)).rings = s.rings := rfl
@[simp] theorem apply_out_issues o : (s.apply (.out o)).issues = s.issues := rfl
@[simp] theorem apply_out_reqs o : (s.apply (.out o)).reqs = s.reqs := rfl
@[simp] theorem apply_out_stampNext o : (s.apply (.out o)).stampNext = s.stampNext := rfl
@[simp] theorem apply_out_periods o : (s.apply (.out o)).periods = s.periods := rfl
@[simp] theorem apply_out_sampler o : (s.apply (.out o)).sampler = s.sampler := rfl
@[simp] theorem apply_out_pages o : (s.apply (.out o)).pages = s.pages := rfl
@[simp] theorem apply_out_devRings o : (s.apply (.out o)).devRings = s.devRings := rfl
@[simp] theorem apply_out_mig o : (s.apply (.out o)).mig = s.mig := rfl
@[simp] theorem apply_out_packs o : (s.apply (.out o)).packs = s.packs := rfl
@[simp] theorem apply_out_packNext o : (s.apply (.out o)).packNext = s.packNext := rfl
@[simp] theorem apply_out_xlt o : (s.apply (.out o)).xlt = s.xlt := rfl
@[simp] theorem apply_out_tiers o : (s.apply (.out o)).tiers = s.tiers := rfl
@[simp] theorem apply_out_banks o : (s.apply (.out o)).banks = s.banks := rfl
@[simp] theorem apply_out_march o : (s.apply (.out o)).march = s.march := rfl
@[simp] theorem apply_out_cmpErrs o : (s.apply (.out o)).cmpErrs = s.cmpErrs := rfl
@[simp] theorem apply_out_attErrs o : (s.apply (.out o)).attErrs = s.attErrs := rfl
@[simp] theorem apply_out_hlErrs o : (s.apply (.out o)).hlErrs = s.hlErrs := rfl
@[simp] theorem apply_out_cmpInvalidating o : (s.apply (.out o)).cmpInvalidating = s.cmpInvalidating := rfl
@[simp] theorem apply_out_cmpCache o : (s.apply (.out o)).cmpCache = s.cmpCache := rfl
@[simp] theorem apply_out_port o : (s.apply (.out o)).port = s.port := rfl
@[simp] theorem apply_out_mailbox o : (s.apply (.out o)).mailbox = s.mailbox := rfl
@[simp] theorem apply_out_links o : (s.apply (.out o)).links = s.links := rfl
@[simp] theorem apply_out_fabric o : (s.apply (.out o)).fabric = s.fabric := rfl
@[simp] theorem apply_out_outbound o : (s.apply (.out o)).outbound = s.outbound := rfl
@[simp] theorem apply_out_sec o : (s.apply (.out o)).sec = s.sec := rfl
@[simp] theorem apply_out_rotation o : (s.apply (.out o)).rotation = s.rotation := rfl
@[simp] theorem apply_out_sliceLate o : (s.apply (.out o)).sliceLate = s.sliceLate := rfl
@[simp] theorem apply_out_power o : (s.apply (.out o)).power = s.power := rfl
@[simp] theorem apply_out_flt o : (s.apply (.out o)).flt = s.flt := rfl
@[simp] theorem apply_out_outbox o :
    (s.apply (.out o)).outbox = s.outbox ++ [o] := rfl

@[simp] theorem apply_draw_pending : (s.apply .draw).pending = s.pending := rfl
@[simp] theorem apply_draw_outbox : (s.apply .draw).outbox = s.outbox := rfl
@[simp] theorem apply_draw_ticks : (s.apply .draw).ticks = s.ticks := rfl
@[simp] theorem apply_draw_mem : (s.apply .draw).mem = s.mem := rfl
@[simp] theorem apply_draw_undef : (s.apply .draw).undef = s.undef := rfl
@[simp] theorem apply_draw_marks : (s.apply .draw).marks = s.marks := rfl
@[simp] theorem apply_draw_lineKey : (s.apply .draw).lineKey = s.lineKey := rfl
@[simp] theorem apply_draw_regs : (s.apply .draw).regs = s.regs := rfl
@[simp] theorem apply_draw_loader : (s.apply .draw).loader = s.loader := rfl
@[simp] theorem apply_draw_ctxs : (s.apply .draw).ctxs = s.ctxs := rfl
@[simp] theorem apply_draw_windows : (s.apply .draw).windows = s.windows := rfl
@[simp] theorem apply_draw_hub : (s.apply .draw).hub = s.hub := rfl
@[simp] theorem apply_draw_clusters : (s.apply .draw).clusters = s.clusters := rfl
@[simp] theorem apply_draw_cores : (s.apply .draw).cores = s.cores := rfl
@[simp] theorem apply_draw_srCtr : (s.apply .draw).srCtr = s.srCtr := rfl
@[simp] theorem apply_draw_rings : (s.apply .draw).rings = s.rings := rfl
@[simp] theorem apply_draw_issues : (s.apply .draw).issues = s.issues := rfl
@[simp] theorem apply_draw_reqs : (s.apply .draw).reqs = s.reqs := rfl
@[simp] theorem apply_draw_stampNext : (s.apply .draw).stampNext = s.stampNext := rfl
@[simp] theorem apply_draw_periods : (s.apply .draw).periods = s.periods := rfl
@[simp] theorem apply_draw_sampler : (s.apply .draw).sampler = s.sampler := rfl
@[simp] theorem apply_draw_pages : (s.apply .draw).pages = s.pages := rfl
@[simp] theorem apply_draw_devRings : (s.apply .draw).devRings = s.devRings := rfl
@[simp] theorem apply_draw_mig : (s.apply .draw).mig = s.mig := rfl
@[simp] theorem apply_draw_packs : (s.apply .draw).packs = s.packs := rfl
@[simp] theorem apply_draw_packNext : (s.apply .draw).packNext = s.packNext := rfl
@[simp] theorem apply_draw_xlt : (s.apply .draw).xlt = s.xlt := rfl
@[simp] theorem apply_draw_tiers : (s.apply .draw).tiers = s.tiers := rfl
@[simp] theorem apply_draw_banks : (s.apply .draw).banks = s.banks := rfl
@[simp] theorem apply_draw_march : (s.apply .draw).march = s.march := rfl
@[simp] theorem apply_draw_cmpErrs : (s.apply .draw).cmpErrs = s.cmpErrs := rfl
@[simp] theorem apply_draw_attErrs : (s.apply .draw).attErrs = s.attErrs := rfl
@[simp] theorem apply_draw_hlErrs : (s.apply .draw).hlErrs = s.hlErrs := rfl
@[simp] theorem apply_draw_cmpInvalidating : (s.apply .draw).cmpInvalidating = s.cmpInvalidating := rfl
@[simp] theorem apply_draw_cmpCache : (s.apply .draw).cmpCache = s.cmpCache := rfl
@[simp] theorem apply_draw_port : (s.apply .draw).port = s.port := rfl
@[simp] theorem apply_draw_mailbox : (s.apply .draw).mailbox = s.mailbox := rfl
@[simp] theorem apply_draw_links : (s.apply .draw).links = s.links := rfl
@[simp] theorem apply_draw_fabric : (s.apply .draw).fabric = s.fabric := rfl
@[simp] theorem apply_draw_outbound : (s.apply .draw).outbound = s.outbound := rfl
@[simp] theorem apply_draw_sec : (s.apply .draw).sec = s.sec := rfl
@[simp] theorem apply_draw_rotation : (s.apply .draw).rotation = s.rotation := rfl
@[simp] theorem apply_draw_sliceLate : (s.apply .draw).sliceLate = s.sliceLate := rfl
@[simp] theorem apply_draw_power : (s.apply .draw).power = s.power := rfl
@[simp] theorem apply_draw_flt : (s.apply .draw).flt = s.flt := rfl
@[simp] theorem apply_draw_free :
    (s.apply .draw).free = s.free + 1 := rfl

@[simp] theorem apply_msix_pending vector : (s.apply (.msix vector)).pending = s.pending := by simp only [State.apply]; (repeat' split) <;> rfl
@[simp] theorem apply_msix_ticks vector : (s.apply (.msix vector)).ticks = s.ticks := by simp only [State.apply]; (repeat' split) <;> rfl
@[simp] theorem apply_msix_free vector : (s.apply (.msix vector)).free = s.free := by simp only [State.apply]; (repeat' split) <;> rfl
@[simp] theorem apply_msix_mem vector : (s.apply (.msix vector)).mem = s.mem := by simp only [State.apply]; (repeat' split) <;> rfl
@[simp] theorem apply_msix_undef vector : (s.apply (.msix vector)).undef = s.undef := by simp only [State.apply]; (repeat' split) <;> rfl
@[simp] theorem apply_msix_marks vector : (s.apply (.msix vector)).marks = s.marks := by simp only [State.apply]; (repeat' split) <;> rfl
@[simp] theorem apply_msix_lineKey vector : (s.apply (.msix vector)).lineKey = s.lineKey := by simp only [State.apply]; (repeat' split) <;> rfl
@[simp] theorem apply_msix_regs vector : (s.apply (.msix vector)).regs = s.regs := by simp only [State.apply]; (repeat' split) <;> rfl
@[simp] theorem apply_msix_loader vector : (s.apply (.msix vector)).loader = s.loader := by simp only [State.apply]; (repeat' split) <;> rfl
@[simp] theorem apply_msix_ctxs vector : (s.apply (.msix vector)).ctxs = s.ctxs := by simp only [State.apply]; (repeat' split) <;> rfl
@[simp] theorem apply_msix_windows vector : (s.apply (.msix vector)).windows = s.windows := by simp only [State.apply]; (repeat' split) <;> rfl
@[simp] theorem apply_msix_hub vector : (s.apply (.msix vector)).hub = s.hub := by simp only [State.apply]; (repeat' split) <;> rfl
@[simp] theorem apply_msix_clusters vector : (s.apply (.msix vector)).clusters = s.clusters := by simp only [State.apply]; (repeat' split) <;> rfl
@[simp] theorem apply_msix_cores vector : (s.apply (.msix vector)).cores = s.cores := by simp only [State.apply]; (repeat' split) <;> rfl
@[simp] theorem apply_msix_srCtr vector : (s.apply (.msix vector)).srCtr = s.srCtr := by simp only [State.apply]; (repeat' split) <;> rfl
@[simp] theorem apply_msix_rings vector : (s.apply (.msix vector)).rings = s.rings := by simp only [State.apply]; (repeat' split) <;> rfl
@[simp] theorem apply_msix_issues vector : (s.apply (.msix vector)).issues = s.issues := by simp only [State.apply]; (repeat' split) <;> rfl
@[simp] theorem apply_msix_reqs vector : (s.apply (.msix vector)).reqs = s.reqs := by simp only [State.apply]; (repeat' split) <;> rfl
@[simp] theorem apply_msix_stampNext vector : (s.apply (.msix vector)).stampNext = s.stampNext := by simp only [State.apply]; (repeat' split) <;> rfl
@[simp] theorem apply_msix_periods vector : (s.apply (.msix vector)).periods = s.periods := by simp only [State.apply]; (repeat' split) <;> rfl
@[simp] theorem apply_msix_sampler vector : (s.apply (.msix vector)).sampler = s.sampler := by simp only [State.apply]; (repeat' split) <;> rfl
@[simp] theorem apply_msix_pages vector : (s.apply (.msix vector)).pages = s.pages := by simp only [State.apply]; (repeat' split) <;> rfl
@[simp] theorem apply_msix_devRings vector : (s.apply (.msix vector)).devRings = s.devRings := by simp only [State.apply]; (repeat' split) <;> rfl
@[simp] theorem apply_msix_mig vector : (s.apply (.msix vector)).mig = s.mig := by simp only [State.apply]; (repeat' split) <;> rfl
@[simp] theorem apply_msix_packs vector : (s.apply (.msix vector)).packs = s.packs := by simp only [State.apply]; (repeat' split) <;> rfl
@[simp] theorem apply_msix_packNext vector : (s.apply (.msix vector)).packNext = s.packNext := by simp only [State.apply]; (repeat' split) <;> rfl
@[simp] theorem apply_msix_xlt vector : (s.apply (.msix vector)).xlt = s.xlt := by simp only [State.apply]; (repeat' split) <;> rfl
@[simp] theorem apply_msix_tiers vector : (s.apply (.msix vector)).tiers = s.tiers := by simp only [State.apply]; (repeat' split) <;> rfl
@[simp] theorem apply_msix_banks vector : (s.apply (.msix vector)).banks = s.banks := by simp only [State.apply]; (repeat' split) <;> rfl
@[simp] theorem apply_msix_march vector : (s.apply (.msix vector)).march = s.march := by simp only [State.apply]; (repeat' split) <;> rfl
@[simp] theorem apply_msix_cmpErrs vector : (s.apply (.msix vector)).cmpErrs = s.cmpErrs := by simp only [State.apply]; (repeat' split) <;> rfl
@[simp] theorem apply_msix_attErrs vector : (s.apply (.msix vector)).attErrs = s.attErrs := by simp only [State.apply]; (repeat' split) <;> rfl
@[simp] theorem apply_msix_hlErrs vector : (s.apply (.msix vector)).hlErrs = s.hlErrs := by simp only [State.apply]; (repeat' split) <;> rfl
@[simp] theorem apply_msix_cmpInvalidating vector : (s.apply (.msix vector)).cmpInvalidating = s.cmpInvalidating := by simp only [State.apply]; (repeat' split) <;> rfl
@[simp] theorem apply_msix_cmpCache vector : (s.apply (.msix vector)).cmpCache = s.cmpCache := by simp only [State.apply]; (repeat' split) <;> rfl
@[simp] theorem apply_msix_mailbox vector : (s.apply (.msix vector)).mailbox = s.mailbox := by simp only [State.apply]; (repeat' split) <;> rfl
@[simp] theorem apply_msix_links vector : (s.apply (.msix vector)).links = s.links := by simp only [State.apply]; (repeat' split) <;> rfl
@[simp] theorem apply_msix_fabric vector : (s.apply (.msix vector)).fabric = s.fabric := by simp only [State.apply]; (repeat' split) <;> rfl
@[simp] theorem apply_msix_outbound vector : (s.apply (.msix vector)).outbound = s.outbound := by simp only [State.apply]; (repeat' split) <;> rfl
@[simp] theorem apply_msix_sec vector : (s.apply (.msix vector)).sec = s.sec := by simp only [State.apply]; (repeat' split) <;> rfl
@[simp] theorem apply_msix_rotation vector : (s.apply (.msix vector)).rotation = s.rotation := by simp only [State.apply]; (repeat' split) <;> rfl
@[simp] theorem apply_msix_sliceLate vector : (s.apply (.msix vector)).sliceLate = s.sliceLate := by simp only [State.apply]; (repeat' split) <;> rfl
@[simp] theorem apply_msix_power vector : (s.apply (.msix vector)).power = s.power := by simp only [State.apply]; (repeat' split) <;> rfl
@[simp] theorem apply_msix_flt vector : (s.apply (.msix vector)).flt = s.flt := by simp only [State.apply]; (repeat' split) <;> rfl
theorem apply_msix_outbox (vector : Nat) : (s.apply (.msix vector)).outbox =
    if s.port.msixOn && (s.fget Fld.cxlLinkState == 2 && s.port.canSend vector) then s.outbox ++ [.msix vector] else s.outbox := by
  simp only [State.apply]
  cases s.port.msixOn <;> cases (s.fget Fld.cxlLinkState == 2 && s.port.canSend vector) <;> rfl
theorem apply_msix_port (vector : Nat) : (s.apply (.msix vector)).port =
    if s.port.msixOn && !(s.fget Fld.cxlLinkState == 2 && s.port.canSend vector) then s.port.setPending vector else s.port := by
  simp only [State.apply]
  cases s.port.msixOn <;> cases (s.fget Fld.cxlLinkState == 2 && s.port.canSend vector) <;> rfl

@[simp] theorem apply_tick_pending : (s.apply .tick).pending = s.pending := rfl
@[simp] theorem apply_tick_outbox : (s.apply .tick).outbox = s.outbox := rfl
@[simp] theorem apply_tick_free : (s.apply .tick).free = s.free := rfl
@[simp] theorem apply_tick_mem : (s.apply .tick).mem = s.mem := rfl
@[simp] theorem apply_tick_undef : (s.apply .tick).undef = s.undef := rfl
@[simp] theorem apply_tick_marks : (s.apply .tick).marks = s.marks := rfl
@[simp] theorem apply_tick_lineKey : (s.apply .tick).lineKey = s.lineKey := rfl
@[simp] theorem apply_tick_regs : (s.apply .tick).regs = s.regs := rfl
@[simp] theorem apply_tick_loader : (s.apply .tick).loader = s.loader := rfl
@[simp] theorem apply_tick_ctxs : (s.apply .tick).ctxs = s.ctxs := rfl
@[simp] theorem apply_tick_windows : (s.apply .tick).windows = s.windows := rfl
@[simp] theorem apply_tick_hub : (s.apply .tick).hub = s.hub := rfl
@[simp] theorem apply_tick_clusters : (s.apply .tick).clusters = s.clusters := rfl
@[simp] theorem apply_tick_cores : (s.apply .tick).cores = s.cores := rfl
@[simp] theorem apply_tick_srCtr : (s.apply .tick).srCtr = s.srCtr := rfl
@[simp] theorem apply_tick_rings : (s.apply .tick).rings = s.rings := rfl
@[simp] theorem apply_tick_issues : (s.apply .tick).issues = s.issues := rfl
@[simp] theorem apply_tick_reqs : (s.apply .tick).reqs = s.reqs := rfl
@[simp] theorem apply_tick_stampNext : (s.apply .tick).stampNext = s.stampNext := rfl
@[simp] theorem apply_tick_periods : (s.apply .tick).periods = s.periods := rfl
@[simp] theorem apply_tick_sampler : (s.apply .tick).sampler = s.sampler := rfl
@[simp] theorem apply_tick_pages : (s.apply .tick).pages = s.pages := rfl
@[simp] theorem apply_tick_devRings : (s.apply .tick).devRings = s.devRings := rfl
@[simp] theorem apply_tick_mig : (s.apply .tick).mig = s.mig := rfl
@[simp] theorem apply_tick_packs : (s.apply .tick).packs = s.packs := rfl
@[simp] theorem apply_tick_packNext : (s.apply .tick).packNext = s.packNext := rfl
@[simp] theorem apply_tick_xlt : (s.apply .tick).xlt = s.xlt := rfl
@[simp] theorem apply_tick_tiers : (s.apply .tick).tiers = s.tiers := rfl
@[simp] theorem apply_tick_banks : (s.apply .tick).banks = s.banks := rfl
@[simp] theorem apply_tick_march : (s.apply .tick).march = s.march := rfl
@[simp] theorem apply_tick_cmpErrs : (s.apply .tick).cmpErrs = s.cmpErrs := rfl
@[simp] theorem apply_tick_attErrs : (s.apply .tick).attErrs = s.attErrs := rfl
@[simp] theorem apply_tick_hlErrs : (s.apply .tick).hlErrs = s.hlErrs := rfl
@[simp] theorem apply_tick_cmpInvalidating : (s.apply .tick).cmpInvalidating = s.cmpInvalidating := rfl
@[simp] theorem apply_tick_cmpCache : (s.apply .tick).cmpCache = s.cmpCache := rfl
@[simp] theorem apply_tick_mailbox : (s.apply .tick).mailbox = s.mailbox := rfl
@[simp] theorem apply_tick_links : (s.apply .tick).links = s.links := rfl
@[simp] theorem apply_tick_fabric : (s.apply .tick).fabric = s.fabric := rfl
@[simp] theorem apply_tick_outbound : (s.apply .tick).outbound = s.outbound := rfl
@[simp] theorem apply_tick_sec : (s.apply .tick).sec = s.sec := rfl
@[simp] theorem apply_tick_rotation : (s.apply .tick).rotation = s.rotation := rfl
@[simp] theorem apply_tick_sliceLate : (s.apply .tick).sliceLate = s.sliceLate := rfl
@[simp] theorem apply_tick_power : (s.apply .tick).power = s.power := rfl
@[simp] theorem apply_tick_flt : (s.apply .tick).flt = s.flt := rfl
@[simp] theorem apply_tick_ticks :
    (s.apply .tick).ticks = s.ticks + 1 := rfl
@[simp] theorem apply_tick_port :
    (s.apply .tick).port = s.port.advance (s.fget Fld.cxlLinkState == 2) := rfl

@[simp] theorem apply_loader_pending f : (s.apply (.loader f)).pending = s.pending := rfl
@[simp] theorem apply_loader_outbox f : (s.apply (.loader f)).outbox = s.outbox := rfl
@[simp] theorem apply_loader_ticks f : (s.apply (.loader f)).ticks = s.ticks := rfl
@[simp] theorem apply_loader_free f : (s.apply (.loader f)).free = s.free := rfl
@[simp] theorem apply_loader_mem f : (s.apply (.loader f)).mem = s.mem := rfl
@[simp] theorem apply_loader_undef f : (s.apply (.loader f)).undef = s.undef := rfl
@[simp] theorem apply_loader_marks f : (s.apply (.loader f)).marks = s.marks := rfl
@[simp] theorem apply_loader_lineKey f : (s.apply (.loader f)).lineKey = s.lineKey := rfl
@[simp] theorem apply_loader_regs f : (s.apply (.loader f)).regs = s.regs := rfl
@[simp] theorem apply_loader_ctxs f : (s.apply (.loader f)).ctxs = s.ctxs := rfl
@[simp] theorem apply_loader_windows f : (s.apply (.loader f)).windows = s.windows := rfl
@[simp] theorem apply_loader_hub f : (s.apply (.loader f)).hub = s.hub := rfl
@[simp] theorem apply_loader_clusters f : (s.apply (.loader f)).clusters = s.clusters := rfl
@[simp] theorem apply_loader_cores f : (s.apply (.loader f)).cores = s.cores := rfl
@[simp] theorem apply_loader_srCtr f : (s.apply (.loader f)).srCtr = s.srCtr := rfl
@[simp] theorem apply_loader_rings f : (s.apply (.loader f)).rings = s.rings := rfl
@[simp] theorem apply_loader_issues f : (s.apply (.loader f)).issues = s.issues := rfl
@[simp] theorem apply_loader_reqs f : (s.apply (.loader f)).reqs = s.reqs := rfl
@[simp] theorem apply_loader_stampNext f : (s.apply (.loader f)).stampNext = s.stampNext := rfl
@[simp] theorem apply_loader_periods f : (s.apply (.loader f)).periods = s.periods := rfl
@[simp] theorem apply_loader_sampler f : (s.apply (.loader f)).sampler = s.sampler := rfl
@[simp] theorem apply_loader_pages f : (s.apply (.loader f)).pages = s.pages := rfl
@[simp] theorem apply_loader_devRings f : (s.apply (.loader f)).devRings = s.devRings := rfl
@[simp] theorem apply_loader_mig f : (s.apply (.loader f)).mig = s.mig := rfl
@[simp] theorem apply_loader_packs f : (s.apply (.loader f)).packs = s.packs := rfl
@[simp] theorem apply_loader_packNext f : (s.apply (.loader f)).packNext = s.packNext := rfl
@[simp] theorem apply_loader_xlt f : (s.apply (.loader f)).xlt = s.xlt := rfl
@[simp] theorem apply_loader_tiers f : (s.apply (.loader f)).tiers = s.tiers := rfl
@[simp] theorem apply_loader_banks f : (s.apply (.loader f)).banks = s.banks := rfl
@[simp] theorem apply_loader_march f : (s.apply (.loader f)).march = s.march := rfl
@[simp] theorem apply_loader_cmpErrs f : (s.apply (.loader f)).cmpErrs = s.cmpErrs := rfl
@[simp] theorem apply_loader_attErrs f : (s.apply (.loader f)).attErrs = s.attErrs := rfl
@[simp] theorem apply_loader_hlErrs f : (s.apply (.loader f)).hlErrs = s.hlErrs := rfl
@[simp] theorem apply_loader_cmpInvalidating f : (s.apply (.loader f)).cmpInvalidating = s.cmpInvalidating := rfl
@[simp] theorem apply_loader_cmpCache f : (s.apply (.loader f)).cmpCache = s.cmpCache := rfl
@[simp] theorem apply_loader_port f : (s.apply (.loader f)).port = s.port := rfl
@[simp] theorem apply_loader_mailbox f : (s.apply (.loader f)).mailbox = s.mailbox := rfl
@[simp] theorem apply_loader_links f : (s.apply (.loader f)).links = s.links := rfl
@[simp] theorem apply_loader_fabric f : (s.apply (.loader f)).fabric = s.fabric := rfl
@[simp] theorem apply_loader_outbound f : (s.apply (.loader f)).outbound = s.outbound := rfl
@[simp] theorem apply_loader_sec f : (s.apply (.loader f)).sec = s.sec := rfl
@[simp] theorem apply_loader_rotation f : (s.apply (.loader f)).rotation = s.rotation := rfl
@[simp] theorem apply_loader_sliceLate f : (s.apply (.loader f)).sliceLate = s.sliceLate := rfl
@[simp] theorem apply_loader_power f : (s.apply (.loader f)).power = s.power := rfl
@[simp] theorem apply_loader_flt f : (s.apply (.loader f)).flt = s.flt := rfl
@[simp] theorem apply_loader_loader f :
    (s.apply (.loader f)).loader = f s.loader := rfl

@[simp] theorem apply_ctx_pending c f : (s.apply (.ctx c f)).pending = s.pending := rfl
@[simp] theorem apply_ctx_outbox c f : (s.apply (.ctx c f)).outbox = s.outbox := rfl
@[simp] theorem apply_ctx_ticks c f : (s.apply (.ctx c f)).ticks = s.ticks := rfl
@[simp] theorem apply_ctx_free c f : (s.apply (.ctx c f)).free = s.free := rfl
@[simp] theorem apply_ctx_mem c f : (s.apply (.ctx c f)).mem = s.mem := rfl
@[simp] theorem apply_ctx_undef c f : (s.apply (.ctx c f)).undef = s.undef := rfl
@[simp] theorem apply_ctx_marks c f : (s.apply (.ctx c f)).marks = s.marks := rfl
@[simp] theorem apply_ctx_lineKey c f : (s.apply (.ctx c f)).lineKey = s.lineKey := rfl
@[simp] theorem apply_ctx_regs c f : (s.apply (.ctx c f)).regs = s.regs := rfl
@[simp] theorem apply_ctx_loader c f : (s.apply (.ctx c f)).loader = s.loader := rfl
@[simp] theorem apply_ctx_windows c f : (s.apply (.ctx c f)).windows = s.windows := rfl
@[simp] theorem apply_ctx_hub c f : (s.apply (.ctx c f)).hub = s.hub := rfl
@[simp] theorem apply_ctx_clusters c f : (s.apply (.ctx c f)).clusters = s.clusters := rfl
@[simp] theorem apply_ctx_cores c f : (s.apply (.ctx c f)).cores = s.cores := rfl
@[simp] theorem apply_ctx_srCtr c f : (s.apply (.ctx c f)).srCtr = s.srCtr := rfl
@[simp] theorem apply_ctx_rings c f : (s.apply (.ctx c f)).rings = s.rings := rfl
@[simp] theorem apply_ctx_issues c f : (s.apply (.ctx c f)).issues = s.issues := rfl
@[simp] theorem apply_ctx_reqs c f : (s.apply (.ctx c f)).reqs = s.reqs := rfl
@[simp] theorem apply_ctx_stampNext c f : (s.apply (.ctx c f)).stampNext = s.stampNext := rfl
@[simp] theorem apply_ctx_periods c f : (s.apply (.ctx c f)).periods = s.periods := rfl
@[simp] theorem apply_ctx_sampler c f : (s.apply (.ctx c f)).sampler = s.sampler := rfl
@[simp] theorem apply_ctx_pages c f : (s.apply (.ctx c f)).pages = s.pages := rfl
@[simp] theorem apply_ctx_devRings c f : (s.apply (.ctx c f)).devRings = s.devRings := rfl
@[simp] theorem apply_ctx_mig c f : (s.apply (.ctx c f)).mig = s.mig := rfl
@[simp] theorem apply_ctx_packs c f : (s.apply (.ctx c f)).packs = s.packs := rfl
@[simp] theorem apply_ctx_packNext c f : (s.apply (.ctx c f)).packNext = s.packNext := rfl
@[simp] theorem apply_ctx_xlt c f : (s.apply (.ctx c f)).xlt = s.xlt := rfl
@[simp] theorem apply_ctx_tiers c f : (s.apply (.ctx c f)).tiers = s.tiers := rfl
@[simp] theorem apply_ctx_banks c f : (s.apply (.ctx c f)).banks = s.banks := rfl
@[simp] theorem apply_ctx_march c f : (s.apply (.ctx c f)).march = s.march := rfl
@[simp] theorem apply_ctx_cmpErrs c f : (s.apply (.ctx c f)).cmpErrs = s.cmpErrs := rfl
@[simp] theorem apply_ctx_attErrs c f : (s.apply (.ctx c f)).attErrs = s.attErrs := rfl
@[simp] theorem apply_ctx_hlErrs c f : (s.apply (.ctx c f)).hlErrs = s.hlErrs := rfl
@[simp] theorem apply_ctx_cmpInvalidating c f : (s.apply (.ctx c f)).cmpInvalidating = s.cmpInvalidating := rfl
@[simp] theorem apply_ctx_cmpCache c f : (s.apply (.ctx c f)).cmpCache = s.cmpCache := rfl
@[simp] theorem apply_ctx_port c f : (s.apply (.ctx c f)).port = s.port := rfl
@[simp] theorem apply_ctx_mailbox c f : (s.apply (.ctx c f)).mailbox = s.mailbox := rfl
@[simp] theorem apply_ctx_links c f : (s.apply (.ctx c f)).links = s.links := rfl
@[simp] theorem apply_ctx_fabric c f : (s.apply (.ctx c f)).fabric = s.fabric := rfl
@[simp] theorem apply_ctx_outbound c f : (s.apply (.ctx c f)).outbound = s.outbound := rfl
@[simp] theorem apply_ctx_sec c f : (s.apply (.ctx c f)).sec = s.sec := rfl
@[simp] theorem apply_ctx_rotation c f : (s.apply (.ctx c f)).rotation = s.rotation := rfl
@[simp] theorem apply_ctx_sliceLate c f : (s.apply (.ctx c f)).sliceLate = s.sliceLate := rfl
@[simp] theorem apply_ctx_power c f : (s.apply (.ctx c f)).power = s.power := rfl
@[simp] theorem apply_ctx_flt c f : (s.apply (.ctx c f)).flt = s.flt := rfl
@[simp] theorem apply_ctx_ctxs c f :
    (s.apply (.ctx c f)).ctxs = tabMod (fun _ => {}) s.ctxs c f := rfl

@[simp] theorem apply_windows_pending f : (s.apply (.windows f)).pending = s.pending := rfl
@[simp] theorem apply_windows_outbox f : (s.apply (.windows f)).outbox = s.outbox := rfl
@[simp] theorem apply_windows_ticks f : (s.apply (.windows f)).ticks = s.ticks := rfl
@[simp] theorem apply_windows_free f : (s.apply (.windows f)).free = s.free := rfl
@[simp] theorem apply_windows_mem f : (s.apply (.windows f)).mem = s.mem := rfl
@[simp] theorem apply_windows_undef f : (s.apply (.windows f)).undef = s.undef := rfl
@[simp] theorem apply_windows_marks f : (s.apply (.windows f)).marks = s.marks := rfl
@[simp] theorem apply_windows_lineKey f : (s.apply (.windows f)).lineKey = s.lineKey := rfl
@[simp] theorem apply_windows_regs f : (s.apply (.windows f)).regs = s.regs := rfl
@[simp] theorem apply_windows_loader f : (s.apply (.windows f)).loader = s.loader := rfl
@[simp] theorem apply_windows_ctxs f : (s.apply (.windows f)).ctxs = s.ctxs := rfl
@[simp] theorem apply_windows_hub f : (s.apply (.windows f)).hub = s.hub := rfl
@[simp] theorem apply_windows_clusters f : (s.apply (.windows f)).clusters = s.clusters := rfl
@[simp] theorem apply_windows_cores f : (s.apply (.windows f)).cores = s.cores := rfl
@[simp] theorem apply_windows_srCtr f : (s.apply (.windows f)).srCtr = s.srCtr := rfl
@[simp] theorem apply_windows_rings f : (s.apply (.windows f)).rings = s.rings := rfl
@[simp] theorem apply_windows_issues f : (s.apply (.windows f)).issues = s.issues := rfl
@[simp] theorem apply_windows_reqs f : (s.apply (.windows f)).reqs = s.reqs := rfl
@[simp] theorem apply_windows_stampNext f : (s.apply (.windows f)).stampNext = s.stampNext := rfl
@[simp] theorem apply_windows_periods f : (s.apply (.windows f)).periods = s.periods := rfl
@[simp] theorem apply_windows_sampler f : (s.apply (.windows f)).sampler = s.sampler := rfl
@[simp] theorem apply_windows_pages f : (s.apply (.windows f)).pages = s.pages := rfl
@[simp] theorem apply_windows_devRings f : (s.apply (.windows f)).devRings = s.devRings := rfl
@[simp] theorem apply_windows_mig f : (s.apply (.windows f)).mig = s.mig := rfl
@[simp] theorem apply_windows_packs f : (s.apply (.windows f)).packs = s.packs := rfl
@[simp] theorem apply_windows_packNext f : (s.apply (.windows f)).packNext = s.packNext := rfl
@[simp] theorem apply_windows_xlt f : (s.apply (.windows f)).xlt = s.xlt := rfl
@[simp] theorem apply_windows_tiers f : (s.apply (.windows f)).tiers = s.tiers := rfl
@[simp] theorem apply_windows_banks f : (s.apply (.windows f)).banks = s.banks := rfl
@[simp] theorem apply_windows_march f : (s.apply (.windows f)).march = s.march := rfl
@[simp] theorem apply_windows_cmpErrs f : (s.apply (.windows f)).cmpErrs = s.cmpErrs := rfl
@[simp] theorem apply_windows_attErrs f : (s.apply (.windows f)).attErrs = s.attErrs := rfl
@[simp] theorem apply_windows_hlErrs f : (s.apply (.windows f)).hlErrs = s.hlErrs := rfl
@[simp] theorem apply_windows_cmpInvalidating f : (s.apply (.windows f)).cmpInvalidating = s.cmpInvalidating := rfl
@[simp] theorem apply_windows_cmpCache f : (s.apply (.windows f)).cmpCache = s.cmpCache := rfl
@[simp] theorem apply_windows_port f : (s.apply (.windows f)).port = s.port := rfl
@[simp] theorem apply_windows_mailbox f : (s.apply (.windows f)).mailbox = s.mailbox := rfl
@[simp] theorem apply_windows_links f : (s.apply (.windows f)).links = s.links := rfl
@[simp] theorem apply_windows_fabric f : (s.apply (.windows f)).fabric = s.fabric := rfl
@[simp] theorem apply_windows_outbound f : (s.apply (.windows f)).outbound = s.outbound := rfl
@[simp] theorem apply_windows_sec f : (s.apply (.windows f)).sec = s.sec := rfl
@[simp] theorem apply_windows_rotation f : (s.apply (.windows f)).rotation = s.rotation := rfl
@[simp] theorem apply_windows_sliceLate f : (s.apply (.windows f)).sliceLate = s.sliceLate := rfl
@[simp] theorem apply_windows_power f : (s.apply (.windows f)).power = s.power := rfl
@[simp] theorem apply_windows_flt f : (s.apply (.windows f)).flt = s.flt := rfl
@[simp] theorem apply_windows_windows f :
    (s.apply (.windows f)).windows = f s.windows := rfl

@[simp] theorem apply_hub_pending f : (s.apply (.hub f)).pending = s.pending := rfl
@[simp] theorem apply_hub_outbox f : (s.apply (.hub f)).outbox = s.outbox := rfl
@[simp] theorem apply_hub_ticks f : (s.apply (.hub f)).ticks = s.ticks := rfl
@[simp] theorem apply_hub_free f : (s.apply (.hub f)).free = s.free := rfl
@[simp] theorem apply_hub_mem f : (s.apply (.hub f)).mem = s.mem := rfl
@[simp] theorem apply_hub_undef f : (s.apply (.hub f)).undef = s.undef := rfl
@[simp] theorem apply_hub_marks f : (s.apply (.hub f)).marks = s.marks := rfl
@[simp] theorem apply_hub_lineKey f : (s.apply (.hub f)).lineKey = s.lineKey := rfl
@[simp] theorem apply_hub_regs f : (s.apply (.hub f)).regs = s.regs := rfl
@[simp] theorem apply_hub_loader f : (s.apply (.hub f)).loader = s.loader := rfl
@[simp] theorem apply_hub_ctxs f : (s.apply (.hub f)).ctxs = s.ctxs := rfl
@[simp] theorem apply_hub_windows f : (s.apply (.hub f)).windows = s.windows := rfl
@[simp] theorem apply_hub_clusters f : (s.apply (.hub f)).clusters = s.clusters := rfl
@[simp] theorem apply_hub_cores f : (s.apply (.hub f)).cores = s.cores := rfl
@[simp] theorem apply_hub_srCtr f : (s.apply (.hub f)).srCtr = s.srCtr := rfl
@[simp] theorem apply_hub_rings f : (s.apply (.hub f)).rings = s.rings := rfl
@[simp] theorem apply_hub_issues f : (s.apply (.hub f)).issues = s.issues := rfl
@[simp] theorem apply_hub_reqs f : (s.apply (.hub f)).reqs = s.reqs := rfl
@[simp] theorem apply_hub_stampNext f : (s.apply (.hub f)).stampNext = s.stampNext := rfl
@[simp] theorem apply_hub_periods f : (s.apply (.hub f)).periods = s.periods := rfl
@[simp] theorem apply_hub_sampler f : (s.apply (.hub f)).sampler = s.sampler := rfl
@[simp] theorem apply_hub_pages f : (s.apply (.hub f)).pages = s.pages := rfl
@[simp] theorem apply_hub_devRings f : (s.apply (.hub f)).devRings = s.devRings := rfl
@[simp] theorem apply_hub_mig f : (s.apply (.hub f)).mig = s.mig := rfl
@[simp] theorem apply_hub_packs f : (s.apply (.hub f)).packs = s.packs := rfl
@[simp] theorem apply_hub_packNext f : (s.apply (.hub f)).packNext = s.packNext := rfl
@[simp] theorem apply_hub_xlt f : (s.apply (.hub f)).xlt = s.xlt := rfl
@[simp] theorem apply_hub_tiers f : (s.apply (.hub f)).tiers = s.tiers := rfl
@[simp] theorem apply_hub_banks f : (s.apply (.hub f)).banks = s.banks := rfl
@[simp] theorem apply_hub_march f : (s.apply (.hub f)).march = s.march := rfl
@[simp] theorem apply_hub_cmpErrs f : (s.apply (.hub f)).cmpErrs = s.cmpErrs := rfl
@[simp] theorem apply_hub_attErrs f : (s.apply (.hub f)).attErrs = s.attErrs := rfl
@[simp] theorem apply_hub_hlErrs f : (s.apply (.hub f)).hlErrs = s.hlErrs := rfl
@[simp] theorem apply_hub_cmpInvalidating f : (s.apply (.hub f)).cmpInvalidating = s.cmpInvalidating := rfl
@[simp] theorem apply_hub_cmpCache f : (s.apply (.hub f)).cmpCache = s.cmpCache := rfl
@[simp] theorem apply_hub_port f : (s.apply (.hub f)).port = s.port := rfl
@[simp] theorem apply_hub_mailbox f : (s.apply (.hub f)).mailbox = s.mailbox := rfl
@[simp] theorem apply_hub_links f : (s.apply (.hub f)).links = s.links := rfl
@[simp] theorem apply_hub_fabric f : (s.apply (.hub f)).fabric = s.fabric := rfl
@[simp] theorem apply_hub_outbound f : (s.apply (.hub f)).outbound = s.outbound := rfl
@[simp] theorem apply_hub_sec f : (s.apply (.hub f)).sec = s.sec := rfl
@[simp] theorem apply_hub_rotation f : (s.apply (.hub f)).rotation = s.rotation := rfl
@[simp] theorem apply_hub_sliceLate f : (s.apply (.hub f)).sliceLate = s.sliceLate := rfl
@[simp] theorem apply_hub_power f : (s.apply (.hub f)).power = s.power := rfl
@[simp] theorem apply_hub_flt f : (s.apply (.hub f)).flt = s.flt := rfl
@[simp] theorem apply_hub_hub f :
    (s.apply (.hub f)).hub = f s.hub := rfl

@[simp] theorem apply_cluster_pending k f : (s.apply (.cluster k f)).pending = s.pending := rfl
@[simp] theorem apply_cluster_outbox k f : (s.apply (.cluster k f)).outbox = s.outbox := rfl
@[simp] theorem apply_cluster_ticks k f : (s.apply (.cluster k f)).ticks = s.ticks := rfl
@[simp] theorem apply_cluster_free k f : (s.apply (.cluster k f)).free = s.free := rfl
@[simp] theorem apply_cluster_mem k f : (s.apply (.cluster k f)).mem = s.mem := rfl
@[simp] theorem apply_cluster_undef k f : (s.apply (.cluster k f)).undef = s.undef := rfl
@[simp] theorem apply_cluster_marks k f : (s.apply (.cluster k f)).marks = s.marks := rfl
@[simp] theorem apply_cluster_lineKey k f : (s.apply (.cluster k f)).lineKey = s.lineKey := rfl
@[simp] theorem apply_cluster_regs k f : (s.apply (.cluster k f)).regs = s.regs := rfl
@[simp] theorem apply_cluster_loader k f : (s.apply (.cluster k f)).loader = s.loader := rfl
@[simp] theorem apply_cluster_ctxs k f : (s.apply (.cluster k f)).ctxs = s.ctxs := rfl
@[simp] theorem apply_cluster_windows k f : (s.apply (.cluster k f)).windows = s.windows := rfl
@[simp] theorem apply_cluster_hub k f : (s.apply (.cluster k f)).hub = s.hub := rfl
@[simp] theorem apply_cluster_cores k f : (s.apply (.cluster k f)).cores = s.cores := rfl
@[simp] theorem apply_cluster_srCtr k f : (s.apply (.cluster k f)).srCtr = s.srCtr := rfl
@[simp] theorem apply_cluster_rings k f : (s.apply (.cluster k f)).rings = s.rings := rfl
@[simp] theorem apply_cluster_issues k f : (s.apply (.cluster k f)).issues = s.issues := rfl
@[simp] theorem apply_cluster_reqs k f : (s.apply (.cluster k f)).reqs = s.reqs := rfl
@[simp] theorem apply_cluster_stampNext k f : (s.apply (.cluster k f)).stampNext = s.stampNext := rfl
@[simp] theorem apply_cluster_periods k f : (s.apply (.cluster k f)).periods = s.periods := rfl
@[simp] theorem apply_cluster_sampler k f : (s.apply (.cluster k f)).sampler = s.sampler := rfl
@[simp] theorem apply_cluster_pages k f : (s.apply (.cluster k f)).pages = s.pages := rfl
@[simp] theorem apply_cluster_devRings k f : (s.apply (.cluster k f)).devRings = s.devRings := rfl
@[simp] theorem apply_cluster_mig k f : (s.apply (.cluster k f)).mig = s.mig := rfl
@[simp] theorem apply_cluster_packs k f : (s.apply (.cluster k f)).packs = s.packs := rfl
@[simp] theorem apply_cluster_packNext k f : (s.apply (.cluster k f)).packNext = s.packNext := rfl
@[simp] theorem apply_cluster_xlt k f : (s.apply (.cluster k f)).xlt = s.xlt := rfl
@[simp] theorem apply_cluster_tiers k f : (s.apply (.cluster k f)).tiers = s.tiers := rfl
@[simp] theorem apply_cluster_banks k f : (s.apply (.cluster k f)).banks = s.banks := rfl
@[simp] theorem apply_cluster_march k f : (s.apply (.cluster k f)).march = s.march := rfl
@[simp] theorem apply_cluster_cmpErrs k f : (s.apply (.cluster k f)).cmpErrs = s.cmpErrs := rfl
@[simp] theorem apply_cluster_attErrs k f : (s.apply (.cluster k f)).attErrs = s.attErrs := rfl
@[simp] theorem apply_cluster_hlErrs k f : (s.apply (.cluster k f)).hlErrs = s.hlErrs := rfl
@[simp] theorem apply_cluster_cmpInvalidating k f : (s.apply (.cluster k f)).cmpInvalidating = s.cmpInvalidating := rfl
@[simp] theorem apply_cluster_cmpCache k f : (s.apply (.cluster k f)).cmpCache = s.cmpCache := rfl
@[simp] theorem apply_cluster_port k f : (s.apply (.cluster k f)).port = s.port := rfl
@[simp] theorem apply_cluster_mailbox k f : (s.apply (.cluster k f)).mailbox = s.mailbox := rfl
@[simp] theorem apply_cluster_links k f : (s.apply (.cluster k f)).links = s.links := rfl
@[simp] theorem apply_cluster_fabric k f : (s.apply (.cluster k f)).fabric = s.fabric := rfl
@[simp] theorem apply_cluster_outbound k f : (s.apply (.cluster k f)).outbound = s.outbound := rfl
@[simp] theorem apply_cluster_sec k f : (s.apply (.cluster k f)).sec = s.sec := rfl
@[simp] theorem apply_cluster_rotation k f : (s.apply (.cluster k f)).rotation = s.rotation := rfl
@[simp] theorem apply_cluster_sliceLate k f : (s.apply (.cluster k f)).sliceLate = s.sliceLate := rfl
@[simp] theorem apply_cluster_power k f : (s.apply (.cluster k f)).power = s.power := rfl
@[simp] theorem apply_cluster_flt k f : (s.apply (.cluster k f)).flt = s.flt := rfl
@[simp] theorem apply_cluster_clusters k f :
    (s.apply (.cluster k f)).clusters = tabMod (fun _ => {}) s.clusters k f := rfl

@[simp] theorem apply_core_pending n f : (s.apply (.core n f)).pending = s.pending := rfl
@[simp] theorem apply_core_outbox n f : (s.apply (.core n f)).outbox = s.outbox := rfl
@[simp] theorem apply_core_ticks n f : (s.apply (.core n f)).ticks = s.ticks := rfl
@[simp] theorem apply_core_free n f : (s.apply (.core n f)).free = s.free := rfl
@[simp] theorem apply_core_mem n f : (s.apply (.core n f)).mem = s.mem := rfl
@[simp] theorem apply_core_undef n f : (s.apply (.core n f)).undef = s.undef := rfl
@[simp] theorem apply_core_marks n f : (s.apply (.core n f)).marks = s.marks := rfl
@[simp] theorem apply_core_lineKey n f : (s.apply (.core n f)).lineKey = s.lineKey := rfl
@[simp] theorem apply_core_regs n f : (s.apply (.core n f)).regs = s.regs := rfl
@[simp] theorem apply_core_loader n f : (s.apply (.core n f)).loader = s.loader := rfl
@[simp] theorem apply_core_ctxs n f : (s.apply (.core n f)).ctxs = s.ctxs := rfl
@[simp] theorem apply_core_windows n f : (s.apply (.core n f)).windows = s.windows := rfl
@[simp] theorem apply_core_hub n f : (s.apply (.core n f)).hub = s.hub := rfl
@[simp] theorem apply_core_clusters n f : (s.apply (.core n f)).clusters = s.clusters := rfl
@[simp] theorem apply_core_srCtr n f : (s.apply (.core n f)).srCtr = s.srCtr := rfl
@[simp] theorem apply_core_rings n f : (s.apply (.core n f)).rings = s.rings := rfl
@[simp] theorem apply_core_issues n f : (s.apply (.core n f)).issues = s.issues := rfl
@[simp] theorem apply_core_reqs n f : (s.apply (.core n f)).reqs = s.reqs := rfl
@[simp] theorem apply_core_stampNext n f : (s.apply (.core n f)).stampNext = s.stampNext := rfl
@[simp] theorem apply_core_periods n f : (s.apply (.core n f)).periods = s.periods := rfl
@[simp] theorem apply_core_sampler n f : (s.apply (.core n f)).sampler = s.sampler := rfl
@[simp] theorem apply_core_pages n f : (s.apply (.core n f)).pages = s.pages := rfl
@[simp] theorem apply_core_devRings n f : (s.apply (.core n f)).devRings = s.devRings := rfl
@[simp] theorem apply_core_mig n f : (s.apply (.core n f)).mig = s.mig := rfl
@[simp] theorem apply_core_packs n f : (s.apply (.core n f)).packs = s.packs := rfl
@[simp] theorem apply_core_packNext n f : (s.apply (.core n f)).packNext = s.packNext := rfl
@[simp] theorem apply_core_xlt n f : (s.apply (.core n f)).xlt = s.xlt := rfl
@[simp] theorem apply_core_tiers n f : (s.apply (.core n f)).tiers = s.tiers := rfl
@[simp] theorem apply_core_banks n f : (s.apply (.core n f)).banks = s.banks := rfl
@[simp] theorem apply_core_march n f : (s.apply (.core n f)).march = s.march := rfl
@[simp] theorem apply_core_cmpErrs n f : (s.apply (.core n f)).cmpErrs = s.cmpErrs := rfl
@[simp] theorem apply_core_attErrs n f : (s.apply (.core n f)).attErrs = s.attErrs := rfl
@[simp] theorem apply_core_hlErrs n f : (s.apply (.core n f)).hlErrs = s.hlErrs := rfl
@[simp] theorem apply_core_cmpInvalidating n f : (s.apply (.core n f)).cmpInvalidating = s.cmpInvalidating := rfl
@[simp] theorem apply_core_cmpCache n f : (s.apply (.core n f)).cmpCache = s.cmpCache := rfl
@[simp] theorem apply_core_port n f : (s.apply (.core n f)).port = s.port := rfl
@[simp] theorem apply_core_mailbox n f : (s.apply (.core n f)).mailbox = s.mailbox := rfl
@[simp] theorem apply_core_links n f : (s.apply (.core n f)).links = s.links := rfl
@[simp] theorem apply_core_fabric n f : (s.apply (.core n f)).fabric = s.fabric := rfl
@[simp] theorem apply_core_outbound n f : (s.apply (.core n f)).outbound = s.outbound := rfl
@[simp] theorem apply_core_sec n f : (s.apply (.core n f)).sec = s.sec := rfl
@[simp] theorem apply_core_rotation n f : (s.apply (.core n f)).rotation = s.rotation := rfl
@[simp] theorem apply_core_sliceLate n f : (s.apply (.core n f)).sliceLate = s.sliceLate := rfl
@[simp] theorem apply_core_power n f : (s.apply (.core n f)).power = s.power := rfl
@[simp] theorem apply_core_flt n f : (s.apply (.core n f)).flt = s.flt := rfl
@[simp] theorem apply_core_cores n f :
    (s.apply (.core n f)).cores = tabMod (fun _ => {}) s.cores n f := rfl

@[simp] theorem apply_srCtr_pending k v : (s.apply (.srCtr k v)).pending = s.pending := rfl
@[simp] theorem apply_srCtr_outbox k v : (s.apply (.srCtr k v)).outbox = s.outbox := rfl
@[simp] theorem apply_srCtr_ticks k v : (s.apply (.srCtr k v)).ticks = s.ticks := rfl
@[simp] theorem apply_srCtr_free k v : (s.apply (.srCtr k v)).free = s.free := rfl
@[simp] theorem apply_srCtr_mem k v : (s.apply (.srCtr k v)).mem = s.mem := rfl
@[simp] theorem apply_srCtr_undef k v : (s.apply (.srCtr k v)).undef = s.undef := rfl
@[simp] theorem apply_srCtr_marks k v : (s.apply (.srCtr k v)).marks = s.marks := rfl
@[simp] theorem apply_srCtr_lineKey k v : (s.apply (.srCtr k v)).lineKey = s.lineKey := rfl
@[simp] theorem apply_srCtr_regs k v : (s.apply (.srCtr k v)).regs = s.regs := rfl
@[simp] theorem apply_srCtr_loader k v : (s.apply (.srCtr k v)).loader = s.loader := rfl
@[simp] theorem apply_srCtr_ctxs k v : (s.apply (.srCtr k v)).ctxs = s.ctxs := rfl
@[simp] theorem apply_srCtr_windows k v : (s.apply (.srCtr k v)).windows = s.windows := rfl
@[simp] theorem apply_srCtr_hub k v : (s.apply (.srCtr k v)).hub = s.hub := rfl
@[simp] theorem apply_srCtr_clusters k v : (s.apply (.srCtr k v)).clusters = s.clusters := rfl
@[simp] theorem apply_srCtr_cores k v : (s.apply (.srCtr k v)).cores = s.cores := rfl
@[simp] theorem apply_srCtr_rings k v : (s.apply (.srCtr k v)).rings = s.rings := rfl
@[simp] theorem apply_srCtr_issues k v : (s.apply (.srCtr k v)).issues = s.issues := rfl
@[simp] theorem apply_srCtr_reqs k v : (s.apply (.srCtr k v)).reqs = s.reqs := rfl
@[simp] theorem apply_srCtr_stampNext k v : (s.apply (.srCtr k v)).stampNext = s.stampNext := rfl
@[simp] theorem apply_srCtr_periods k v : (s.apply (.srCtr k v)).periods = s.periods := rfl
@[simp] theorem apply_srCtr_sampler k v : (s.apply (.srCtr k v)).sampler = s.sampler := rfl
@[simp] theorem apply_srCtr_pages k v : (s.apply (.srCtr k v)).pages = s.pages := rfl
@[simp] theorem apply_srCtr_devRings k v : (s.apply (.srCtr k v)).devRings = s.devRings := rfl
@[simp] theorem apply_srCtr_mig k v : (s.apply (.srCtr k v)).mig = s.mig := rfl
@[simp] theorem apply_srCtr_packs k v : (s.apply (.srCtr k v)).packs = s.packs := rfl
@[simp] theorem apply_srCtr_packNext k v : (s.apply (.srCtr k v)).packNext = s.packNext := rfl
@[simp] theorem apply_srCtr_xlt k v : (s.apply (.srCtr k v)).xlt = s.xlt := rfl
@[simp] theorem apply_srCtr_tiers k v : (s.apply (.srCtr k v)).tiers = s.tiers := rfl
@[simp] theorem apply_srCtr_banks k v : (s.apply (.srCtr k v)).banks = s.banks := rfl
@[simp] theorem apply_srCtr_march k v : (s.apply (.srCtr k v)).march = s.march := rfl
@[simp] theorem apply_srCtr_cmpErrs k v : (s.apply (.srCtr k v)).cmpErrs = s.cmpErrs := rfl
@[simp] theorem apply_srCtr_attErrs k v : (s.apply (.srCtr k v)).attErrs = s.attErrs := rfl
@[simp] theorem apply_srCtr_hlErrs k v : (s.apply (.srCtr k v)).hlErrs = s.hlErrs := rfl
@[simp] theorem apply_srCtr_cmpInvalidating k v : (s.apply (.srCtr k v)).cmpInvalidating = s.cmpInvalidating := rfl
@[simp] theorem apply_srCtr_cmpCache k v : (s.apply (.srCtr k v)).cmpCache = s.cmpCache := rfl
@[simp] theorem apply_srCtr_port k v : (s.apply (.srCtr k v)).port = s.port := rfl
@[simp] theorem apply_srCtr_mailbox k v : (s.apply (.srCtr k v)).mailbox = s.mailbox := rfl
@[simp] theorem apply_srCtr_links k v : (s.apply (.srCtr k v)).links = s.links := rfl
@[simp] theorem apply_srCtr_fabric k v : (s.apply (.srCtr k v)).fabric = s.fabric := rfl
@[simp] theorem apply_srCtr_outbound k v : (s.apply (.srCtr k v)).outbound = s.outbound := rfl
@[simp] theorem apply_srCtr_sec k v : (s.apply (.srCtr k v)).sec = s.sec := rfl
@[simp] theorem apply_srCtr_rotation k v : (s.apply (.srCtr k v)).rotation = s.rotation := rfl
@[simp] theorem apply_srCtr_sliceLate k v : (s.apply (.srCtr k v)).sliceLate = s.sliceLate := rfl
@[simp] theorem apply_srCtr_power k v : (s.apply (.srCtr k v)).power = s.power := rfl
@[simp] theorem apply_srCtr_flt k v : (s.apply (.srCtr k v)).flt = s.flt := rfl
@[simp] theorem apply_srCtr_srCtr k v :
    (s.apply (.srCtr k v)).srCtr = tabSet (fun _ => 0) s.srCtr k v := rfl

@[simp] theorem apply_srClear_pending base n : (s.apply (.srClear base n)).pending = s.pending := rfl
@[simp] theorem apply_srClear_outbox base n : (s.apply (.srClear base n)).outbox = s.outbox := rfl
@[simp] theorem apply_srClear_ticks base n : (s.apply (.srClear base n)).ticks = s.ticks := rfl
@[simp] theorem apply_srClear_free base n : (s.apply (.srClear base n)).free = s.free := rfl
@[simp] theorem apply_srClear_mem base n : (s.apply (.srClear base n)).mem = s.mem := rfl
@[simp] theorem apply_srClear_undef base n : (s.apply (.srClear base n)).undef = s.undef := rfl
@[simp] theorem apply_srClear_marks base n : (s.apply (.srClear base n)).marks = s.marks := rfl
@[simp] theorem apply_srClear_lineKey base n : (s.apply (.srClear base n)).lineKey = s.lineKey := rfl
@[simp] theorem apply_srClear_regs base n : (s.apply (.srClear base n)).regs = s.regs := rfl
@[simp] theorem apply_srClear_loader base n : (s.apply (.srClear base n)).loader = s.loader := rfl
@[simp] theorem apply_srClear_ctxs base n : (s.apply (.srClear base n)).ctxs = s.ctxs := rfl
@[simp] theorem apply_srClear_windows base n : (s.apply (.srClear base n)).windows = s.windows := rfl
@[simp] theorem apply_srClear_hub base n : (s.apply (.srClear base n)).hub = s.hub := rfl
@[simp] theorem apply_srClear_clusters base n : (s.apply (.srClear base n)).clusters = s.clusters := rfl
@[simp] theorem apply_srClear_cores base n : (s.apply (.srClear base n)).cores = s.cores := rfl
@[simp] theorem apply_srClear_rings base n : (s.apply (.srClear base n)).rings = s.rings := rfl
@[simp] theorem apply_srClear_issues base n : (s.apply (.srClear base n)).issues = s.issues := rfl
@[simp] theorem apply_srClear_reqs base n : (s.apply (.srClear base n)).reqs = s.reqs := rfl
@[simp] theorem apply_srClear_stampNext base n : (s.apply (.srClear base n)).stampNext = s.stampNext := rfl
@[simp] theorem apply_srClear_periods base n : (s.apply (.srClear base n)).periods = s.periods := rfl
@[simp] theorem apply_srClear_sampler base n : (s.apply (.srClear base n)).sampler = s.sampler := rfl
@[simp] theorem apply_srClear_pages base n : (s.apply (.srClear base n)).pages = s.pages := rfl
@[simp] theorem apply_srClear_devRings base n : (s.apply (.srClear base n)).devRings = s.devRings := rfl
@[simp] theorem apply_srClear_mig base n : (s.apply (.srClear base n)).mig = s.mig := rfl
@[simp] theorem apply_srClear_packs base n : (s.apply (.srClear base n)).packs = s.packs := rfl
@[simp] theorem apply_srClear_packNext base n : (s.apply (.srClear base n)).packNext = s.packNext := rfl
@[simp] theorem apply_srClear_xlt base n : (s.apply (.srClear base n)).xlt = s.xlt := rfl
@[simp] theorem apply_srClear_tiers base n : (s.apply (.srClear base n)).tiers = s.tiers := rfl
@[simp] theorem apply_srClear_banks base n : (s.apply (.srClear base n)).banks = s.banks := rfl
@[simp] theorem apply_srClear_march base n : (s.apply (.srClear base n)).march = s.march := rfl
@[simp] theorem apply_srClear_cmpErrs base n : (s.apply (.srClear base n)).cmpErrs = s.cmpErrs := rfl
@[simp] theorem apply_srClear_attErrs base n : (s.apply (.srClear base n)).attErrs = s.attErrs := rfl
@[simp] theorem apply_srClear_hlErrs base n : (s.apply (.srClear base n)).hlErrs = s.hlErrs := rfl
@[simp] theorem apply_srClear_cmpInvalidating base n : (s.apply (.srClear base n)).cmpInvalidating = s.cmpInvalidating := rfl
@[simp] theorem apply_srClear_cmpCache base n : (s.apply (.srClear base n)).cmpCache = s.cmpCache := rfl
@[simp] theorem apply_srClear_port base n : (s.apply (.srClear base n)).port = s.port := rfl
@[simp] theorem apply_srClear_mailbox base n : (s.apply (.srClear base n)).mailbox = s.mailbox := rfl
@[simp] theorem apply_srClear_links base n : (s.apply (.srClear base n)).links = s.links := rfl
@[simp] theorem apply_srClear_fabric base n : (s.apply (.srClear base n)).fabric = s.fabric := rfl
@[simp] theorem apply_srClear_outbound base n : (s.apply (.srClear base n)).outbound = s.outbound := rfl
@[simp] theorem apply_srClear_sec base n : (s.apply (.srClear base n)).sec = s.sec := rfl
@[simp] theorem apply_srClear_rotation base n : (s.apply (.srClear base n)).rotation = s.rotation := rfl
@[simp] theorem apply_srClear_sliceLate base n : (s.apply (.srClear base n)).sliceLate = s.sliceLate := rfl
@[simp] theorem apply_srClear_power base n : (s.apply (.srClear base n)).power = s.power := rfl
@[simp] theorem apply_srClear_flt base n : (s.apply (.srClear base n)).flt = s.flt := rfl
@[simp] theorem apply_srClear_srCtr base n :
    (s.apply (.srClear base n)).srCtr = tabClear s.srCtr base n := rfl

@[simp] theorem apply_ring_pending r f : (s.apply (.ring r f)).pending = s.pending := rfl
@[simp] theorem apply_ring_outbox r f : (s.apply (.ring r f)).outbox = s.outbox := rfl
@[simp] theorem apply_ring_ticks r f : (s.apply (.ring r f)).ticks = s.ticks := rfl
@[simp] theorem apply_ring_free r f : (s.apply (.ring r f)).free = s.free := rfl
@[simp] theorem apply_ring_mem r f : (s.apply (.ring r f)).mem = s.mem := rfl
@[simp] theorem apply_ring_undef r f : (s.apply (.ring r f)).undef = s.undef := rfl
@[simp] theorem apply_ring_marks r f : (s.apply (.ring r f)).marks = s.marks := rfl
@[simp] theorem apply_ring_lineKey r f : (s.apply (.ring r f)).lineKey = s.lineKey := rfl
@[simp] theorem apply_ring_regs r f : (s.apply (.ring r f)).regs = s.regs := rfl
@[simp] theorem apply_ring_loader r f : (s.apply (.ring r f)).loader = s.loader := rfl
@[simp] theorem apply_ring_ctxs r f : (s.apply (.ring r f)).ctxs = s.ctxs := rfl
@[simp] theorem apply_ring_windows r f : (s.apply (.ring r f)).windows = s.windows := rfl
@[simp] theorem apply_ring_hub r f : (s.apply (.ring r f)).hub = s.hub := rfl
@[simp] theorem apply_ring_clusters r f : (s.apply (.ring r f)).clusters = s.clusters := rfl
@[simp] theorem apply_ring_cores r f : (s.apply (.ring r f)).cores = s.cores := rfl
@[simp] theorem apply_ring_srCtr r f : (s.apply (.ring r f)).srCtr = s.srCtr := rfl
@[simp] theorem apply_ring_issues r f : (s.apply (.ring r f)).issues = s.issues := rfl
@[simp] theorem apply_ring_reqs r f : (s.apply (.ring r f)).reqs = s.reqs := rfl
@[simp] theorem apply_ring_stampNext r f : (s.apply (.ring r f)).stampNext = s.stampNext := rfl
@[simp] theorem apply_ring_periods r f : (s.apply (.ring r f)).periods = s.periods := rfl
@[simp] theorem apply_ring_sampler r f : (s.apply (.ring r f)).sampler = s.sampler := rfl
@[simp] theorem apply_ring_pages r f : (s.apply (.ring r f)).pages = s.pages := rfl
@[simp] theorem apply_ring_devRings r f : (s.apply (.ring r f)).devRings = s.devRings := rfl
@[simp] theorem apply_ring_mig r f : (s.apply (.ring r f)).mig = s.mig := rfl
@[simp] theorem apply_ring_packs r f : (s.apply (.ring r f)).packs = s.packs := rfl
@[simp] theorem apply_ring_packNext r f : (s.apply (.ring r f)).packNext = s.packNext := rfl
@[simp] theorem apply_ring_xlt r f : (s.apply (.ring r f)).xlt = s.xlt := rfl
@[simp] theorem apply_ring_tiers r f : (s.apply (.ring r f)).tiers = s.tiers := rfl
@[simp] theorem apply_ring_banks r f : (s.apply (.ring r f)).banks = s.banks := rfl
@[simp] theorem apply_ring_march r f : (s.apply (.ring r f)).march = s.march := rfl
@[simp] theorem apply_ring_cmpErrs r f : (s.apply (.ring r f)).cmpErrs = s.cmpErrs := rfl
@[simp] theorem apply_ring_attErrs r f : (s.apply (.ring r f)).attErrs = s.attErrs := rfl
@[simp] theorem apply_ring_hlErrs r f : (s.apply (.ring r f)).hlErrs = s.hlErrs := rfl
@[simp] theorem apply_ring_cmpInvalidating r f : (s.apply (.ring r f)).cmpInvalidating = s.cmpInvalidating := rfl
@[simp] theorem apply_ring_cmpCache r f : (s.apply (.ring r f)).cmpCache = s.cmpCache := rfl
@[simp] theorem apply_ring_port r f : (s.apply (.ring r f)).port = s.port := rfl
@[simp] theorem apply_ring_mailbox r f : (s.apply (.ring r f)).mailbox = s.mailbox := rfl
@[simp] theorem apply_ring_links r f : (s.apply (.ring r f)).links = s.links := rfl
@[simp] theorem apply_ring_fabric r f : (s.apply (.ring r f)).fabric = s.fabric := rfl
@[simp] theorem apply_ring_outbound r f : (s.apply (.ring r f)).outbound = s.outbound := rfl
@[simp] theorem apply_ring_sec r f : (s.apply (.ring r f)).sec = s.sec := rfl
@[simp] theorem apply_ring_rotation r f : (s.apply (.ring r f)).rotation = s.rotation := rfl
@[simp] theorem apply_ring_sliceLate r f : (s.apply (.ring r f)).sliceLate = s.sliceLate := rfl
@[simp] theorem apply_ring_power r f : (s.apply (.ring r f)).power = s.power := rfl
@[simp] theorem apply_ring_flt r f : (s.apply (.ring r f)).flt = s.flt := rfl
@[simp] theorem apply_ring_rings r f :
    (s.apply (.ring r f)).rings = tabMod (fun _ => {}) s.rings r f := rfl

@[simp] theorem apply_issues_pending f : (s.apply (.issues f)).pending = s.pending := rfl
@[simp] theorem apply_issues_outbox f : (s.apply (.issues f)).outbox = s.outbox := rfl
@[simp] theorem apply_issues_ticks f : (s.apply (.issues f)).ticks = s.ticks := rfl
@[simp] theorem apply_issues_free f : (s.apply (.issues f)).free = s.free := rfl
@[simp] theorem apply_issues_mem f : (s.apply (.issues f)).mem = s.mem := rfl
@[simp] theorem apply_issues_undef f : (s.apply (.issues f)).undef = s.undef := rfl
@[simp] theorem apply_issues_marks f : (s.apply (.issues f)).marks = s.marks := rfl
@[simp] theorem apply_issues_lineKey f : (s.apply (.issues f)).lineKey = s.lineKey := rfl
@[simp] theorem apply_issues_regs f : (s.apply (.issues f)).regs = s.regs := rfl
@[simp] theorem apply_issues_loader f : (s.apply (.issues f)).loader = s.loader := rfl
@[simp] theorem apply_issues_ctxs f : (s.apply (.issues f)).ctxs = s.ctxs := rfl
@[simp] theorem apply_issues_windows f : (s.apply (.issues f)).windows = s.windows := rfl
@[simp] theorem apply_issues_hub f : (s.apply (.issues f)).hub = s.hub := rfl
@[simp] theorem apply_issues_clusters f : (s.apply (.issues f)).clusters = s.clusters := rfl
@[simp] theorem apply_issues_cores f : (s.apply (.issues f)).cores = s.cores := rfl
@[simp] theorem apply_issues_srCtr f : (s.apply (.issues f)).srCtr = s.srCtr := rfl
@[simp] theorem apply_issues_rings f : (s.apply (.issues f)).rings = s.rings := rfl
@[simp] theorem apply_issues_reqs f : (s.apply (.issues f)).reqs = s.reqs := rfl
@[simp] theorem apply_issues_stampNext f : (s.apply (.issues f)).stampNext = s.stampNext := rfl
@[simp] theorem apply_issues_periods f : (s.apply (.issues f)).periods = s.periods := rfl
@[simp] theorem apply_issues_sampler f : (s.apply (.issues f)).sampler = s.sampler := rfl
@[simp] theorem apply_issues_pages f : (s.apply (.issues f)).pages = s.pages := rfl
@[simp] theorem apply_issues_devRings f : (s.apply (.issues f)).devRings = s.devRings := rfl
@[simp] theorem apply_issues_mig f : (s.apply (.issues f)).mig = s.mig := rfl
@[simp] theorem apply_issues_packs f : (s.apply (.issues f)).packs = s.packs := rfl
@[simp] theorem apply_issues_packNext f : (s.apply (.issues f)).packNext = s.packNext := rfl
@[simp] theorem apply_issues_xlt f : (s.apply (.issues f)).xlt = s.xlt := rfl
@[simp] theorem apply_issues_tiers f : (s.apply (.issues f)).tiers = s.tiers := rfl
@[simp] theorem apply_issues_banks f : (s.apply (.issues f)).banks = s.banks := rfl
@[simp] theorem apply_issues_march f : (s.apply (.issues f)).march = s.march := rfl
@[simp] theorem apply_issues_cmpErrs f : (s.apply (.issues f)).cmpErrs = s.cmpErrs := rfl
@[simp] theorem apply_issues_attErrs f : (s.apply (.issues f)).attErrs = s.attErrs := rfl
@[simp] theorem apply_issues_hlErrs f : (s.apply (.issues f)).hlErrs = s.hlErrs := rfl
@[simp] theorem apply_issues_cmpInvalidating f : (s.apply (.issues f)).cmpInvalidating = s.cmpInvalidating := rfl
@[simp] theorem apply_issues_cmpCache f : (s.apply (.issues f)).cmpCache = s.cmpCache := rfl
@[simp] theorem apply_issues_port f : (s.apply (.issues f)).port = s.port := rfl
@[simp] theorem apply_issues_mailbox f : (s.apply (.issues f)).mailbox = s.mailbox := rfl
@[simp] theorem apply_issues_links f : (s.apply (.issues f)).links = s.links := rfl
@[simp] theorem apply_issues_fabric f : (s.apply (.issues f)).fabric = s.fabric := rfl
@[simp] theorem apply_issues_outbound f : (s.apply (.issues f)).outbound = s.outbound := rfl
@[simp] theorem apply_issues_sec f : (s.apply (.issues f)).sec = s.sec := rfl
@[simp] theorem apply_issues_rotation f : (s.apply (.issues f)).rotation = s.rotation := rfl
@[simp] theorem apply_issues_sliceLate f : (s.apply (.issues f)).sliceLate = s.sliceLate := rfl
@[simp] theorem apply_issues_power f : (s.apply (.issues f)).power = s.power := rfl
@[simp] theorem apply_issues_flt f : (s.apply (.issues f)).flt = s.flt := rfl
@[simp] theorem apply_issues_issues f :
    (s.apply (.issues f)).issues = f s.issues := rfl

@[simp] theorem apply_req_pending k f : (s.apply (.req k f)).pending = s.pending := rfl
@[simp] theorem apply_req_outbox k f : (s.apply (.req k f)).outbox = s.outbox := rfl
@[simp] theorem apply_req_ticks k f : (s.apply (.req k f)).ticks = s.ticks := rfl
@[simp] theorem apply_req_free k f : (s.apply (.req k f)).free = s.free := rfl
@[simp] theorem apply_req_mem k f : (s.apply (.req k f)).mem = s.mem := rfl
@[simp] theorem apply_req_undef k f : (s.apply (.req k f)).undef = s.undef := rfl
@[simp] theorem apply_req_marks k f : (s.apply (.req k f)).marks = s.marks := rfl
@[simp] theorem apply_req_lineKey k f : (s.apply (.req k f)).lineKey = s.lineKey := rfl
@[simp] theorem apply_req_regs k f : (s.apply (.req k f)).regs = s.regs := rfl
@[simp] theorem apply_req_loader k f : (s.apply (.req k f)).loader = s.loader := rfl
@[simp] theorem apply_req_ctxs k f : (s.apply (.req k f)).ctxs = s.ctxs := rfl
@[simp] theorem apply_req_windows k f : (s.apply (.req k f)).windows = s.windows := rfl
@[simp] theorem apply_req_hub k f : (s.apply (.req k f)).hub = s.hub := rfl
@[simp] theorem apply_req_clusters k f : (s.apply (.req k f)).clusters = s.clusters := rfl
@[simp] theorem apply_req_cores k f : (s.apply (.req k f)).cores = s.cores := rfl
@[simp] theorem apply_req_srCtr k f : (s.apply (.req k f)).srCtr = s.srCtr := rfl
@[simp] theorem apply_req_rings k f : (s.apply (.req k f)).rings = s.rings := rfl
@[simp] theorem apply_req_issues k f : (s.apply (.req k f)).issues = s.issues := rfl
@[simp] theorem apply_req_stampNext k f : (s.apply (.req k f)).stampNext = s.stampNext := rfl
@[simp] theorem apply_req_periods k f : (s.apply (.req k f)).periods = s.periods := rfl
@[simp] theorem apply_req_sampler k f : (s.apply (.req k f)).sampler = s.sampler := rfl
@[simp] theorem apply_req_pages k f : (s.apply (.req k f)).pages = s.pages := rfl
@[simp] theorem apply_req_devRings k f : (s.apply (.req k f)).devRings = s.devRings := rfl
@[simp] theorem apply_req_mig k f : (s.apply (.req k f)).mig = s.mig := rfl
@[simp] theorem apply_req_packs k f : (s.apply (.req k f)).packs = s.packs := rfl
@[simp] theorem apply_req_packNext k f : (s.apply (.req k f)).packNext = s.packNext := rfl
@[simp] theorem apply_req_xlt k f : (s.apply (.req k f)).xlt = s.xlt := rfl
@[simp] theorem apply_req_tiers k f : (s.apply (.req k f)).tiers = s.tiers := rfl
@[simp] theorem apply_req_banks k f : (s.apply (.req k f)).banks = s.banks := rfl
@[simp] theorem apply_req_march k f : (s.apply (.req k f)).march = s.march := rfl
@[simp] theorem apply_req_cmpErrs k f : (s.apply (.req k f)).cmpErrs = s.cmpErrs := rfl
@[simp] theorem apply_req_attErrs k f : (s.apply (.req k f)).attErrs = s.attErrs := rfl
@[simp] theorem apply_req_hlErrs k f : (s.apply (.req k f)).hlErrs = s.hlErrs := rfl
@[simp] theorem apply_req_cmpInvalidating k f : (s.apply (.req k f)).cmpInvalidating = s.cmpInvalidating := rfl
@[simp] theorem apply_req_cmpCache k f : (s.apply (.req k f)).cmpCache = s.cmpCache := rfl
@[simp] theorem apply_req_port k f : (s.apply (.req k f)).port = s.port := rfl
@[simp] theorem apply_req_mailbox k f : (s.apply (.req k f)).mailbox = s.mailbox := rfl
@[simp] theorem apply_req_links k f : (s.apply (.req k f)).links = s.links := rfl
@[simp] theorem apply_req_fabric k f : (s.apply (.req k f)).fabric = s.fabric := rfl
@[simp] theorem apply_req_outbound k f : (s.apply (.req k f)).outbound = s.outbound := rfl
@[simp] theorem apply_req_sec k f : (s.apply (.req k f)).sec = s.sec := rfl
@[simp] theorem apply_req_rotation k f : (s.apply (.req k f)).rotation = s.rotation := rfl
@[simp] theorem apply_req_sliceLate k f : (s.apply (.req k f)).sliceLate = s.sliceLate := rfl
@[simp] theorem apply_req_power k f : (s.apply (.req k f)).power = s.power := rfl
@[simp] theorem apply_req_flt k f : (s.apply (.req k f)).flt = s.flt := rfl
@[simp] theorem apply_req_reqs k f :
    (s.apply (.req k f)).reqs = tabMod (fun _ => {}) s.reqs k f := rfl

@[simp] theorem apply_reqClear_pending : (s.apply .reqClear).pending = s.pending := rfl
@[simp] theorem apply_reqClear_outbox : (s.apply .reqClear).outbox = s.outbox := rfl
@[simp] theorem apply_reqClear_ticks : (s.apply .reqClear).ticks = s.ticks := rfl
@[simp] theorem apply_reqClear_free : (s.apply .reqClear).free = s.free := rfl
@[simp] theorem apply_reqClear_mem : (s.apply .reqClear).mem = s.mem := rfl
@[simp] theorem apply_reqClear_undef : (s.apply .reqClear).undef = s.undef := rfl
@[simp] theorem apply_reqClear_marks : (s.apply .reqClear).marks = s.marks := rfl
@[simp] theorem apply_reqClear_lineKey : (s.apply .reqClear).lineKey = s.lineKey := rfl
@[simp] theorem apply_reqClear_regs : (s.apply .reqClear).regs = s.regs := rfl
@[simp] theorem apply_reqClear_loader : (s.apply .reqClear).loader = s.loader := rfl
@[simp] theorem apply_reqClear_ctxs : (s.apply .reqClear).ctxs = s.ctxs := rfl
@[simp] theorem apply_reqClear_windows : (s.apply .reqClear).windows = s.windows := rfl
@[simp] theorem apply_reqClear_hub : (s.apply .reqClear).hub = s.hub := rfl
@[simp] theorem apply_reqClear_clusters : (s.apply .reqClear).clusters = s.clusters := rfl
@[simp] theorem apply_reqClear_cores : (s.apply .reqClear).cores = s.cores := rfl
@[simp] theorem apply_reqClear_srCtr : (s.apply .reqClear).srCtr = s.srCtr := rfl
@[simp] theorem apply_reqClear_rings : (s.apply .reqClear).rings = s.rings := rfl
@[simp] theorem apply_reqClear_issues : (s.apply .reqClear).issues = s.issues := rfl
@[simp] theorem apply_reqClear_stampNext : (s.apply .reqClear).stampNext = s.stampNext := rfl
@[simp] theorem apply_reqClear_periods : (s.apply .reqClear).periods = s.periods := rfl
@[simp] theorem apply_reqClear_sampler : (s.apply .reqClear).sampler = s.sampler := rfl
@[simp] theorem apply_reqClear_pages : (s.apply .reqClear).pages = s.pages := rfl
@[simp] theorem apply_reqClear_devRings : (s.apply .reqClear).devRings = s.devRings := rfl
@[simp] theorem apply_reqClear_mig : (s.apply .reqClear).mig = s.mig := rfl
@[simp] theorem apply_reqClear_packs : (s.apply .reqClear).packs = s.packs := rfl
@[simp] theorem apply_reqClear_packNext : (s.apply .reqClear).packNext = s.packNext := rfl
@[simp] theorem apply_reqClear_xlt : (s.apply .reqClear).xlt = s.xlt := rfl
@[simp] theorem apply_reqClear_tiers : (s.apply .reqClear).tiers = s.tiers := rfl
@[simp] theorem apply_reqClear_banks : (s.apply .reqClear).banks = s.banks := rfl
@[simp] theorem apply_reqClear_march : (s.apply .reqClear).march = s.march := rfl
@[simp] theorem apply_reqClear_cmpErrs : (s.apply .reqClear).cmpErrs = s.cmpErrs := rfl
@[simp] theorem apply_reqClear_attErrs : (s.apply .reqClear).attErrs = s.attErrs := rfl
@[simp] theorem apply_reqClear_hlErrs : (s.apply .reqClear).hlErrs = s.hlErrs := rfl
@[simp] theorem apply_reqClear_cmpInvalidating : (s.apply .reqClear).cmpInvalidating = s.cmpInvalidating := rfl
@[simp] theorem apply_reqClear_cmpCache : (s.apply .reqClear).cmpCache = s.cmpCache := rfl
@[simp] theorem apply_reqClear_port : (s.apply .reqClear).port = s.port := rfl
@[simp] theorem apply_reqClear_mailbox : (s.apply .reqClear).mailbox = s.mailbox := rfl
@[simp] theorem apply_reqClear_links : (s.apply .reqClear).links = s.links := rfl
@[simp] theorem apply_reqClear_fabric : (s.apply .reqClear).fabric = s.fabric := rfl
@[simp] theorem apply_reqClear_outbound : (s.apply .reqClear).outbound = s.outbound := rfl
@[simp] theorem apply_reqClear_sec : (s.apply .reqClear).sec = s.sec := rfl
@[simp] theorem apply_reqClear_rotation : (s.apply .reqClear).rotation = s.rotation := rfl
@[simp] theorem apply_reqClear_sliceLate : (s.apply .reqClear).sliceLate = s.sliceLate := rfl
@[simp] theorem apply_reqClear_power : (s.apply .reqClear).power = s.power := rfl
@[simp] theorem apply_reqClear_flt : (s.apply .reqClear).flt = s.flt := rfl
@[simp] theorem apply_reqClear_reqs :
    (s.apply .reqClear).reqs = [] := rfl

@[simp] theorem apply_stamp_pending : (s.apply .stamp).pending = s.pending := rfl
@[simp] theorem apply_stamp_outbox : (s.apply .stamp).outbox = s.outbox := rfl
@[simp] theorem apply_stamp_ticks : (s.apply .stamp).ticks = s.ticks := rfl
@[simp] theorem apply_stamp_free : (s.apply .stamp).free = s.free := rfl
@[simp] theorem apply_stamp_mem : (s.apply .stamp).mem = s.mem := rfl
@[simp] theorem apply_stamp_undef : (s.apply .stamp).undef = s.undef := rfl
@[simp] theorem apply_stamp_marks : (s.apply .stamp).marks = s.marks := rfl
@[simp] theorem apply_stamp_lineKey : (s.apply .stamp).lineKey = s.lineKey := rfl
@[simp] theorem apply_stamp_regs : (s.apply .stamp).regs = s.regs := rfl
@[simp] theorem apply_stamp_loader : (s.apply .stamp).loader = s.loader := rfl
@[simp] theorem apply_stamp_ctxs : (s.apply .stamp).ctxs = s.ctxs := rfl
@[simp] theorem apply_stamp_windows : (s.apply .stamp).windows = s.windows := rfl
@[simp] theorem apply_stamp_hub : (s.apply .stamp).hub = s.hub := rfl
@[simp] theorem apply_stamp_clusters : (s.apply .stamp).clusters = s.clusters := rfl
@[simp] theorem apply_stamp_cores : (s.apply .stamp).cores = s.cores := rfl
@[simp] theorem apply_stamp_srCtr : (s.apply .stamp).srCtr = s.srCtr := rfl
@[simp] theorem apply_stamp_rings : (s.apply .stamp).rings = s.rings := rfl
@[simp] theorem apply_stamp_issues : (s.apply .stamp).issues = s.issues := rfl
@[simp] theorem apply_stamp_reqs : (s.apply .stamp).reqs = s.reqs := rfl
@[simp] theorem apply_stamp_periods : (s.apply .stamp).periods = s.periods := rfl
@[simp] theorem apply_stamp_sampler : (s.apply .stamp).sampler = s.sampler := rfl
@[simp] theorem apply_stamp_pages : (s.apply .stamp).pages = s.pages := rfl
@[simp] theorem apply_stamp_devRings : (s.apply .stamp).devRings = s.devRings := rfl
@[simp] theorem apply_stamp_mig : (s.apply .stamp).mig = s.mig := rfl
@[simp] theorem apply_stamp_packs : (s.apply .stamp).packs = s.packs := rfl
@[simp] theorem apply_stamp_packNext : (s.apply .stamp).packNext = s.packNext := rfl
@[simp] theorem apply_stamp_xlt : (s.apply .stamp).xlt = s.xlt := rfl
@[simp] theorem apply_stamp_tiers : (s.apply .stamp).tiers = s.tiers := rfl
@[simp] theorem apply_stamp_banks : (s.apply .stamp).banks = s.banks := rfl
@[simp] theorem apply_stamp_march : (s.apply .stamp).march = s.march := rfl
@[simp] theorem apply_stamp_cmpErrs : (s.apply .stamp).cmpErrs = s.cmpErrs := rfl
@[simp] theorem apply_stamp_attErrs : (s.apply .stamp).attErrs = s.attErrs := rfl
@[simp] theorem apply_stamp_hlErrs : (s.apply .stamp).hlErrs = s.hlErrs := rfl
@[simp] theorem apply_stamp_cmpInvalidating : (s.apply .stamp).cmpInvalidating = s.cmpInvalidating := rfl
@[simp] theorem apply_stamp_cmpCache : (s.apply .stamp).cmpCache = s.cmpCache := rfl
@[simp] theorem apply_stamp_port : (s.apply .stamp).port = s.port := rfl
@[simp] theorem apply_stamp_mailbox : (s.apply .stamp).mailbox = s.mailbox := rfl
@[simp] theorem apply_stamp_links : (s.apply .stamp).links = s.links := rfl
@[simp] theorem apply_stamp_fabric : (s.apply .stamp).fabric = s.fabric := rfl
@[simp] theorem apply_stamp_outbound : (s.apply .stamp).outbound = s.outbound := rfl
@[simp] theorem apply_stamp_sec : (s.apply .stamp).sec = s.sec := rfl
@[simp] theorem apply_stamp_rotation : (s.apply .stamp).rotation = s.rotation := rfl
@[simp] theorem apply_stamp_sliceLate : (s.apply .stamp).sliceLate = s.sliceLate := rfl
@[simp] theorem apply_stamp_power : (s.apply .stamp).power = s.power := rfl
@[simp] theorem apply_stamp_flt : (s.apply .stamp).flt = s.flt := rfl
@[simp] theorem apply_stamp_stampNext :
    (s.apply .stamp).stampNext = s.stampNext + 1 := rfl

@[simp] theorem apply_period_pending c f : (s.apply (.period c f)).pending = s.pending := rfl
@[simp] theorem apply_period_outbox c f : (s.apply (.period c f)).outbox = s.outbox := rfl
@[simp] theorem apply_period_ticks c f : (s.apply (.period c f)).ticks = s.ticks := rfl
@[simp] theorem apply_period_free c f : (s.apply (.period c f)).free = s.free := rfl
@[simp] theorem apply_period_mem c f : (s.apply (.period c f)).mem = s.mem := rfl
@[simp] theorem apply_period_undef c f : (s.apply (.period c f)).undef = s.undef := rfl
@[simp] theorem apply_period_marks c f : (s.apply (.period c f)).marks = s.marks := rfl
@[simp] theorem apply_period_lineKey c f : (s.apply (.period c f)).lineKey = s.lineKey := rfl
@[simp] theorem apply_period_regs c f : (s.apply (.period c f)).regs = s.regs := rfl
@[simp] theorem apply_period_loader c f : (s.apply (.period c f)).loader = s.loader := rfl
@[simp] theorem apply_period_ctxs c f : (s.apply (.period c f)).ctxs = s.ctxs := rfl
@[simp] theorem apply_period_windows c f : (s.apply (.period c f)).windows = s.windows := rfl
@[simp] theorem apply_period_hub c f : (s.apply (.period c f)).hub = s.hub := rfl
@[simp] theorem apply_period_clusters c f : (s.apply (.period c f)).clusters = s.clusters := rfl
@[simp] theorem apply_period_cores c f : (s.apply (.period c f)).cores = s.cores := rfl
@[simp] theorem apply_period_srCtr c f : (s.apply (.period c f)).srCtr = s.srCtr := rfl
@[simp] theorem apply_period_rings c f : (s.apply (.period c f)).rings = s.rings := rfl
@[simp] theorem apply_period_issues c f : (s.apply (.period c f)).issues = s.issues := rfl
@[simp] theorem apply_period_reqs c f : (s.apply (.period c f)).reqs = s.reqs := rfl
@[simp] theorem apply_period_stampNext c f : (s.apply (.period c f)).stampNext = s.stampNext := rfl
@[simp] theorem apply_period_sampler c f : (s.apply (.period c f)).sampler = s.sampler := rfl
@[simp] theorem apply_period_pages c f : (s.apply (.period c f)).pages = s.pages := rfl
@[simp] theorem apply_period_devRings c f : (s.apply (.period c f)).devRings = s.devRings := rfl
@[simp] theorem apply_period_mig c f : (s.apply (.period c f)).mig = s.mig := rfl
@[simp] theorem apply_period_packs c f : (s.apply (.period c f)).packs = s.packs := rfl
@[simp] theorem apply_period_packNext c f : (s.apply (.period c f)).packNext = s.packNext := rfl
@[simp] theorem apply_period_xlt c f : (s.apply (.period c f)).xlt = s.xlt := rfl
@[simp] theorem apply_period_tiers c f : (s.apply (.period c f)).tiers = s.tiers := rfl
@[simp] theorem apply_period_banks c f : (s.apply (.period c f)).banks = s.banks := rfl
@[simp] theorem apply_period_march c f : (s.apply (.period c f)).march = s.march := rfl
@[simp] theorem apply_period_cmpErrs c f : (s.apply (.period c f)).cmpErrs = s.cmpErrs := rfl
@[simp] theorem apply_period_attErrs c f : (s.apply (.period c f)).attErrs = s.attErrs := rfl
@[simp] theorem apply_period_hlErrs c f : (s.apply (.period c f)).hlErrs = s.hlErrs := rfl
@[simp] theorem apply_period_cmpInvalidating c f : (s.apply (.period c f)).cmpInvalidating = s.cmpInvalidating := rfl
@[simp] theorem apply_period_cmpCache c f : (s.apply (.period c f)).cmpCache = s.cmpCache := rfl
@[simp] theorem apply_period_port c f : (s.apply (.period c f)).port = s.port := rfl
@[simp] theorem apply_period_mailbox c f : (s.apply (.period c f)).mailbox = s.mailbox := rfl
@[simp] theorem apply_period_links c f : (s.apply (.period c f)).links = s.links := rfl
@[simp] theorem apply_period_fabric c f : (s.apply (.period c f)).fabric = s.fabric := rfl
@[simp] theorem apply_period_outbound c f : (s.apply (.period c f)).outbound = s.outbound := rfl
@[simp] theorem apply_period_sec c f : (s.apply (.period c f)).sec = s.sec := rfl
@[simp] theorem apply_period_rotation c f : (s.apply (.period c f)).rotation = s.rotation := rfl
@[simp] theorem apply_period_sliceLate c f : (s.apply (.period c f)).sliceLate = s.sliceLate := rfl
@[simp] theorem apply_period_power c f : (s.apply (.period c f)).power = s.power := rfl
@[simp] theorem apply_period_flt c f : (s.apply (.period c f)).flt = s.flt := rfl
@[simp] theorem apply_period_periods c f :
    (s.apply (.period c f)).periods = tabMod (fun _ => {}) s.periods c f := rfl

@[simp] theorem apply_sampler_pending f : (s.apply (.sampler f)).pending = s.pending := rfl
@[simp] theorem apply_sampler_outbox f : (s.apply (.sampler f)).outbox = s.outbox := rfl
@[simp] theorem apply_sampler_ticks f : (s.apply (.sampler f)).ticks = s.ticks := rfl
@[simp] theorem apply_sampler_free f : (s.apply (.sampler f)).free = s.free := rfl
@[simp] theorem apply_sampler_mem f : (s.apply (.sampler f)).mem = s.mem := rfl
@[simp] theorem apply_sampler_undef f : (s.apply (.sampler f)).undef = s.undef := rfl
@[simp] theorem apply_sampler_marks f : (s.apply (.sampler f)).marks = s.marks := rfl
@[simp] theorem apply_sampler_lineKey f : (s.apply (.sampler f)).lineKey = s.lineKey := rfl
@[simp] theorem apply_sampler_regs f : (s.apply (.sampler f)).regs = s.regs := rfl
@[simp] theorem apply_sampler_loader f : (s.apply (.sampler f)).loader = s.loader := rfl
@[simp] theorem apply_sampler_ctxs f : (s.apply (.sampler f)).ctxs = s.ctxs := rfl
@[simp] theorem apply_sampler_windows f : (s.apply (.sampler f)).windows = s.windows := rfl
@[simp] theorem apply_sampler_hub f : (s.apply (.sampler f)).hub = s.hub := rfl
@[simp] theorem apply_sampler_clusters f : (s.apply (.sampler f)).clusters = s.clusters := rfl
@[simp] theorem apply_sampler_cores f : (s.apply (.sampler f)).cores = s.cores := rfl
@[simp] theorem apply_sampler_srCtr f : (s.apply (.sampler f)).srCtr = s.srCtr := rfl
@[simp] theorem apply_sampler_rings f : (s.apply (.sampler f)).rings = s.rings := rfl
@[simp] theorem apply_sampler_issues f : (s.apply (.sampler f)).issues = s.issues := rfl
@[simp] theorem apply_sampler_reqs f : (s.apply (.sampler f)).reqs = s.reqs := rfl
@[simp] theorem apply_sampler_stampNext f : (s.apply (.sampler f)).stampNext = s.stampNext := rfl
@[simp] theorem apply_sampler_periods f : (s.apply (.sampler f)).periods = s.periods := rfl
@[simp] theorem apply_sampler_pages f : (s.apply (.sampler f)).pages = s.pages := rfl
@[simp] theorem apply_sampler_devRings f : (s.apply (.sampler f)).devRings = s.devRings := rfl
@[simp] theorem apply_sampler_mig f : (s.apply (.sampler f)).mig = s.mig := rfl
@[simp] theorem apply_sampler_packs f : (s.apply (.sampler f)).packs = s.packs := rfl
@[simp] theorem apply_sampler_packNext f : (s.apply (.sampler f)).packNext = s.packNext := rfl
@[simp] theorem apply_sampler_xlt f : (s.apply (.sampler f)).xlt = s.xlt := rfl
@[simp] theorem apply_sampler_tiers f : (s.apply (.sampler f)).tiers = s.tiers := rfl
@[simp] theorem apply_sampler_banks f : (s.apply (.sampler f)).banks = s.banks := rfl
@[simp] theorem apply_sampler_march f : (s.apply (.sampler f)).march = s.march := rfl
@[simp] theorem apply_sampler_cmpErrs f : (s.apply (.sampler f)).cmpErrs = s.cmpErrs := rfl
@[simp] theorem apply_sampler_attErrs f : (s.apply (.sampler f)).attErrs = s.attErrs := rfl
@[simp] theorem apply_sampler_hlErrs f : (s.apply (.sampler f)).hlErrs = s.hlErrs := rfl
@[simp] theorem apply_sampler_cmpInvalidating f : (s.apply (.sampler f)).cmpInvalidating = s.cmpInvalidating := rfl
@[simp] theorem apply_sampler_cmpCache f : (s.apply (.sampler f)).cmpCache = s.cmpCache := rfl
@[simp] theorem apply_sampler_port f : (s.apply (.sampler f)).port = s.port := rfl
@[simp] theorem apply_sampler_mailbox f : (s.apply (.sampler f)).mailbox = s.mailbox := rfl
@[simp] theorem apply_sampler_links f : (s.apply (.sampler f)).links = s.links := rfl
@[simp] theorem apply_sampler_fabric f : (s.apply (.sampler f)).fabric = s.fabric := rfl
@[simp] theorem apply_sampler_outbound f : (s.apply (.sampler f)).outbound = s.outbound := rfl
@[simp] theorem apply_sampler_sec f : (s.apply (.sampler f)).sec = s.sec := rfl
@[simp] theorem apply_sampler_rotation f : (s.apply (.sampler f)).rotation = s.rotation := rfl
@[simp] theorem apply_sampler_sliceLate f : (s.apply (.sampler f)).sliceLate = s.sliceLate := rfl
@[simp] theorem apply_sampler_power f : (s.apply (.sampler f)).power = s.power := rfl
@[simp] theorem apply_sampler_flt f : (s.apply (.sampler f)).flt = s.flt := rfl
@[simp] theorem apply_sampler_sampler f :
    (s.apply (.sampler f)).sampler = f s.sampler := rfl

@[simp] theorem apply_pages_pending f : (s.apply (.pages f)).pending = s.pending := rfl
@[simp] theorem apply_pages_outbox f : (s.apply (.pages f)).outbox = s.outbox := rfl
@[simp] theorem apply_pages_ticks f : (s.apply (.pages f)).ticks = s.ticks := rfl
@[simp] theorem apply_pages_free f : (s.apply (.pages f)).free = s.free := rfl
@[simp] theorem apply_pages_mem f : (s.apply (.pages f)).mem = s.mem := rfl
@[simp] theorem apply_pages_undef f : (s.apply (.pages f)).undef = s.undef := rfl
@[simp] theorem apply_pages_marks f : (s.apply (.pages f)).marks = s.marks := rfl
@[simp] theorem apply_pages_lineKey f : (s.apply (.pages f)).lineKey = s.lineKey := rfl
@[simp] theorem apply_pages_regs f : (s.apply (.pages f)).regs = s.regs := rfl
@[simp] theorem apply_pages_loader f : (s.apply (.pages f)).loader = s.loader := rfl
@[simp] theorem apply_pages_ctxs f : (s.apply (.pages f)).ctxs = s.ctxs := rfl
@[simp] theorem apply_pages_windows f : (s.apply (.pages f)).windows = s.windows := rfl
@[simp] theorem apply_pages_hub f : (s.apply (.pages f)).hub = s.hub := rfl
@[simp] theorem apply_pages_clusters f : (s.apply (.pages f)).clusters = s.clusters := rfl
@[simp] theorem apply_pages_cores f : (s.apply (.pages f)).cores = s.cores := rfl
@[simp] theorem apply_pages_srCtr f : (s.apply (.pages f)).srCtr = s.srCtr := rfl
@[simp] theorem apply_pages_rings f : (s.apply (.pages f)).rings = s.rings := rfl
@[simp] theorem apply_pages_issues f : (s.apply (.pages f)).issues = s.issues := rfl
@[simp] theorem apply_pages_reqs f : (s.apply (.pages f)).reqs = s.reqs := rfl
@[simp] theorem apply_pages_stampNext f : (s.apply (.pages f)).stampNext = s.stampNext := rfl
@[simp] theorem apply_pages_periods f : (s.apply (.pages f)).periods = s.periods := rfl
@[simp] theorem apply_pages_sampler f : (s.apply (.pages f)).sampler = s.sampler := rfl
@[simp] theorem apply_pages_devRings f : (s.apply (.pages f)).devRings = s.devRings := rfl
@[simp] theorem apply_pages_mig f : (s.apply (.pages f)).mig = s.mig := rfl
@[simp] theorem apply_pages_packs f : (s.apply (.pages f)).packs = s.packs := rfl
@[simp] theorem apply_pages_packNext f : (s.apply (.pages f)).packNext = s.packNext := rfl
@[simp] theorem apply_pages_xlt f : (s.apply (.pages f)).xlt = s.xlt := rfl
@[simp] theorem apply_pages_tiers f : (s.apply (.pages f)).tiers = s.tiers := rfl
@[simp] theorem apply_pages_banks f : (s.apply (.pages f)).banks = s.banks := rfl
@[simp] theorem apply_pages_march f : (s.apply (.pages f)).march = s.march := rfl
@[simp] theorem apply_pages_cmpErrs f : (s.apply (.pages f)).cmpErrs = s.cmpErrs := rfl
@[simp] theorem apply_pages_attErrs f : (s.apply (.pages f)).attErrs = s.attErrs := rfl
@[simp] theorem apply_pages_hlErrs f : (s.apply (.pages f)).hlErrs = s.hlErrs := rfl
@[simp] theorem apply_pages_cmpInvalidating f : (s.apply (.pages f)).cmpInvalidating = s.cmpInvalidating := rfl
@[simp] theorem apply_pages_cmpCache f : (s.apply (.pages f)).cmpCache = s.cmpCache := rfl
@[simp] theorem apply_pages_port f : (s.apply (.pages f)).port = s.port := rfl
@[simp] theorem apply_pages_mailbox f : (s.apply (.pages f)).mailbox = s.mailbox := rfl
@[simp] theorem apply_pages_links f : (s.apply (.pages f)).links = s.links := rfl
@[simp] theorem apply_pages_fabric f : (s.apply (.pages f)).fabric = s.fabric := rfl
@[simp] theorem apply_pages_outbound f : (s.apply (.pages f)).outbound = s.outbound := rfl
@[simp] theorem apply_pages_sec f : (s.apply (.pages f)).sec = s.sec := rfl
@[simp] theorem apply_pages_rotation f : (s.apply (.pages f)).rotation = s.rotation := rfl
@[simp] theorem apply_pages_sliceLate f : (s.apply (.pages f)).sliceLate = s.sliceLate := rfl
@[simp] theorem apply_pages_power f : (s.apply (.pages f)).power = s.power := rfl
@[simp] theorem apply_pages_flt f : (s.apply (.pages f)).flt = s.flt := rfl
@[simp] theorem apply_pages_pages f :
    (s.apply (.pages f)).pages = f s.pages := rfl

@[simp] theorem apply_devRing_pending r f : (s.apply (.devRing r f)).pending = s.pending := rfl
@[simp] theorem apply_devRing_outbox r f : (s.apply (.devRing r f)).outbox = s.outbox := rfl
@[simp] theorem apply_devRing_ticks r f : (s.apply (.devRing r f)).ticks = s.ticks := rfl
@[simp] theorem apply_devRing_free r f : (s.apply (.devRing r f)).free = s.free := rfl
@[simp] theorem apply_devRing_mem r f : (s.apply (.devRing r f)).mem = s.mem := rfl
@[simp] theorem apply_devRing_undef r f : (s.apply (.devRing r f)).undef = s.undef := rfl
@[simp] theorem apply_devRing_marks r f : (s.apply (.devRing r f)).marks = s.marks := rfl
@[simp] theorem apply_devRing_lineKey r f : (s.apply (.devRing r f)).lineKey = s.lineKey := rfl
@[simp] theorem apply_devRing_regs r f : (s.apply (.devRing r f)).regs = s.regs := rfl
@[simp] theorem apply_devRing_loader r f : (s.apply (.devRing r f)).loader = s.loader := rfl
@[simp] theorem apply_devRing_ctxs r f : (s.apply (.devRing r f)).ctxs = s.ctxs := rfl
@[simp] theorem apply_devRing_windows r f : (s.apply (.devRing r f)).windows = s.windows := rfl
@[simp] theorem apply_devRing_hub r f : (s.apply (.devRing r f)).hub = s.hub := rfl
@[simp] theorem apply_devRing_clusters r f : (s.apply (.devRing r f)).clusters = s.clusters := rfl
@[simp] theorem apply_devRing_cores r f : (s.apply (.devRing r f)).cores = s.cores := rfl
@[simp] theorem apply_devRing_srCtr r f : (s.apply (.devRing r f)).srCtr = s.srCtr := rfl
@[simp] theorem apply_devRing_rings r f : (s.apply (.devRing r f)).rings = s.rings := rfl
@[simp] theorem apply_devRing_issues r f : (s.apply (.devRing r f)).issues = s.issues := rfl
@[simp] theorem apply_devRing_reqs r f : (s.apply (.devRing r f)).reqs = s.reqs := rfl
@[simp] theorem apply_devRing_stampNext r f : (s.apply (.devRing r f)).stampNext = s.stampNext := rfl
@[simp] theorem apply_devRing_periods r f : (s.apply (.devRing r f)).periods = s.periods := rfl
@[simp] theorem apply_devRing_sampler r f : (s.apply (.devRing r f)).sampler = s.sampler := rfl
@[simp] theorem apply_devRing_pages r f : (s.apply (.devRing r f)).pages = s.pages := rfl
@[simp] theorem apply_devRing_mig r f : (s.apply (.devRing r f)).mig = s.mig := rfl
@[simp] theorem apply_devRing_packs r f : (s.apply (.devRing r f)).packs = s.packs := rfl
@[simp] theorem apply_devRing_packNext r f : (s.apply (.devRing r f)).packNext = s.packNext := rfl
@[simp] theorem apply_devRing_xlt r f : (s.apply (.devRing r f)).xlt = s.xlt := rfl
@[simp] theorem apply_devRing_tiers r f : (s.apply (.devRing r f)).tiers = s.tiers := rfl
@[simp] theorem apply_devRing_banks r f : (s.apply (.devRing r f)).banks = s.banks := rfl
@[simp] theorem apply_devRing_march r f : (s.apply (.devRing r f)).march = s.march := rfl
@[simp] theorem apply_devRing_cmpErrs r f : (s.apply (.devRing r f)).cmpErrs = s.cmpErrs := rfl
@[simp] theorem apply_devRing_attErrs r f : (s.apply (.devRing r f)).attErrs = s.attErrs := rfl
@[simp] theorem apply_devRing_hlErrs r f : (s.apply (.devRing r f)).hlErrs = s.hlErrs := rfl
@[simp] theorem apply_devRing_cmpInvalidating r f : (s.apply (.devRing r f)).cmpInvalidating = s.cmpInvalidating := rfl
@[simp] theorem apply_devRing_cmpCache r f : (s.apply (.devRing r f)).cmpCache = s.cmpCache := rfl
@[simp] theorem apply_devRing_port r f : (s.apply (.devRing r f)).port = s.port := rfl
@[simp] theorem apply_devRing_mailbox r f : (s.apply (.devRing r f)).mailbox = s.mailbox := rfl
@[simp] theorem apply_devRing_links r f : (s.apply (.devRing r f)).links = s.links := rfl
@[simp] theorem apply_devRing_fabric r f : (s.apply (.devRing r f)).fabric = s.fabric := rfl
@[simp] theorem apply_devRing_outbound r f : (s.apply (.devRing r f)).outbound = s.outbound := rfl
@[simp] theorem apply_devRing_sec r f : (s.apply (.devRing r f)).sec = s.sec := rfl
@[simp] theorem apply_devRing_rotation r f : (s.apply (.devRing r f)).rotation = s.rotation := rfl
@[simp] theorem apply_devRing_sliceLate r f : (s.apply (.devRing r f)).sliceLate = s.sliceLate := rfl
@[simp] theorem apply_devRing_power r f : (s.apply (.devRing r f)).power = s.power := rfl
@[simp] theorem apply_devRing_flt r f : (s.apply (.devRing r f)).flt = s.flt := rfl
@[simp] theorem apply_devRing_devRings r f :
    (s.apply (.devRing r f)).devRings = tabMod (fun _ => {}) s.devRings r f := rfl

@[simp] theorem apply_mig_pending f : (s.apply (.mig f)).pending = s.pending := rfl
@[simp] theorem apply_mig_outbox f : (s.apply (.mig f)).outbox = s.outbox := rfl
@[simp] theorem apply_mig_ticks f : (s.apply (.mig f)).ticks = s.ticks := rfl
@[simp] theorem apply_mig_free f : (s.apply (.mig f)).free = s.free := rfl
@[simp] theorem apply_mig_mem f : (s.apply (.mig f)).mem = s.mem := rfl
@[simp] theorem apply_mig_undef f : (s.apply (.mig f)).undef = s.undef := rfl
@[simp] theorem apply_mig_marks f : (s.apply (.mig f)).marks = s.marks := rfl
@[simp] theorem apply_mig_lineKey f : (s.apply (.mig f)).lineKey = s.lineKey := rfl
@[simp] theorem apply_mig_regs f : (s.apply (.mig f)).regs = s.regs := rfl
@[simp] theorem apply_mig_loader f : (s.apply (.mig f)).loader = s.loader := rfl
@[simp] theorem apply_mig_ctxs f : (s.apply (.mig f)).ctxs = s.ctxs := rfl
@[simp] theorem apply_mig_windows f : (s.apply (.mig f)).windows = s.windows := rfl
@[simp] theorem apply_mig_hub f : (s.apply (.mig f)).hub = s.hub := rfl
@[simp] theorem apply_mig_clusters f : (s.apply (.mig f)).clusters = s.clusters := rfl
@[simp] theorem apply_mig_cores f : (s.apply (.mig f)).cores = s.cores := rfl
@[simp] theorem apply_mig_srCtr f : (s.apply (.mig f)).srCtr = s.srCtr := rfl
@[simp] theorem apply_mig_rings f : (s.apply (.mig f)).rings = s.rings := rfl
@[simp] theorem apply_mig_issues f : (s.apply (.mig f)).issues = s.issues := rfl
@[simp] theorem apply_mig_reqs f : (s.apply (.mig f)).reqs = s.reqs := rfl
@[simp] theorem apply_mig_stampNext f : (s.apply (.mig f)).stampNext = s.stampNext := rfl
@[simp] theorem apply_mig_periods f : (s.apply (.mig f)).periods = s.periods := rfl
@[simp] theorem apply_mig_sampler f : (s.apply (.mig f)).sampler = s.sampler := rfl
@[simp] theorem apply_mig_pages f : (s.apply (.mig f)).pages = s.pages := rfl
@[simp] theorem apply_mig_devRings f : (s.apply (.mig f)).devRings = s.devRings := rfl
@[simp] theorem apply_mig_packs f : (s.apply (.mig f)).packs = s.packs := rfl
@[simp] theorem apply_mig_packNext f : (s.apply (.mig f)).packNext = s.packNext := rfl
@[simp] theorem apply_mig_xlt f : (s.apply (.mig f)).xlt = s.xlt := rfl
@[simp] theorem apply_mig_tiers f : (s.apply (.mig f)).tiers = s.tiers := rfl
@[simp] theorem apply_mig_banks f : (s.apply (.mig f)).banks = s.banks := rfl
@[simp] theorem apply_mig_march f : (s.apply (.mig f)).march = s.march := rfl
@[simp] theorem apply_mig_cmpErrs f : (s.apply (.mig f)).cmpErrs = s.cmpErrs := rfl
@[simp] theorem apply_mig_attErrs f : (s.apply (.mig f)).attErrs = s.attErrs := rfl
@[simp] theorem apply_mig_hlErrs f : (s.apply (.mig f)).hlErrs = s.hlErrs := rfl
@[simp] theorem apply_mig_cmpInvalidating f : (s.apply (.mig f)).cmpInvalidating = s.cmpInvalidating := rfl
@[simp] theorem apply_mig_cmpCache f : (s.apply (.mig f)).cmpCache = s.cmpCache := rfl
@[simp] theorem apply_mig_port f : (s.apply (.mig f)).port = s.port := rfl
@[simp] theorem apply_mig_mailbox f : (s.apply (.mig f)).mailbox = s.mailbox := rfl
@[simp] theorem apply_mig_links f : (s.apply (.mig f)).links = s.links := rfl
@[simp] theorem apply_mig_fabric f : (s.apply (.mig f)).fabric = s.fabric := rfl
@[simp] theorem apply_mig_outbound f : (s.apply (.mig f)).outbound = s.outbound := rfl
@[simp] theorem apply_mig_sec f : (s.apply (.mig f)).sec = s.sec := rfl
@[simp] theorem apply_mig_rotation f : (s.apply (.mig f)).rotation = s.rotation := rfl
@[simp] theorem apply_mig_sliceLate f : (s.apply (.mig f)).sliceLate = s.sliceLate := rfl
@[simp] theorem apply_mig_power f : (s.apply (.mig f)).power = s.power := rfl
@[simp] theorem apply_mig_flt f : (s.apply (.mig f)).flt = s.flt := rfl
@[simp] theorem apply_mig_mig f :
    (s.apply (.mig f)).mig = f s.mig := rfl

@[simp] theorem apply_packs_pending f : (s.apply (.packs f)).pending = s.pending := rfl
@[simp] theorem apply_packs_outbox f : (s.apply (.packs f)).outbox = s.outbox := rfl
@[simp] theorem apply_packs_ticks f : (s.apply (.packs f)).ticks = s.ticks := rfl
@[simp] theorem apply_packs_free f : (s.apply (.packs f)).free = s.free := rfl
@[simp] theorem apply_packs_mem f : (s.apply (.packs f)).mem = s.mem := rfl
@[simp] theorem apply_packs_undef f : (s.apply (.packs f)).undef = s.undef := rfl
@[simp] theorem apply_packs_marks f : (s.apply (.packs f)).marks = s.marks := rfl
@[simp] theorem apply_packs_lineKey f : (s.apply (.packs f)).lineKey = s.lineKey := rfl
@[simp] theorem apply_packs_regs f : (s.apply (.packs f)).regs = s.regs := rfl
@[simp] theorem apply_packs_loader f : (s.apply (.packs f)).loader = s.loader := rfl
@[simp] theorem apply_packs_ctxs f : (s.apply (.packs f)).ctxs = s.ctxs := rfl
@[simp] theorem apply_packs_windows f : (s.apply (.packs f)).windows = s.windows := rfl
@[simp] theorem apply_packs_hub f : (s.apply (.packs f)).hub = s.hub := rfl
@[simp] theorem apply_packs_clusters f : (s.apply (.packs f)).clusters = s.clusters := rfl
@[simp] theorem apply_packs_cores f : (s.apply (.packs f)).cores = s.cores := rfl
@[simp] theorem apply_packs_srCtr f : (s.apply (.packs f)).srCtr = s.srCtr := rfl
@[simp] theorem apply_packs_rings f : (s.apply (.packs f)).rings = s.rings := rfl
@[simp] theorem apply_packs_issues f : (s.apply (.packs f)).issues = s.issues := rfl
@[simp] theorem apply_packs_reqs f : (s.apply (.packs f)).reqs = s.reqs := rfl
@[simp] theorem apply_packs_stampNext f : (s.apply (.packs f)).stampNext = s.stampNext := rfl
@[simp] theorem apply_packs_periods f : (s.apply (.packs f)).periods = s.periods := rfl
@[simp] theorem apply_packs_sampler f : (s.apply (.packs f)).sampler = s.sampler := rfl
@[simp] theorem apply_packs_pages f : (s.apply (.packs f)).pages = s.pages := rfl
@[simp] theorem apply_packs_devRings f : (s.apply (.packs f)).devRings = s.devRings := rfl
@[simp] theorem apply_packs_mig f : (s.apply (.packs f)).mig = s.mig := rfl
@[simp] theorem apply_packs_packNext f : (s.apply (.packs f)).packNext = s.packNext := rfl
@[simp] theorem apply_packs_xlt f : (s.apply (.packs f)).xlt = s.xlt := rfl
@[simp] theorem apply_packs_tiers f : (s.apply (.packs f)).tiers = s.tiers := rfl
@[simp] theorem apply_packs_banks f : (s.apply (.packs f)).banks = s.banks := rfl
@[simp] theorem apply_packs_march f : (s.apply (.packs f)).march = s.march := rfl
@[simp] theorem apply_packs_cmpErrs f : (s.apply (.packs f)).cmpErrs = s.cmpErrs := rfl
@[simp] theorem apply_packs_attErrs f : (s.apply (.packs f)).attErrs = s.attErrs := rfl
@[simp] theorem apply_packs_hlErrs f : (s.apply (.packs f)).hlErrs = s.hlErrs := rfl
@[simp] theorem apply_packs_cmpInvalidating f : (s.apply (.packs f)).cmpInvalidating = s.cmpInvalidating := rfl
@[simp] theorem apply_packs_cmpCache f : (s.apply (.packs f)).cmpCache = s.cmpCache := rfl
@[simp] theorem apply_packs_port f : (s.apply (.packs f)).port = s.port := rfl
@[simp] theorem apply_packs_mailbox f : (s.apply (.packs f)).mailbox = s.mailbox := rfl
@[simp] theorem apply_packs_links f : (s.apply (.packs f)).links = s.links := rfl
@[simp] theorem apply_packs_fabric f : (s.apply (.packs f)).fabric = s.fabric := rfl
@[simp] theorem apply_packs_outbound f : (s.apply (.packs f)).outbound = s.outbound := rfl
@[simp] theorem apply_packs_sec f : (s.apply (.packs f)).sec = s.sec := rfl
@[simp] theorem apply_packs_rotation f : (s.apply (.packs f)).rotation = s.rotation := rfl
@[simp] theorem apply_packs_sliceLate f : (s.apply (.packs f)).sliceLate = s.sliceLate := rfl
@[simp] theorem apply_packs_power f : (s.apply (.packs f)).power = s.power := rfl
@[simp] theorem apply_packs_flt f : (s.apply (.packs f)).flt = s.flt := rfl
@[simp] theorem apply_packs_packs f :
    (s.apply (.packs f)).packs = f s.packs := rfl

@[simp] theorem apply_packNext_pending : (s.apply .packNext).pending = s.pending := rfl
@[simp] theorem apply_packNext_outbox : (s.apply .packNext).outbox = s.outbox := rfl
@[simp] theorem apply_packNext_ticks : (s.apply .packNext).ticks = s.ticks := rfl
@[simp] theorem apply_packNext_free : (s.apply .packNext).free = s.free := rfl
@[simp] theorem apply_packNext_mem : (s.apply .packNext).mem = s.mem := rfl
@[simp] theorem apply_packNext_undef : (s.apply .packNext).undef = s.undef := rfl
@[simp] theorem apply_packNext_marks : (s.apply .packNext).marks = s.marks := rfl
@[simp] theorem apply_packNext_lineKey : (s.apply .packNext).lineKey = s.lineKey := rfl
@[simp] theorem apply_packNext_regs : (s.apply .packNext).regs = s.regs := rfl
@[simp] theorem apply_packNext_loader : (s.apply .packNext).loader = s.loader := rfl
@[simp] theorem apply_packNext_ctxs : (s.apply .packNext).ctxs = s.ctxs := rfl
@[simp] theorem apply_packNext_windows : (s.apply .packNext).windows = s.windows := rfl
@[simp] theorem apply_packNext_hub : (s.apply .packNext).hub = s.hub := rfl
@[simp] theorem apply_packNext_clusters : (s.apply .packNext).clusters = s.clusters := rfl
@[simp] theorem apply_packNext_cores : (s.apply .packNext).cores = s.cores := rfl
@[simp] theorem apply_packNext_srCtr : (s.apply .packNext).srCtr = s.srCtr := rfl
@[simp] theorem apply_packNext_rings : (s.apply .packNext).rings = s.rings := rfl
@[simp] theorem apply_packNext_issues : (s.apply .packNext).issues = s.issues := rfl
@[simp] theorem apply_packNext_reqs : (s.apply .packNext).reqs = s.reqs := rfl
@[simp] theorem apply_packNext_stampNext : (s.apply .packNext).stampNext = s.stampNext := rfl
@[simp] theorem apply_packNext_periods : (s.apply .packNext).periods = s.periods := rfl
@[simp] theorem apply_packNext_sampler : (s.apply .packNext).sampler = s.sampler := rfl
@[simp] theorem apply_packNext_pages : (s.apply .packNext).pages = s.pages := rfl
@[simp] theorem apply_packNext_devRings : (s.apply .packNext).devRings = s.devRings := rfl
@[simp] theorem apply_packNext_mig : (s.apply .packNext).mig = s.mig := rfl
@[simp] theorem apply_packNext_packs : (s.apply .packNext).packs = s.packs := rfl
@[simp] theorem apply_packNext_xlt : (s.apply .packNext).xlt = s.xlt := rfl
@[simp] theorem apply_packNext_tiers : (s.apply .packNext).tiers = s.tiers := rfl
@[simp] theorem apply_packNext_banks : (s.apply .packNext).banks = s.banks := rfl
@[simp] theorem apply_packNext_march : (s.apply .packNext).march = s.march := rfl
@[simp] theorem apply_packNext_cmpErrs : (s.apply .packNext).cmpErrs = s.cmpErrs := rfl
@[simp] theorem apply_packNext_attErrs : (s.apply .packNext).attErrs = s.attErrs := rfl
@[simp] theorem apply_packNext_hlErrs : (s.apply .packNext).hlErrs = s.hlErrs := rfl
@[simp] theorem apply_packNext_cmpInvalidating : (s.apply .packNext).cmpInvalidating = s.cmpInvalidating := rfl
@[simp] theorem apply_packNext_cmpCache : (s.apply .packNext).cmpCache = s.cmpCache := rfl
@[simp] theorem apply_packNext_port : (s.apply .packNext).port = s.port := rfl
@[simp] theorem apply_packNext_mailbox : (s.apply .packNext).mailbox = s.mailbox := rfl
@[simp] theorem apply_packNext_links : (s.apply .packNext).links = s.links := rfl
@[simp] theorem apply_packNext_fabric : (s.apply .packNext).fabric = s.fabric := rfl
@[simp] theorem apply_packNext_outbound : (s.apply .packNext).outbound = s.outbound := rfl
@[simp] theorem apply_packNext_sec : (s.apply .packNext).sec = s.sec := rfl
@[simp] theorem apply_packNext_rotation : (s.apply .packNext).rotation = s.rotation := rfl
@[simp] theorem apply_packNext_sliceLate : (s.apply .packNext).sliceLate = s.sliceLate := rfl
@[simp] theorem apply_packNext_power : (s.apply .packNext).power = s.power := rfl
@[simp] theorem apply_packNext_flt : (s.apply .packNext).flt = s.flt := rfl
@[simp] theorem apply_packNext_packNext :
    (s.apply .packNext).packNext = s.packNext + 1 := rfl

@[simp] theorem apply_xlt_pending f : (s.apply (.xlt f)).pending = s.pending := rfl
@[simp] theorem apply_xlt_outbox f : (s.apply (.xlt f)).outbox = s.outbox := rfl
@[simp] theorem apply_xlt_ticks f : (s.apply (.xlt f)).ticks = s.ticks := rfl
@[simp] theorem apply_xlt_free f : (s.apply (.xlt f)).free = s.free := rfl
@[simp] theorem apply_xlt_mem f : (s.apply (.xlt f)).mem = s.mem := rfl
@[simp] theorem apply_xlt_undef f : (s.apply (.xlt f)).undef = s.undef := rfl
@[simp] theorem apply_xlt_marks f : (s.apply (.xlt f)).marks = s.marks := rfl
@[simp] theorem apply_xlt_lineKey f : (s.apply (.xlt f)).lineKey = s.lineKey := rfl
@[simp] theorem apply_xlt_regs f : (s.apply (.xlt f)).regs = s.regs := rfl
@[simp] theorem apply_xlt_loader f : (s.apply (.xlt f)).loader = s.loader := rfl
@[simp] theorem apply_xlt_ctxs f : (s.apply (.xlt f)).ctxs = s.ctxs := rfl
@[simp] theorem apply_xlt_windows f : (s.apply (.xlt f)).windows = s.windows := rfl
@[simp] theorem apply_xlt_hub f : (s.apply (.xlt f)).hub = s.hub := rfl
@[simp] theorem apply_xlt_clusters f : (s.apply (.xlt f)).clusters = s.clusters := rfl
@[simp] theorem apply_xlt_cores f : (s.apply (.xlt f)).cores = s.cores := rfl
@[simp] theorem apply_xlt_srCtr f : (s.apply (.xlt f)).srCtr = s.srCtr := rfl
@[simp] theorem apply_xlt_rings f : (s.apply (.xlt f)).rings = s.rings := rfl
@[simp] theorem apply_xlt_issues f : (s.apply (.xlt f)).issues = s.issues := rfl
@[simp] theorem apply_xlt_reqs f : (s.apply (.xlt f)).reqs = s.reqs := rfl
@[simp] theorem apply_xlt_stampNext f : (s.apply (.xlt f)).stampNext = s.stampNext := rfl
@[simp] theorem apply_xlt_periods f : (s.apply (.xlt f)).periods = s.periods := rfl
@[simp] theorem apply_xlt_sampler f : (s.apply (.xlt f)).sampler = s.sampler := rfl
@[simp] theorem apply_xlt_pages f : (s.apply (.xlt f)).pages = s.pages := rfl
@[simp] theorem apply_xlt_devRings f : (s.apply (.xlt f)).devRings = s.devRings := rfl
@[simp] theorem apply_xlt_mig f : (s.apply (.xlt f)).mig = s.mig := rfl
@[simp] theorem apply_xlt_packs f : (s.apply (.xlt f)).packs = s.packs := rfl
@[simp] theorem apply_xlt_packNext f : (s.apply (.xlt f)).packNext = s.packNext := rfl
@[simp] theorem apply_xlt_tiers f : (s.apply (.xlt f)).tiers = s.tiers := rfl
@[simp] theorem apply_xlt_banks f : (s.apply (.xlt f)).banks = s.banks := rfl
@[simp] theorem apply_xlt_march f : (s.apply (.xlt f)).march = s.march := rfl
@[simp] theorem apply_xlt_cmpErrs f : (s.apply (.xlt f)).cmpErrs = s.cmpErrs := rfl
@[simp] theorem apply_xlt_attErrs f : (s.apply (.xlt f)).attErrs = s.attErrs := rfl
@[simp] theorem apply_xlt_hlErrs f : (s.apply (.xlt f)).hlErrs = s.hlErrs := rfl
@[simp] theorem apply_xlt_cmpInvalidating f : (s.apply (.xlt f)).cmpInvalidating = s.cmpInvalidating := rfl
@[simp] theorem apply_xlt_cmpCache f : (s.apply (.xlt f)).cmpCache = s.cmpCache := rfl
@[simp] theorem apply_xlt_port f : (s.apply (.xlt f)).port = s.port := rfl
@[simp] theorem apply_xlt_mailbox f : (s.apply (.xlt f)).mailbox = s.mailbox := rfl
@[simp] theorem apply_xlt_links f : (s.apply (.xlt f)).links = s.links := rfl
@[simp] theorem apply_xlt_fabric f : (s.apply (.xlt f)).fabric = s.fabric := rfl
@[simp] theorem apply_xlt_outbound f : (s.apply (.xlt f)).outbound = s.outbound := rfl
@[simp] theorem apply_xlt_sec f : (s.apply (.xlt f)).sec = s.sec := rfl
@[simp] theorem apply_xlt_rotation f : (s.apply (.xlt f)).rotation = s.rotation := rfl
@[simp] theorem apply_xlt_sliceLate f : (s.apply (.xlt f)).sliceLate = s.sliceLate := rfl
@[simp] theorem apply_xlt_power f : (s.apply (.xlt f)).power = s.power := rfl
@[simp] theorem apply_xlt_flt f : (s.apply (.xlt f)).flt = s.flt := rfl
@[simp] theorem apply_xlt_xlt f :
    (s.apply (.xlt f)).xlt = f s.xlt := rfl

@[simp] theorem apply_tier_pending t f : (s.apply (.tier t f)).pending = s.pending := rfl
@[simp] theorem apply_tier_outbox t f : (s.apply (.tier t f)).outbox = s.outbox := rfl
@[simp] theorem apply_tier_ticks t f : (s.apply (.tier t f)).ticks = s.ticks := rfl
@[simp] theorem apply_tier_free t f : (s.apply (.tier t f)).free = s.free := rfl
@[simp] theorem apply_tier_mem t f : (s.apply (.tier t f)).mem = s.mem := rfl
@[simp] theorem apply_tier_undef t f : (s.apply (.tier t f)).undef = s.undef := rfl
@[simp] theorem apply_tier_marks t f : (s.apply (.tier t f)).marks = s.marks := rfl
@[simp] theorem apply_tier_lineKey t f : (s.apply (.tier t f)).lineKey = s.lineKey := rfl
@[simp] theorem apply_tier_regs t f : (s.apply (.tier t f)).regs = s.regs := rfl
@[simp] theorem apply_tier_loader t f : (s.apply (.tier t f)).loader = s.loader := rfl
@[simp] theorem apply_tier_ctxs t f : (s.apply (.tier t f)).ctxs = s.ctxs := rfl
@[simp] theorem apply_tier_windows t f : (s.apply (.tier t f)).windows = s.windows := rfl
@[simp] theorem apply_tier_hub t f : (s.apply (.tier t f)).hub = s.hub := rfl
@[simp] theorem apply_tier_clusters t f : (s.apply (.tier t f)).clusters = s.clusters := rfl
@[simp] theorem apply_tier_cores t f : (s.apply (.tier t f)).cores = s.cores := rfl
@[simp] theorem apply_tier_srCtr t f : (s.apply (.tier t f)).srCtr = s.srCtr := rfl
@[simp] theorem apply_tier_rings t f : (s.apply (.tier t f)).rings = s.rings := rfl
@[simp] theorem apply_tier_issues t f : (s.apply (.tier t f)).issues = s.issues := rfl
@[simp] theorem apply_tier_reqs t f : (s.apply (.tier t f)).reqs = s.reqs := rfl
@[simp] theorem apply_tier_stampNext t f : (s.apply (.tier t f)).stampNext = s.stampNext := rfl
@[simp] theorem apply_tier_periods t f : (s.apply (.tier t f)).periods = s.periods := rfl
@[simp] theorem apply_tier_sampler t f : (s.apply (.tier t f)).sampler = s.sampler := rfl
@[simp] theorem apply_tier_pages t f : (s.apply (.tier t f)).pages = s.pages := rfl
@[simp] theorem apply_tier_devRings t f : (s.apply (.tier t f)).devRings = s.devRings := rfl
@[simp] theorem apply_tier_mig t f : (s.apply (.tier t f)).mig = s.mig := rfl
@[simp] theorem apply_tier_packs t f : (s.apply (.tier t f)).packs = s.packs := rfl
@[simp] theorem apply_tier_packNext t f : (s.apply (.tier t f)).packNext = s.packNext := rfl
@[simp] theorem apply_tier_xlt t f : (s.apply (.tier t f)).xlt = s.xlt := rfl
@[simp] theorem apply_tier_banks t f : (s.apply (.tier t f)).banks = s.banks := rfl
@[simp] theorem apply_tier_march t f : (s.apply (.tier t f)).march = s.march := rfl
@[simp] theorem apply_tier_cmpErrs t f : (s.apply (.tier t f)).cmpErrs = s.cmpErrs := rfl
@[simp] theorem apply_tier_attErrs t f : (s.apply (.tier t f)).attErrs = s.attErrs := rfl
@[simp] theorem apply_tier_hlErrs t f : (s.apply (.tier t f)).hlErrs = s.hlErrs := rfl
@[simp] theorem apply_tier_cmpInvalidating t f : (s.apply (.tier t f)).cmpInvalidating = s.cmpInvalidating := rfl
@[simp] theorem apply_tier_cmpCache t f : (s.apply (.tier t f)).cmpCache = s.cmpCache := rfl
@[simp] theorem apply_tier_port t f : (s.apply (.tier t f)).port = s.port := rfl
@[simp] theorem apply_tier_mailbox t f : (s.apply (.tier t f)).mailbox = s.mailbox := rfl
@[simp] theorem apply_tier_links t f : (s.apply (.tier t f)).links = s.links := rfl
@[simp] theorem apply_tier_fabric t f : (s.apply (.tier t f)).fabric = s.fabric := rfl
@[simp] theorem apply_tier_outbound t f : (s.apply (.tier t f)).outbound = s.outbound := rfl
@[simp] theorem apply_tier_sec t f : (s.apply (.tier t f)).sec = s.sec := rfl
@[simp] theorem apply_tier_rotation t f : (s.apply (.tier t f)).rotation = s.rotation := rfl
@[simp] theorem apply_tier_sliceLate t f : (s.apply (.tier t f)).sliceLate = s.sliceLate := rfl
@[simp] theorem apply_tier_power t f : (s.apply (.tier t f)).power = s.power := rfl
@[simp] theorem apply_tier_flt t f : (s.apply (.tier t f)).flt = s.flt := rfl
@[simp] theorem apply_tier_tiers t f :
    (s.apply (.tier t f)).tiers = tabMod (fun _ => {}) s.tiers t f := rfl

@[simp] theorem apply_bank_pending b f : (s.apply (.bank b f)).pending = s.pending := rfl
@[simp] theorem apply_bank_outbox b f : (s.apply (.bank b f)).outbox = s.outbox := rfl
@[simp] theorem apply_bank_ticks b f : (s.apply (.bank b f)).ticks = s.ticks := rfl
@[simp] theorem apply_bank_free b f : (s.apply (.bank b f)).free = s.free := rfl
@[simp] theorem apply_bank_mem b f : (s.apply (.bank b f)).mem = s.mem := rfl
@[simp] theorem apply_bank_undef b f : (s.apply (.bank b f)).undef = s.undef := rfl
@[simp] theorem apply_bank_marks b f : (s.apply (.bank b f)).marks = s.marks := rfl
@[simp] theorem apply_bank_lineKey b f : (s.apply (.bank b f)).lineKey = s.lineKey := rfl
@[simp] theorem apply_bank_regs b f : (s.apply (.bank b f)).regs = s.regs := rfl
@[simp] theorem apply_bank_loader b f : (s.apply (.bank b f)).loader = s.loader := rfl
@[simp] theorem apply_bank_ctxs b f : (s.apply (.bank b f)).ctxs = s.ctxs := rfl
@[simp] theorem apply_bank_windows b f : (s.apply (.bank b f)).windows = s.windows := rfl
@[simp] theorem apply_bank_hub b f : (s.apply (.bank b f)).hub = s.hub := rfl
@[simp] theorem apply_bank_clusters b f : (s.apply (.bank b f)).clusters = s.clusters := rfl
@[simp] theorem apply_bank_cores b f : (s.apply (.bank b f)).cores = s.cores := rfl
@[simp] theorem apply_bank_srCtr b f : (s.apply (.bank b f)).srCtr = s.srCtr := rfl
@[simp] theorem apply_bank_rings b f : (s.apply (.bank b f)).rings = s.rings := rfl
@[simp] theorem apply_bank_issues b f : (s.apply (.bank b f)).issues = s.issues := rfl
@[simp] theorem apply_bank_reqs b f : (s.apply (.bank b f)).reqs = s.reqs := rfl
@[simp] theorem apply_bank_stampNext b f : (s.apply (.bank b f)).stampNext = s.stampNext := rfl
@[simp] theorem apply_bank_periods b f : (s.apply (.bank b f)).periods = s.periods := rfl
@[simp] theorem apply_bank_sampler b f : (s.apply (.bank b f)).sampler = s.sampler := rfl
@[simp] theorem apply_bank_pages b f : (s.apply (.bank b f)).pages = s.pages := rfl
@[simp] theorem apply_bank_devRings b f : (s.apply (.bank b f)).devRings = s.devRings := rfl
@[simp] theorem apply_bank_mig b f : (s.apply (.bank b f)).mig = s.mig := rfl
@[simp] theorem apply_bank_packs b f : (s.apply (.bank b f)).packs = s.packs := rfl
@[simp] theorem apply_bank_packNext b f : (s.apply (.bank b f)).packNext = s.packNext := rfl
@[simp] theorem apply_bank_xlt b f : (s.apply (.bank b f)).xlt = s.xlt := rfl
@[simp] theorem apply_bank_tiers b f : (s.apply (.bank b f)).tiers = s.tiers := rfl
@[simp] theorem apply_bank_march b f : (s.apply (.bank b f)).march = s.march := rfl
@[simp] theorem apply_bank_cmpErrs b f : (s.apply (.bank b f)).cmpErrs = s.cmpErrs := rfl
@[simp] theorem apply_bank_attErrs b f : (s.apply (.bank b f)).attErrs = s.attErrs := rfl
@[simp] theorem apply_bank_hlErrs b f : (s.apply (.bank b f)).hlErrs = s.hlErrs := rfl
@[simp] theorem apply_bank_cmpInvalidating b f : (s.apply (.bank b f)).cmpInvalidating = s.cmpInvalidating := rfl
@[simp] theorem apply_bank_cmpCache b f : (s.apply (.bank b f)).cmpCache = s.cmpCache := rfl
@[simp] theorem apply_bank_port b f : (s.apply (.bank b f)).port = s.port := rfl
@[simp] theorem apply_bank_mailbox b f : (s.apply (.bank b f)).mailbox = s.mailbox := rfl
@[simp] theorem apply_bank_links b f : (s.apply (.bank b f)).links = s.links := rfl
@[simp] theorem apply_bank_fabric b f : (s.apply (.bank b f)).fabric = s.fabric := rfl
@[simp] theorem apply_bank_outbound b f : (s.apply (.bank b f)).outbound = s.outbound := rfl
@[simp] theorem apply_bank_sec b f : (s.apply (.bank b f)).sec = s.sec := rfl
@[simp] theorem apply_bank_rotation b f : (s.apply (.bank b f)).rotation = s.rotation := rfl
@[simp] theorem apply_bank_sliceLate b f : (s.apply (.bank b f)).sliceLate = s.sliceLate := rfl
@[simp] theorem apply_bank_power b f : (s.apply (.bank b f)).power = s.power := rfl
@[simp] theorem apply_bank_flt b f : (s.apply (.bank b f)).flt = s.flt := rfl
@[simp] theorem apply_bank_banks b f :
    (s.apply (.bank b f)).banks = tabMod (fun _ => {}) s.banks b f := rfl

@[simp] theorem apply_march_pending m : (s.apply (.march m)).pending = s.pending := rfl
@[simp] theorem apply_march_outbox m : (s.apply (.march m)).outbox = s.outbox := rfl
@[simp] theorem apply_march_ticks m : (s.apply (.march m)).ticks = s.ticks := rfl
@[simp] theorem apply_march_free m : (s.apply (.march m)).free = s.free := rfl
@[simp] theorem apply_march_mem m : (s.apply (.march m)).mem = s.mem := rfl
@[simp] theorem apply_march_undef m : (s.apply (.march m)).undef = s.undef := rfl
@[simp] theorem apply_march_marks m : (s.apply (.march m)).marks = s.marks := rfl
@[simp] theorem apply_march_lineKey m : (s.apply (.march m)).lineKey = s.lineKey := rfl
@[simp] theorem apply_march_regs m : (s.apply (.march m)).regs = s.regs := rfl
@[simp] theorem apply_march_loader m : (s.apply (.march m)).loader = s.loader := rfl
@[simp] theorem apply_march_ctxs m : (s.apply (.march m)).ctxs = s.ctxs := rfl
@[simp] theorem apply_march_windows m : (s.apply (.march m)).windows = s.windows := rfl
@[simp] theorem apply_march_hub m : (s.apply (.march m)).hub = s.hub := rfl
@[simp] theorem apply_march_clusters m : (s.apply (.march m)).clusters = s.clusters := rfl
@[simp] theorem apply_march_cores m : (s.apply (.march m)).cores = s.cores := rfl
@[simp] theorem apply_march_srCtr m : (s.apply (.march m)).srCtr = s.srCtr := rfl
@[simp] theorem apply_march_rings m : (s.apply (.march m)).rings = s.rings := rfl
@[simp] theorem apply_march_issues m : (s.apply (.march m)).issues = s.issues := rfl
@[simp] theorem apply_march_reqs m : (s.apply (.march m)).reqs = s.reqs := rfl
@[simp] theorem apply_march_stampNext m : (s.apply (.march m)).stampNext = s.stampNext := rfl
@[simp] theorem apply_march_periods m : (s.apply (.march m)).periods = s.periods := rfl
@[simp] theorem apply_march_sampler m : (s.apply (.march m)).sampler = s.sampler := rfl
@[simp] theorem apply_march_pages m : (s.apply (.march m)).pages = s.pages := rfl
@[simp] theorem apply_march_devRings m : (s.apply (.march m)).devRings = s.devRings := rfl
@[simp] theorem apply_march_mig m : (s.apply (.march m)).mig = s.mig := rfl
@[simp] theorem apply_march_packs m : (s.apply (.march m)).packs = s.packs := rfl
@[simp] theorem apply_march_packNext m : (s.apply (.march m)).packNext = s.packNext := rfl
@[simp] theorem apply_march_xlt m : (s.apply (.march m)).xlt = s.xlt := rfl
@[simp] theorem apply_march_tiers m : (s.apply (.march m)).tiers = s.tiers := rfl
@[simp] theorem apply_march_banks m : (s.apply (.march m)).banks = s.banks := rfl
@[simp] theorem apply_march_cmpErrs m : (s.apply (.march m)).cmpErrs = s.cmpErrs := rfl
@[simp] theorem apply_march_attErrs m : (s.apply (.march m)).attErrs = s.attErrs := rfl
@[simp] theorem apply_march_hlErrs m : (s.apply (.march m)).hlErrs = s.hlErrs := rfl
@[simp] theorem apply_march_cmpInvalidating m : (s.apply (.march m)).cmpInvalidating = s.cmpInvalidating := rfl
@[simp] theorem apply_march_cmpCache m : (s.apply (.march m)).cmpCache = s.cmpCache := rfl
@[simp] theorem apply_march_port m : (s.apply (.march m)).port = s.port := rfl
@[simp] theorem apply_march_mailbox m : (s.apply (.march m)).mailbox = s.mailbox := rfl
@[simp] theorem apply_march_links m : (s.apply (.march m)).links = s.links := rfl
@[simp] theorem apply_march_fabric m : (s.apply (.march m)).fabric = s.fabric := rfl
@[simp] theorem apply_march_outbound m : (s.apply (.march m)).outbound = s.outbound := rfl
@[simp] theorem apply_march_sec m : (s.apply (.march m)).sec = s.sec := rfl
@[simp] theorem apply_march_rotation m : (s.apply (.march m)).rotation = s.rotation := rfl
@[simp] theorem apply_march_sliceLate m : (s.apply (.march m)).sliceLate = s.sliceLate := rfl
@[simp] theorem apply_march_power m : (s.apply (.march m)).power = s.power := rfl
@[simp] theorem apply_march_flt m : (s.apply (.march m)).flt = s.flt := rfl
@[simp] theorem apply_march_march m :
    (s.apply (.march m)).march = m := rfl

@[simp] theorem apply_cmpErrs_pending f : (s.apply (.cmpErrs f)).pending = s.pending := rfl
@[simp] theorem apply_cmpErrs_outbox f : (s.apply (.cmpErrs f)).outbox = s.outbox := rfl
@[simp] theorem apply_cmpErrs_ticks f : (s.apply (.cmpErrs f)).ticks = s.ticks := rfl
@[simp] theorem apply_cmpErrs_free f : (s.apply (.cmpErrs f)).free = s.free := rfl
@[simp] theorem apply_cmpErrs_mem f : (s.apply (.cmpErrs f)).mem = s.mem := rfl
@[simp] theorem apply_cmpErrs_undef f : (s.apply (.cmpErrs f)).undef = s.undef := rfl
@[simp] theorem apply_cmpErrs_marks f : (s.apply (.cmpErrs f)).marks = s.marks := rfl
@[simp] theorem apply_cmpErrs_lineKey f : (s.apply (.cmpErrs f)).lineKey = s.lineKey := rfl
@[simp] theorem apply_cmpErrs_regs f : (s.apply (.cmpErrs f)).regs = s.regs := rfl
@[simp] theorem apply_cmpErrs_loader f : (s.apply (.cmpErrs f)).loader = s.loader := rfl
@[simp] theorem apply_cmpErrs_ctxs f : (s.apply (.cmpErrs f)).ctxs = s.ctxs := rfl
@[simp] theorem apply_cmpErrs_windows f : (s.apply (.cmpErrs f)).windows = s.windows := rfl
@[simp] theorem apply_cmpErrs_hub f : (s.apply (.cmpErrs f)).hub = s.hub := rfl
@[simp] theorem apply_cmpErrs_clusters f : (s.apply (.cmpErrs f)).clusters = s.clusters := rfl
@[simp] theorem apply_cmpErrs_cores f : (s.apply (.cmpErrs f)).cores = s.cores := rfl
@[simp] theorem apply_cmpErrs_srCtr f : (s.apply (.cmpErrs f)).srCtr = s.srCtr := rfl
@[simp] theorem apply_cmpErrs_rings f : (s.apply (.cmpErrs f)).rings = s.rings := rfl
@[simp] theorem apply_cmpErrs_issues f : (s.apply (.cmpErrs f)).issues = s.issues := rfl
@[simp] theorem apply_cmpErrs_reqs f : (s.apply (.cmpErrs f)).reqs = s.reqs := rfl
@[simp] theorem apply_cmpErrs_stampNext f : (s.apply (.cmpErrs f)).stampNext = s.stampNext := rfl
@[simp] theorem apply_cmpErrs_periods f : (s.apply (.cmpErrs f)).periods = s.periods := rfl
@[simp] theorem apply_cmpErrs_sampler f : (s.apply (.cmpErrs f)).sampler = s.sampler := rfl
@[simp] theorem apply_cmpErrs_pages f : (s.apply (.cmpErrs f)).pages = s.pages := rfl
@[simp] theorem apply_cmpErrs_devRings f : (s.apply (.cmpErrs f)).devRings = s.devRings := rfl
@[simp] theorem apply_cmpErrs_mig f : (s.apply (.cmpErrs f)).mig = s.mig := rfl
@[simp] theorem apply_cmpErrs_packs f : (s.apply (.cmpErrs f)).packs = s.packs := rfl
@[simp] theorem apply_cmpErrs_packNext f : (s.apply (.cmpErrs f)).packNext = s.packNext := rfl
@[simp] theorem apply_cmpErrs_xlt f : (s.apply (.cmpErrs f)).xlt = s.xlt := rfl
@[simp] theorem apply_cmpErrs_tiers f : (s.apply (.cmpErrs f)).tiers = s.tiers := rfl
@[simp] theorem apply_cmpErrs_banks f : (s.apply (.cmpErrs f)).banks = s.banks := rfl
@[simp] theorem apply_cmpErrs_march f : (s.apply (.cmpErrs f)).march = s.march := rfl
@[simp] theorem apply_cmpErrs_attErrs f : (s.apply (.cmpErrs f)).attErrs = s.attErrs := rfl
@[simp] theorem apply_cmpErrs_hlErrs f : (s.apply (.cmpErrs f)).hlErrs = s.hlErrs := rfl
@[simp] theorem apply_cmpErrs_cmpInvalidating f : (s.apply (.cmpErrs f)).cmpInvalidating = s.cmpInvalidating := rfl
@[simp] theorem apply_cmpErrs_cmpCache f : (s.apply (.cmpErrs f)).cmpCache = s.cmpCache := rfl
@[simp] theorem apply_cmpErrs_port f : (s.apply (.cmpErrs f)).port = s.port := rfl
@[simp] theorem apply_cmpErrs_mailbox f : (s.apply (.cmpErrs f)).mailbox = s.mailbox := rfl
@[simp] theorem apply_cmpErrs_links f : (s.apply (.cmpErrs f)).links = s.links := rfl
@[simp] theorem apply_cmpErrs_fabric f : (s.apply (.cmpErrs f)).fabric = s.fabric := rfl
@[simp] theorem apply_cmpErrs_outbound f : (s.apply (.cmpErrs f)).outbound = s.outbound := rfl
@[simp] theorem apply_cmpErrs_sec f : (s.apply (.cmpErrs f)).sec = s.sec := rfl
@[simp] theorem apply_cmpErrs_rotation f : (s.apply (.cmpErrs f)).rotation = s.rotation := rfl
@[simp] theorem apply_cmpErrs_sliceLate f : (s.apply (.cmpErrs f)).sliceLate = s.sliceLate := rfl
@[simp] theorem apply_cmpErrs_power f : (s.apply (.cmpErrs f)).power = s.power := rfl
@[simp] theorem apply_cmpErrs_flt f : (s.apply (.cmpErrs f)).flt = s.flt := rfl
@[simp] theorem apply_cmpErrs_cmpErrs f :
    (s.apply (.cmpErrs f)).cmpErrs = f s.cmpErrs := rfl

@[simp] theorem apply_attErrs_pending f : (s.apply (.attErrs f)).pending = s.pending := rfl
@[simp] theorem apply_attErrs_outbox f : (s.apply (.attErrs f)).outbox = s.outbox := rfl
@[simp] theorem apply_attErrs_ticks f : (s.apply (.attErrs f)).ticks = s.ticks := rfl
@[simp] theorem apply_attErrs_free f : (s.apply (.attErrs f)).free = s.free := rfl
@[simp] theorem apply_attErrs_mem f : (s.apply (.attErrs f)).mem = s.mem := rfl
@[simp] theorem apply_attErrs_undef f : (s.apply (.attErrs f)).undef = s.undef := rfl
@[simp] theorem apply_attErrs_marks f : (s.apply (.attErrs f)).marks = s.marks := rfl
@[simp] theorem apply_attErrs_lineKey f : (s.apply (.attErrs f)).lineKey = s.lineKey := rfl
@[simp] theorem apply_attErrs_regs f : (s.apply (.attErrs f)).regs = s.regs := rfl
@[simp] theorem apply_attErrs_loader f : (s.apply (.attErrs f)).loader = s.loader := rfl
@[simp] theorem apply_attErrs_ctxs f : (s.apply (.attErrs f)).ctxs = s.ctxs := rfl
@[simp] theorem apply_attErrs_windows f : (s.apply (.attErrs f)).windows = s.windows := rfl
@[simp] theorem apply_attErrs_hub f : (s.apply (.attErrs f)).hub = s.hub := rfl
@[simp] theorem apply_attErrs_clusters f : (s.apply (.attErrs f)).clusters = s.clusters := rfl
@[simp] theorem apply_attErrs_cores f : (s.apply (.attErrs f)).cores = s.cores := rfl
@[simp] theorem apply_attErrs_srCtr f : (s.apply (.attErrs f)).srCtr = s.srCtr := rfl
@[simp] theorem apply_attErrs_rings f : (s.apply (.attErrs f)).rings = s.rings := rfl
@[simp] theorem apply_attErrs_issues f : (s.apply (.attErrs f)).issues = s.issues := rfl
@[simp] theorem apply_attErrs_reqs f : (s.apply (.attErrs f)).reqs = s.reqs := rfl
@[simp] theorem apply_attErrs_stampNext f : (s.apply (.attErrs f)).stampNext = s.stampNext := rfl
@[simp] theorem apply_attErrs_periods f : (s.apply (.attErrs f)).periods = s.periods := rfl
@[simp] theorem apply_attErrs_sampler f : (s.apply (.attErrs f)).sampler = s.sampler := rfl
@[simp] theorem apply_attErrs_pages f : (s.apply (.attErrs f)).pages = s.pages := rfl
@[simp] theorem apply_attErrs_devRings f : (s.apply (.attErrs f)).devRings = s.devRings := rfl
@[simp] theorem apply_attErrs_mig f : (s.apply (.attErrs f)).mig = s.mig := rfl
@[simp] theorem apply_attErrs_packs f : (s.apply (.attErrs f)).packs = s.packs := rfl
@[simp] theorem apply_attErrs_packNext f : (s.apply (.attErrs f)).packNext = s.packNext := rfl
@[simp] theorem apply_attErrs_xlt f : (s.apply (.attErrs f)).xlt = s.xlt := rfl
@[simp] theorem apply_attErrs_tiers f : (s.apply (.attErrs f)).tiers = s.tiers := rfl
@[simp] theorem apply_attErrs_banks f : (s.apply (.attErrs f)).banks = s.banks := rfl
@[simp] theorem apply_attErrs_march f : (s.apply (.attErrs f)).march = s.march := rfl
@[simp] theorem apply_attErrs_cmpErrs f : (s.apply (.attErrs f)).cmpErrs = s.cmpErrs := rfl
@[simp] theorem apply_attErrs_hlErrs f : (s.apply (.attErrs f)).hlErrs = s.hlErrs := rfl
@[simp] theorem apply_attErrs_cmpInvalidating f : (s.apply (.attErrs f)).cmpInvalidating = s.cmpInvalidating := rfl
@[simp] theorem apply_attErrs_cmpCache f : (s.apply (.attErrs f)).cmpCache = s.cmpCache := rfl
@[simp] theorem apply_attErrs_port f : (s.apply (.attErrs f)).port = s.port := rfl
@[simp] theorem apply_attErrs_mailbox f : (s.apply (.attErrs f)).mailbox = s.mailbox := rfl
@[simp] theorem apply_attErrs_links f : (s.apply (.attErrs f)).links = s.links := rfl
@[simp] theorem apply_attErrs_fabric f : (s.apply (.attErrs f)).fabric = s.fabric := rfl
@[simp] theorem apply_attErrs_outbound f : (s.apply (.attErrs f)).outbound = s.outbound := rfl
@[simp] theorem apply_attErrs_sec f : (s.apply (.attErrs f)).sec = s.sec := rfl
@[simp] theorem apply_attErrs_rotation f : (s.apply (.attErrs f)).rotation = s.rotation := rfl
@[simp] theorem apply_attErrs_sliceLate f : (s.apply (.attErrs f)).sliceLate = s.sliceLate := rfl
@[simp] theorem apply_attErrs_power f : (s.apply (.attErrs f)).power = s.power := rfl
@[simp] theorem apply_attErrs_flt f : (s.apply (.attErrs f)).flt = s.flt := rfl
@[simp] theorem apply_attErrs_attErrs f :
    (s.apply (.attErrs f)).attErrs = f s.attErrs := rfl

@[simp] theorem apply_hlErrs_pending f : (s.apply (.hlErrs f)).pending = s.pending := rfl
@[simp] theorem apply_hlErrs_outbox f : (s.apply (.hlErrs f)).outbox = s.outbox := rfl
@[simp] theorem apply_hlErrs_ticks f : (s.apply (.hlErrs f)).ticks = s.ticks := rfl
@[simp] theorem apply_hlErrs_free f : (s.apply (.hlErrs f)).free = s.free := rfl
@[simp] theorem apply_hlErrs_mem f : (s.apply (.hlErrs f)).mem = s.mem := rfl
@[simp] theorem apply_hlErrs_undef f : (s.apply (.hlErrs f)).undef = s.undef := rfl
@[simp] theorem apply_hlErrs_marks f : (s.apply (.hlErrs f)).marks = s.marks := rfl
@[simp] theorem apply_hlErrs_lineKey f : (s.apply (.hlErrs f)).lineKey = s.lineKey := rfl
@[simp] theorem apply_hlErrs_regs f : (s.apply (.hlErrs f)).regs = s.regs := rfl
@[simp] theorem apply_hlErrs_loader f : (s.apply (.hlErrs f)).loader = s.loader := rfl
@[simp] theorem apply_hlErrs_ctxs f : (s.apply (.hlErrs f)).ctxs = s.ctxs := rfl
@[simp] theorem apply_hlErrs_windows f : (s.apply (.hlErrs f)).windows = s.windows := rfl
@[simp] theorem apply_hlErrs_hub f : (s.apply (.hlErrs f)).hub = s.hub := rfl
@[simp] theorem apply_hlErrs_clusters f : (s.apply (.hlErrs f)).clusters = s.clusters := rfl
@[simp] theorem apply_hlErrs_cores f : (s.apply (.hlErrs f)).cores = s.cores := rfl
@[simp] theorem apply_hlErrs_srCtr f : (s.apply (.hlErrs f)).srCtr = s.srCtr := rfl
@[simp] theorem apply_hlErrs_rings f : (s.apply (.hlErrs f)).rings = s.rings := rfl
@[simp] theorem apply_hlErrs_issues f : (s.apply (.hlErrs f)).issues = s.issues := rfl
@[simp] theorem apply_hlErrs_reqs f : (s.apply (.hlErrs f)).reqs = s.reqs := rfl
@[simp] theorem apply_hlErrs_stampNext f : (s.apply (.hlErrs f)).stampNext = s.stampNext := rfl
@[simp] theorem apply_hlErrs_periods f : (s.apply (.hlErrs f)).periods = s.periods := rfl
@[simp] theorem apply_hlErrs_sampler f : (s.apply (.hlErrs f)).sampler = s.sampler := rfl
@[simp] theorem apply_hlErrs_pages f : (s.apply (.hlErrs f)).pages = s.pages := rfl
@[simp] theorem apply_hlErrs_devRings f : (s.apply (.hlErrs f)).devRings = s.devRings := rfl
@[simp] theorem apply_hlErrs_mig f : (s.apply (.hlErrs f)).mig = s.mig := rfl
@[simp] theorem apply_hlErrs_packs f : (s.apply (.hlErrs f)).packs = s.packs := rfl
@[simp] theorem apply_hlErrs_packNext f : (s.apply (.hlErrs f)).packNext = s.packNext := rfl
@[simp] theorem apply_hlErrs_xlt f : (s.apply (.hlErrs f)).xlt = s.xlt := rfl
@[simp] theorem apply_hlErrs_tiers f : (s.apply (.hlErrs f)).tiers = s.tiers := rfl
@[simp] theorem apply_hlErrs_banks f : (s.apply (.hlErrs f)).banks = s.banks := rfl
@[simp] theorem apply_hlErrs_march f : (s.apply (.hlErrs f)).march = s.march := rfl
@[simp] theorem apply_hlErrs_cmpErrs f : (s.apply (.hlErrs f)).cmpErrs = s.cmpErrs := rfl
@[simp] theorem apply_hlErrs_attErrs f : (s.apply (.hlErrs f)).attErrs = s.attErrs := rfl
@[simp] theorem apply_hlErrs_cmpInvalidating f : (s.apply (.hlErrs f)).cmpInvalidating = s.cmpInvalidating := rfl
@[simp] theorem apply_hlErrs_cmpCache f : (s.apply (.hlErrs f)).cmpCache = s.cmpCache := rfl
@[simp] theorem apply_hlErrs_port f : (s.apply (.hlErrs f)).port = s.port := rfl
@[simp] theorem apply_hlErrs_mailbox f : (s.apply (.hlErrs f)).mailbox = s.mailbox := rfl
@[simp] theorem apply_hlErrs_links f : (s.apply (.hlErrs f)).links = s.links := rfl
@[simp] theorem apply_hlErrs_fabric f : (s.apply (.hlErrs f)).fabric = s.fabric := rfl
@[simp] theorem apply_hlErrs_outbound f : (s.apply (.hlErrs f)).outbound = s.outbound := rfl
@[simp] theorem apply_hlErrs_sec f : (s.apply (.hlErrs f)).sec = s.sec := rfl
@[simp] theorem apply_hlErrs_rotation f : (s.apply (.hlErrs f)).rotation = s.rotation := rfl
@[simp] theorem apply_hlErrs_sliceLate f : (s.apply (.hlErrs f)).sliceLate = s.sliceLate := rfl
@[simp] theorem apply_hlErrs_power f : (s.apply (.hlErrs f)).power = s.power := rfl
@[simp] theorem apply_hlErrs_flt f : (s.apply (.hlErrs f)).flt = s.flt := rfl
@[simp] theorem apply_hlErrs_hlErrs f :
    (s.apply (.hlErrs f)).hlErrs = f s.hlErrs := rfl

@[simp] theorem apply_cmpInv_pending c : (s.apply (.cmpInv c)).pending = s.pending := rfl
@[simp] theorem apply_cmpInv_outbox c : (s.apply (.cmpInv c)).outbox = s.outbox := rfl
@[simp] theorem apply_cmpInv_ticks c : (s.apply (.cmpInv c)).ticks = s.ticks := rfl
@[simp] theorem apply_cmpInv_free c : (s.apply (.cmpInv c)).free = s.free := rfl
@[simp] theorem apply_cmpInv_mem c : (s.apply (.cmpInv c)).mem = s.mem := rfl
@[simp] theorem apply_cmpInv_undef c : (s.apply (.cmpInv c)).undef = s.undef := rfl
@[simp] theorem apply_cmpInv_marks c : (s.apply (.cmpInv c)).marks = s.marks := rfl
@[simp] theorem apply_cmpInv_lineKey c : (s.apply (.cmpInv c)).lineKey = s.lineKey := rfl
@[simp] theorem apply_cmpInv_regs c : (s.apply (.cmpInv c)).regs = s.regs := rfl
@[simp] theorem apply_cmpInv_loader c : (s.apply (.cmpInv c)).loader = s.loader := rfl
@[simp] theorem apply_cmpInv_ctxs c : (s.apply (.cmpInv c)).ctxs = s.ctxs := rfl
@[simp] theorem apply_cmpInv_windows c : (s.apply (.cmpInv c)).windows = s.windows := rfl
@[simp] theorem apply_cmpInv_hub c : (s.apply (.cmpInv c)).hub = s.hub := rfl
@[simp] theorem apply_cmpInv_clusters c : (s.apply (.cmpInv c)).clusters = s.clusters := rfl
@[simp] theorem apply_cmpInv_cores c : (s.apply (.cmpInv c)).cores = s.cores := rfl
@[simp] theorem apply_cmpInv_srCtr c : (s.apply (.cmpInv c)).srCtr = s.srCtr := rfl
@[simp] theorem apply_cmpInv_rings c : (s.apply (.cmpInv c)).rings = s.rings := rfl
@[simp] theorem apply_cmpInv_issues c : (s.apply (.cmpInv c)).issues = s.issues := rfl
@[simp] theorem apply_cmpInv_reqs c : (s.apply (.cmpInv c)).reqs = s.reqs := rfl
@[simp] theorem apply_cmpInv_stampNext c : (s.apply (.cmpInv c)).stampNext = s.stampNext := rfl
@[simp] theorem apply_cmpInv_periods c : (s.apply (.cmpInv c)).periods = s.periods := rfl
@[simp] theorem apply_cmpInv_sampler c : (s.apply (.cmpInv c)).sampler = s.sampler := rfl
@[simp] theorem apply_cmpInv_pages c : (s.apply (.cmpInv c)).pages = s.pages := rfl
@[simp] theorem apply_cmpInv_devRings c : (s.apply (.cmpInv c)).devRings = s.devRings := rfl
@[simp] theorem apply_cmpInv_mig c : (s.apply (.cmpInv c)).mig = s.mig := rfl
@[simp] theorem apply_cmpInv_packs c : (s.apply (.cmpInv c)).packs = s.packs := rfl
@[simp] theorem apply_cmpInv_packNext c : (s.apply (.cmpInv c)).packNext = s.packNext := rfl
@[simp] theorem apply_cmpInv_xlt c : (s.apply (.cmpInv c)).xlt = s.xlt := rfl
@[simp] theorem apply_cmpInv_tiers c : (s.apply (.cmpInv c)).tiers = s.tiers := rfl
@[simp] theorem apply_cmpInv_banks c : (s.apply (.cmpInv c)).banks = s.banks := rfl
@[simp] theorem apply_cmpInv_march c : (s.apply (.cmpInv c)).march = s.march := rfl
@[simp] theorem apply_cmpInv_cmpErrs c : (s.apply (.cmpInv c)).cmpErrs = s.cmpErrs := rfl
@[simp] theorem apply_cmpInv_attErrs c : (s.apply (.cmpInv c)).attErrs = s.attErrs := rfl
@[simp] theorem apply_cmpInv_hlErrs c : (s.apply (.cmpInv c)).hlErrs = s.hlErrs := rfl
@[simp] theorem apply_cmpInv_cmpCache c : (s.apply (.cmpInv c)).cmpCache = s.cmpCache := rfl
@[simp] theorem apply_cmpInv_port c : (s.apply (.cmpInv c)).port = s.port := rfl
@[simp] theorem apply_cmpInv_mailbox c : (s.apply (.cmpInv c)).mailbox = s.mailbox := rfl
@[simp] theorem apply_cmpInv_links c : (s.apply (.cmpInv c)).links = s.links := rfl
@[simp] theorem apply_cmpInv_fabric c : (s.apply (.cmpInv c)).fabric = s.fabric := rfl
@[simp] theorem apply_cmpInv_outbound c : (s.apply (.cmpInv c)).outbound = s.outbound := rfl
@[simp] theorem apply_cmpInv_sec c : (s.apply (.cmpInv c)).sec = s.sec := rfl
@[simp] theorem apply_cmpInv_rotation c : (s.apply (.cmpInv c)).rotation = s.rotation := rfl
@[simp] theorem apply_cmpInv_sliceLate c : (s.apply (.cmpInv c)).sliceLate = s.sliceLate := rfl
@[simp] theorem apply_cmpInv_power c : (s.apply (.cmpInv c)).power = s.power := rfl
@[simp] theorem apply_cmpInv_flt c : (s.apply (.cmpInv c)).flt = s.flt := rfl
@[simp] theorem apply_cmpInv_cmpInvalidating c :
    (s.apply (.cmpInv c)).cmpInvalidating = c := rfl

@[simp] theorem apply_cmpCache_pending f : (s.apply (.cmpCache f)).pending = s.pending := rfl
@[simp] theorem apply_cmpCache_outbox f : (s.apply (.cmpCache f)).outbox = s.outbox := rfl
@[simp] theorem apply_cmpCache_ticks f : (s.apply (.cmpCache f)).ticks = s.ticks := rfl
@[simp] theorem apply_cmpCache_free f : (s.apply (.cmpCache f)).free = s.free := rfl
@[simp] theorem apply_cmpCache_mem f : (s.apply (.cmpCache f)).mem = s.mem := rfl
@[simp] theorem apply_cmpCache_undef f : (s.apply (.cmpCache f)).undef = s.undef := rfl
@[simp] theorem apply_cmpCache_marks f : (s.apply (.cmpCache f)).marks = s.marks := rfl
@[simp] theorem apply_cmpCache_lineKey f : (s.apply (.cmpCache f)).lineKey = s.lineKey := rfl
@[simp] theorem apply_cmpCache_regs f : (s.apply (.cmpCache f)).regs = s.regs := rfl
@[simp] theorem apply_cmpCache_loader f : (s.apply (.cmpCache f)).loader = s.loader := rfl
@[simp] theorem apply_cmpCache_ctxs f : (s.apply (.cmpCache f)).ctxs = s.ctxs := rfl
@[simp] theorem apply_cmpCache_windows f : (s.apply (.cmpCache f)).windows = s.windows := rfl
@[simp] theorem apply_cmpCache_hub f : (s.apply (.cmpCache f)).hub = s.hub := rfl
@[simp] theorem apply_cmpCache_clusters f : (s.apply (.cmpCache f)).clusters = s.clusters := rfl
@[simp] theorem apply_cmpCache_cores f : (s.apply (.cmpCache f)).cores = s.cores := rfl
@[simp] theorem apply_cmpCache_srCtr f : (s.apply (.cmpCache f)).srCtr = s.srCtr := rfl
@[simp] theorem apply_cmpCache_rings f : (s.apply (.cmpCache f)).rings = s.rings := rfl
@[simp] theorem apply_cmpCache_issues f : (s.apply (.cmpCache f)).issues = s.issues := rfl
@[simp] theorem apply_cmpCache_reqs f : (s.apply (.cmpCache f)).reqs = s.reqs := rfl
@[simp] theorem apply_cmpCache_stampNext f : (s.apply (.cmpCache f)).stampNext = s.stampNext := rfl
@[simp] theorem apply_cmpCache_periods f : (s.apply (.cmpCache f)).periods = s.periods := rfl
@[simp] theorem apply_cmpCache_sampler f : (s.apply (.cmpCache f)).sampler = s.sampler := rfl
@[simp] theorem apply_cmpCache_pages f : (s.apply (.cmpCache f)).pages = s.pages := rfl
@[simp] theorem apply_cmpCache_devRings f : (s.apply (.cmpCache f)).devRings = s.devRings := rfl
@[simp] theorem apply_cmpCache_mig f : (s.apply (.cmpCache f)).mig = s.mig := rfl
@[simp] theorem apply_cmpCache_packs f : (s.apply (.cmpCache f)).packs = s.packs := rfl
@[simp] theorem apply_cmpCache_packNext f : (s.apply (.cmpCache f)).packNext = s.packNext := rfl
@[simp] theorem apply_cmpCache_xlt f : (s.apply (.cmpCache f)).xlt = s.xlt := rfl
@[simp] theorem apply_cmpCache_tiers f : (s.apply (.cmpCache f)).tiers = s.tiers := rfl
@[simp] theorem apply_cmpCache_banks f : (s.apply (.cmpCache f)).banks = s.banks := rfl
@[simp] theorem apply_cmpCache_march f : (s.apply (.cmpCache f)).march = s.march := rfl
@[simp] theorem apply_cmpCache_cmpErrs f : (s.apply (.cmpCache f)).cmpErrs = s.cmpErrs := rfl
@[simp] theorem apply_cmpCache_attErrs f : (s.apply (.cmpCache f)).attErrs = s.attErrs := rfl
@[simp] theorem apply_cmpCache_hlErrs f : (s.apply (.cmpCache f)).hlErrs = s.hlErrs := rfl
@[simp] theorem apply_cmpCache_cmpInvalidating f : (s.apply (.cmpCache f)).cmpInvalidating = s.cmpInvalidating := rfl
@[simp] theorem apply_cmpCache_port f : (s.apply (.cmpCache f)).port = s.port := rfl
@[simp] theorem apply_cmpCache_mailbox f : (s.apply (.cmpCache f)).mailbox = s.mailbox := rfl
@[simp] theorem apply_cmpCache_links f : (s.apply (.cmpCache f)).links = s.links := rfl
@[simp] theorem apply_cmpCache_fabric f : (s.apply (.cmpCache f)).fabric = s.fabric := rfl
@[simp] theorem apply_cmpCache_outbound f : (s.apply (.cmpCache f)).outbound = s.outbound := rfl
@[simp] theorem apply_cmpCache_sec f : (s.apply (.cmpCache f)).sec = s.sec := rfl
@[simp] theorem apply_cmpCache_rotation f : (s.apply (.cmpCache f)).rotation = s.rotation := rfl
@[simp] theorem apply_cmpCache_sliceLate f : (s.apply (.cmpCache f)).sliceLate = s.sliceLate := rfl
@[simp] theorem apply_cmpCache_power f : (s.apply (.cmpCache f)).power = s.power := rfl
@[simp] theorem apply_cmpCache_flt f : (s.apply (.cmpCache f)).flt = s.flt := rfl
@[simp] theorem apply_cmpCache_cmpCache f :
    (s.apply (.cmpCache f)).cmpCache = f s.cmpCache := rfl

@[simp] theorem apply_port_pending f : (s.apply (.port f)).pending = s.pending := rfl
@[simp] theorem apply_port_outbox f : (s.apply (.port f)).outbox = s.outbox := rfl
@[simp] theorem apply_port_ticks f : (s.apply (.port f)).ticks = s.ticks := rfl
@[simp] theorem apply_port_free f : (s.apply (.port f)).free = s.free := rfl
@[simp] theorem apply_port_mem f : (s.apply (.port f)).mem = s.mem := rfl
@[simp] theorem apply_port_undef f : (s.apply (.port f)).undef = s.undef := rfl
@[simp] theorem apply_port_marks f : (s.apply (.port f)).marks = s.marks := rfl
@[simp] theorem apply_port_lineKey f : (s.apply (.port f)).lineKey = s.lineKey := rfl
@[simp] theorem apply_port_regs f : (s.apply (.port f)).regs = s.regs := rfl
@[simp] theorem apply_port_loader f : (s.apply (.port f)).loader = s.loader := rfl
@[simp] theorem apply_port_ctxs f : (s.apply (.port f)).ctxs = s.ctxs := rfl
@[simp] theorem apply_port_windows f : (s.apply (.port f)).windows = s.windows := rfl
@[simp] theorem apply_port_hub f : (s.apply (.port f)).hub = s.hub := rfl
@[simp] theorem apply_port_clusters f : (s.apply (.port f)).clusters = s.clusters := rfl
@[simp] theorem apply_port_cores f : (s.apply (.port f)).cores = s.cores := rfl
@[simp] theorem apply_port_srCtr f : (s.apply (.port f)).srCtr = s.srCtr := rfl
@[simp] theorem apply_port_rings f : (s.apply (.port f)).rings = s.rings := rfl
@[simp] theorem apply_port_issues f : (s.apply (.port f)).issues = s.issues := rfl
@[simp] theorem apply_port_reqs f : (s.apply (.port f)).reqs = s.reqs := rfl
@[simp] theorem apply_port_stampNext f : (s.apply (.port f)).stampNext = s.stampNext := rfl
@[simp] theorem apply_port_periods f : (s.apply (.port f)).periods = s.periods := rfl
@[simp] theorem apply_port_sampler f : (s.apply (.port f)).sampler = s.sampler := rfl
@[simp] theorem apply_port_pages f : (s.apply (.port f)).pages = s.pages := rfl
@[simp] theorem apply_port_devRings f : (s.apply (.port f)).devRings = s.devRings := rfl
@[simp] theorem apply_port_mig f : (s.apply (.port f)).mig = s.mig := rfl
@[simp] theorem apply_port_packs f : (s.apply (.port f)).packs = s.packs := rfl
@[simp] theorem apply_port_packNext f : (s.apply (.port f)).packNext = s.packNext := rfl
@[simp] theorem apply_port_xlt f : (s.apply (.port f)).xlt = s.xlt := rfl
@[simp] theorem apply_port_tiers f : (s.apply (.port f)).tiers = s.tiers := rfl
@[simp] theorem apply_port_banks f : (s.apply (.port f)).banks = s.banks := rfl
@[simp] theorem apply_port_march f : (s.apply (.port f)).march = s.march := rfl
@[simp] theorem apply_port_cmpErrs f : (s.apply (.port f)).cmpErrs = s.cmpErrs := rfl
@[simp] theorem apply_port_attErrs f : (s.apply (.port f)).attErrs = s.attErrs := rfl
@[simp] theorem apply_port_hlErrs f : (s.apply (.port f)).hlErrs = s.hlErrs := rfl
@[simp] theorem apply_port_cmpInvalidating f : (s.apply (.port f)).cmpInvalidating = s.cmpInvalidating := rfl
@[simp] theorem apply_port_cmpCache f : (s.apply (.port f)).cmpCache = s.cmpCache := rfl
@[simp] theorem apply_port_mailbox f : (s.apply (.port f)).mailbox = s.mailbox := rfl
@[simp] theorem apply_port_links f : (s.apply (.port f)).links = s.links := rfl
@[simp] theorem apply_port_fabric f : (s.apply (.port f)).fabric = s.fabric := rfl
@[simp] theorem apply_port_outbound f : (s.apply (.port f)).outbound = s.outbound := rfl
@[simp] theorem apply_port_sec f : (s.apply (.port f)).sec = s.sec := rfl
@[simp] theorem apply_port_rotation f : (s.apply (.port f)).rotation = s.rotation := rfl
@[simp] theorem apply_port_sliceLate f : (s.apply (.port f)).sliceLate = s.sliceLate := rfl
@[simp] theorem apply_port_power f : (s.apply (.port f)).power = s.power := rfl
@[simp] theorem apply_port_flt f : (s.apply (.port f)).flt = s.flt := rfl
@[simp] theorem apply_port_port f :
    (s.apply (.port f)).port = f s.port := rfl

@[simp] theorem apply_mailbox_pending f : (s.apply (.mailbox f)).pending = s.pending := rfl
@[simp] theorem apply_mailbox_outbox f : (s.apply (.mailbox f)).outbox = s.outbox := rfl
@[simp] theorem apply_mailbox_ticks f : (s.apply (.mailbox f)).ticks = s.ticks := rfl
@[simp] theorem apply_mailbox_free f : (s.apply (.mailbox f)).free = s.free := rfl
@[simp] theorem apply_mailbox_mem f : (s.apply (.mailbox f)).mem = s.mem := rfl
@[simp] theorem apply_mailbox_undef f : (s.apply (.mailbox f)).undef = s.undef := rfl
@[simp] theorem apply_mailbox_marks f : (s.apply (.mailbox f)).marks = s.marks := rfl
@[simp] theorem apply_mailbox_lineKey f : (s.apply (.mailbox f)).lineKey = s.lineKey := rfl
@[simp] theorem apply_mailbox_regs f : (s.apply (.mailbox f)).regs = s.regs := rfl
@[simp] theorem apply_mailbox_loader f : (s.apply (.mailbox f)).loader = s.loader := rfl
@[simp] theorem apply_mailbox_ctxs f : (s.apply (.mailbox f)).ctxs = s.ctxs := rfl
@[simp] theorem apply_mailbox_windows f : (s.apply (.mailbox f)).windows = s.windows := rfl
@[simp] theorem apply_mailbox_hub f : (s.apply (.mailbox f)).hub = s.hub := rfl
@[simp] theorem apply_mailbox_clusters f : (s.apply (.mailbox f)).clusters = s.clusters := rfl
@[simp] theorem apply_mailbox_cores f : (s.apply (.mailbox f)).cores = s.cores := rfl
@[simp] theorem apply_mailbox_srCtr f : (s.apply (.mailbox f)).srCtr = s.srCtr := rfl
@[simp] theorem apply_mailbox_rings f : (s.apply (.mailbox f)).rings = s.rings := rfl
@[simp] theorem apply_mailbox_issues f : (s.apply (.mailbox f)).issues = s.issues := rfl
@[simp] theorem apply_mailbox_reqs f : (s.apply (.mailbox f)).reqs = s.reqs := rfl
@[simp] theorem apply_mailbox_stampNext f : (s.apply (.mailbox f)).stampNext = s.stampNext := rfl
@[simp] theorem apply_mailbox_periods f : (s.apply (.mailbox f)).periods = s.periods := rfl
@[simp] theorem apply_mailbox_sampler f : (s.apply (.mailbox f)).sampler = s.sampler := rfl
@[simp] theorem apply_mailbox_pages f : (s.apply (.mailbox f)).pages = s.pages := rfl
@[simp] theorem apply_mailbox_devRings f : (s.apply (.mailbox f)).devRings = s.devRings := rfl
@[simp] theorem apply_mailbox_mig f : (s.apply (.mailbox f)).mig = s.mig := rfl
@[simp] theorem apply_mailbox_packs f : (s.apply (.mailbox f)).packs = s.packs := rfl
@[simp] theorem apply_mailbox_packNext f : (s.apply (.mailbox f)).packNext = s.packNext := rfl
@[simp] theorem apply_mailbox_xlt f : (s.apply (.mailbox f)).xlt = s.xlt := rfl
@[simp] theorem apply_mailbox_tiers f : (s.apply (.mailbox f)).tiers = s.tiers := rfl
@[simp] theorem apply_mailbox_banks f : (s.apply (.mailbox f)).banks = s.banks := rfl
@[simp] theorem apply_mailbox_march f : (s.apply (.mailbox f)).march = s.march := rfl
@[simp] theorem apply_mailbox_cmpErrs f : (s.apply (.mailbox f)).cmpErrs = s.cmpErrs := rfl
@[simp] theorem apply_mailbox_attErrs f : (s.apply (.mailbox f)).attErrs = s.attErrs := rfl
@[simp] theorem apply_mailbox_hlErrs f : (s.apply (.mailbox f)).hlErrs = s.hlErrs := rfl
@[simp] theorem apply_mailbox_cmpInvalidating f : (s.apply (.mailbox f)).cmpInvalidating = s.cmpInvalidating := rfl
@[simp] theorem apply_mailbox_cmpCache f : (s.apply (.mailbox f)).cmpCache = s.cmpCache := rfl
@[simp] theorem apply_mailbox_port f : (s.apply (.mailbox f)).port = s.port := rfl
@[simp] theorem apply_mailbox_links f : (s.apply (.mailbox f)).links = s.links := rfl
@[simp] theorem apply_mailbox_fabric f : (s.apply (.mailbox f)).fabric = s.fabric := rfl
@[simp] theorem apply_mailbox_outbound f : (s.apply (.mailbox f)).outbound = s.outbound := rfl
@[simp] theorem apply_mailbox_sec f : (s.apply (.mailbox f)).sec = s.sec := rfl
@[simp] theorem apply_mailbox_rotation f : (s.apply (.mailbox f)).rotation = s.rotation := rfl
@[simp] theorem apply_mailbox_sliceLate f : (s.apply (.mailbox f)).sliceLate = s.sliceLate := rfl
@[simp] theorem apply_mailbox_power f : (s.apply (.mailbox f)).power = s.power := rfl
@[simp] theorem apply_mailbox_flt f : (s.apply (.mailbox f)).flt = s.flt := rfl
@[simp] theorem apply_mailbox_mailbox f :
    (s.apply (.mailbox f)).mailbox = f s.mailbox := rfl

@[simp] theorem apply_link_pending l f : (s.apply (.link l f)).pending = s.pending := rfl
@[simp] theorem apply_link_outbox l f : (s.apply (.link l f)).outbox = s.outbox := rfl
@[simp] theorem apply_link_ticks l f : (s.apply (.link l f)).ticks = s.ticks := rfl
@[simp] theorem apply_link_free l f : (s.apply (.link l f)).free = s.free := rfl
@[simp] theorem apply_link_mem l f : (s.apply (.link l f)).mem = s.mem := rfl
@[simp] theorem apply_link_undef l f : (s.apply (.link l f)).undef = s.undef := rfl
@[simp] theorem apply_link_marks l f : (s.apply (.link l f)).marks = s.marks := rfl
@[simp] theorem apply_link_lineKey l f : (s.apply (.link l f)).lineKey = s.lineKey := rfl
@[simp] theorem apply_link_regs l f : (s.apply (.link l f)).regs = s.regs := rfl
@[simp] theorem apply_link_loader l f : (s.apply (.link l f)).loader = s.loader := rfl
@[simp] theorem apply_link_ctxs l f : (s.apply (.link l f)).ctxs = s.ctxs := rfl
@[simp] theorem apply_link_windows l f : (s.apply (.link l f)).windows = s.windows := rfl
@[simp] theorem apply_link_hub l f : (s.apply (.link l f)).hub = s.hub := rfl
@[simp] theorem apply_link_clusters l f : (s.apply (.link l f)).clusters = s.clusters := rfl
@[simp] theorem apply_link_cores l f : (s.apply (.link l f)).cores = s.cores := rfl
@[simp] theorem apply_link_srCtr l f : (s.apply (.link l f)).srCtr = s.srCtr := rfl
@[simp] theorem apply_link_rings l f : (s.apply (.link l f)).rings = s.rings := rfl
@[simp] theorem apply_link_issues l f : (s.apply (.link l f)).issues = s.issues := rfl
@[simp] theorem apply_link_reqs l f : (s.apply (.link l f)).reqs = s.reqs := rfl
@[simp] theorem apply_link_stampNext l f : (s.apply (.link l f)).stampNext = s.stampNext := rfl
@[simp] theorem apply_link_periods l f : (s.apply (.link l f)).periods = s.periods := rfl
@[simp] theorem apply_link_sampler l f : (s.apply (.link l f)).sampler = s.sampler := rfl
@[simp] theorem apply_link_pages l f : (s.apply (.link l f)).pages = s.pages := rfl
@[simp] theorem apply_link_devRings l f : (s.apply (.link l f)).devRings = s.devRings := rfl
@[simp] theorem apply_link_mig l f : (s.apply (.link l f)).mig = s.mig := rfl
@[simp] theorem apply_link_packs l f : (s.apply (.link l f)).packs = s.packs := rfl
@[simp] theorem apply_link_packNext l f : (s.apply (.link l f)).packNext = s.packNext := rfl
@[simp] theorem apply_link_xlt l f : (s.apply (.link l f)).xlt = s.xlt := rfl
@[simp] theorem apply_link_tiers l f : (s.apply (.link l f)).tiers = s.tiers := rfl
@[simp] theorem apply_link_banks l f : (s.apply (.link l f)).banks = s.banks := rfl
@[simp] theorem apply_link_march l f : (s.apply (.link l f)).march = s.march := rfl
@[simp] theorem apply_link_cmpErrs l f : (s.apply (.link l f)).cmpErrs = s.cmpErrs := rfl
@[simp] theorem apply_link_attErrs l f : (s.apply (.link l f)).attErrs = s.attErrs := rfl
@[simp] theorem apply_link_hlErrs l f : (s.apply (.link l f)).hlErrs = s.hlErrs := rfl
@[simp] theorem apply_link_cmpInvalidating l f : (s.apply (.link l f)).cmpInvalidating = s.cmpInvalidating := rfl
@[simp] theorem apply_link_cmpCache l f : (s.apply (.link l f)).cmpCache = s.cmpCache := rfl
@[simp] theorem apply_link_port l f : (s.apply (.link l f)).port = s.port := rfl
@[simp] theorem apply_link_mailbox l f : (s.apply (.link l f)).mailbox = s.mailbox := rfl
@[simp] theorem apply_link_fabric l f : (s.apply (.link l f)).fabric = s.fabric := rfl
@[simp] theorem apply_link_outbound l f : (s.apply (.link l f)).outbound = s.outbound := rfl
@[simp] theorem apply_link_sec l f : (s.apply (.link l f)).sec = s.sec := rfl
@[simp] theorem apply_link_rotation l f : (s.apply (.link l f)).rotation = s.rotation := rfl
@[simp] theorem apply_link_sliceLate l f : (s.apply (.link l f)).sliceLate = s.sliceLate := rfl
@[simp] theorem apply_link_power l f : (s.apply (.link l f)).power = s.power := rfl
@[simp] theorem apply_link_flt l f : (s.apply (.link l f)).flt = s.flt := rfl
@[simp] theorem apply_link_links l f :
    (s.apply (.link l f)).links = tabMod (fun _ => {}) s.links l f := rfl

@[simp] theorem apply_fabric_pending f : (s.apply (.fabric f)).pending = s.pending := rfl
@[simp] theorem apply_fabric_outbox f : (s.apply (.fabric f)).outbox = s.outbox := rfl
@[simp] theorem apply_fabric_ticks f : (s.apply (.fabric f)).ticks = s.ticks := rfl
@[simp] theorem apply_fabric_free f : (s.apply (.fabric f)).free = s.free := rfl
@[simp] theorem apply_fabric_mem f : (s.apply (.fabric f)).mem = s.mem := rfl
@[simp] theorem apply_fabric_undef f : (s.apply (.fabric f)).undef = s.undef := rfl
@[simp] theorem apply_fabric_marks f : (s.apply (.fabric f)).marks = s.marks := rfl
@[simp] theorem apply_fabric_lineKey f : (s.apply (.fabric f)).lineKey = s.lineKey := rfl
@[simp] theorem apply_fabric_regs f : (s.apply (.fabric f)).regs = s.regs := rfl
@[simp] theorem apply_fabric_loader f : (s.apply (.fabric f)).loader = s.loader := rfl
@[simp] theorem apply_fabric_ctxs f : (s.apply (.fabric f)).ctxs = s.ctxs := rfl
@[simp] theorem apply_fabric_windows f : (s.apply (.fabric f)).windows = s.windows := rfl
@[simp] theorem apply_fabric_hub f : (s.apply (.fabric f)).hub = s.hub := rfl
@[simp] theorem apply_fabric_clusters f : (s.apply (.fabric f)).clusters = s.clusters := rfl
@[simp] theorem apply_fabric_cores f : (s.apply (.fabric f)).cores = s.cores := rfl
@[simp] theorem apply_fabric_srCtr f : (s.apply (.fabric f)).srCtr = s.srCtr := rfl
@[simp] theorem apply_fabric_rings f : (s.apply (.fabric f)).rings = s.rings := rfl
@[simp] theorem apply_fabric_issues f : (s.apply (.fabric f)).issues = s.issues := rfl
@[simp] theorem apply_fabric_reqs f : (s.apply (.fabric f)).reqs = s.reqs := rfl
@[simp] theorem apply_fabric_stampNext f : (s.apply (.fabric f)).stampNext = s.stampNext := rfl
@[simp] theorem apply_fabric_periods f : (s.apply (.fabric f)).periods = s.periods := rfl
@[simp] theorem apply_fabric_sampler f : (s.apply (.fabric f)).sampler = s.sampler := rfl
@[simp] theorem apply_fabric_pages f : (s.apply (.fabric f)).pages = s.pages := rfl
@[simp] theorem apply_fabric_devRings f : (s.apply (.fabric f)).devRings = s.devRings := rfl
@[simp] theorem apply_fabric_mig f : (s.apply (.fabric f)).mig = s.mig := rfl
@[simp] theorem apply_fabric_packs f : (s.apply (.fabric f)).packs = s.packs := rfl
@[simp] theorem apply_fabric_packNext f : (s.apply (.fabric f)).packNext = s.packNext := rfl
@[simp] theorem apply_fabric_xlt f : (s.apply (.fabric f)).xlt = s.xlt := rfl
@[simp] theorem apply_fabric_tiers f : (s.apply (.fabric f)).tiers = s.tiers := rfl
@[simp] theorem apply_fabric_banks f : (s.apply (.fabric f)).banks = s.banks := rfl
@[simp] theorem apply_fabric_march f : (s.apply (.fabric f)).march = s.march := rfl
@[simp] theorem apply_fabric_cmpErrs f : (s.apply (.fabric f)).cmpErrs = s.cmpErrs := rfl
@[simp] theorem apply_fabric_attErrs f : (s.apply (.fabric f)).attErrs = s.attErrs := rfl
@[simp] theorem apply_fabric_hlErrs f : (s.apply (.fabric f)).hlErrs = s.hlErrs := rfl
@[simp] theorem apply_fabric_cmpInvalidating f : (s.apply (.fabric f)).cmpInvalidating = s.cmpInvalidating := rfl
@[simp] theorem apply_fabric_cmpCache f : (s.apply (.fabric f)).cmpCache = s.cmpCache := rfl
@[simp] theorem apply_fabric_port f : (s.apply (.fabric f)).port = s.port := rfl
@[simp] theorem apply_fabric_mailbox f : (s.apply (.fabric f)).mailbox = s.mailbox := rfl
@[simp] theorem apply_fabric_links f : (s.apply (.fabric f)).links = s.links := rfl
@[simp] theorem apply_fabric_outbound f : (s.apply (.fabric f)).outbound = s.outbound := rfl
@[simp] theorem apply_fabric_sec f : (s.apply (.fabric f)).sec = s.sec := rfl
@[simp] theorem apply_fabric_rotation f : (s.apply (.fabric f)).rotation = s.rotation := rfl
@[simp] theorem apply_fabric_sliceLate f : (s.apply (.fabric f)).sliceLate = s.sliceLate := rfl
@[simp] theorem apply_fabric_power f : (s.apply (.fabric f)).power = s.power := rfl
@[simp] theorem apply_fabric_flt f : (s.apply (.fabric f)).flt = s.flt := rfl
@[simp] theorem apply_fabric_fabric f :
    (s.apply (.fabric f)).fabric = f s.fabric := rfl

@[simp] theorem apply_outbound_pending f : (s.apply (.outbound f)).pending = s.pending := rfl
@[simp] theorem apply_outbound_outbox f : (s.apply (.outbound f)).outbox = s.outbox := rfl
@[simp] theorem apply_outbound_ticks f : (s.apply (.outbound f)).ticks = s.ticks := rfl
@[simp] theorem apply_outbound_free f : (s.apply (.outbound f)).free = s.free := rfl
@[simp] theorem apply_outbound_mem f : (s.apply (.outbound f)).mem = s.mem := rfl
@[simp] theorem apply_outbound_undef f : (s.apply (.outbound f)).undef = s.undef := rfl
@[simp] theorem apply_outbound_marks f : (s.apply (.outbound f)).marks = s.marks := rfl
@[simp] theorem apply_outbound_lineKey f : (s.apply (.outbound f)).lineKey = s.lineKey := rfl
@[simp] theorem apply_outbound_regs f : (s.apply (.outbound f)).regs = s.regs := rfl
@[simp] theorem apply_outbound_loader f : (s.apply (.outbound f)).loader = s.loader := rfl
@[simp] theorem apply_outbound_ctxs f : (s.apply (.outbound f)).ctxs = s.ctxs := rfl
@[simp] theorem apply_outbound_windows f : (s.apply (.outbound f)).windows = s.windows := rfl
@[simp] theorem apply_outbound_hub f : (s.apply (.outbound f)).hub = s.hub := rfl
@[simp] theorem apply_outbound_clusters f : (s.apply (.outbound f)).clusters = s.clusters := rfl
@[simp] theorem apply_outbound_cores f : (s.apply (.outbound f)).cores = s.cores := rfl
@[simp] theorem apply_outbound_srCtr f : (s.apply (.outbound f)).srCtr = s.srCtr := rfl
@[simp] theorem apply_outbound_rings f : (s.apply (.outbound f)).rings = s.rings := rfl
@[simp] theorem apply_outbound_issues f : (s.apply (.outbound f)).issues = s.issues := rfl
@[simp] theorem apply_outbound_reqs f : (s.apply (.outbound f)).reqs = s.reqs := rfl
@[simp] theorem apply_outbound_stampNext f : (s.apply (.outbound f)).stampNext = s.stampNext := rfl
@[simp] theorem apply_outbound_periods f : (s.apply (.outbound f)).periods = s.periods := rfl
@[simp] theorem apply_outbound_sampler f : (s.apply (.outbound f)).sampler = s.sampler := rfl
@[simp] theorem apply_outbound_pages f : (s.apply (.outbound f)).pages = s.pages := rfl
@[simp] theorem apply_outbound_devRings f : (s.apply (.outbound f)).devRings = s.devRings := rfl
@[simp] theorem apply_outbound_mig f : (s.apply (.outbound f)).mig = s.mig := rfl
@[simp] theorem apply_outbound_packs f : (s.apply (.outbound f)).packs = s.packs := rfl
@[simp] theorem apply_outbound_packNext f : (s.apply (.outbound f)).packNext = s.packNext := rfl
@[simp] theorem apply_outbound_xlt f : (s.apply (.outbound f)).xlt = s.xlt := rfl
@[simp] theorem apply_outbound_tiers f : (s.apply (.outbound f)).tiers = s.tiers := rfl
@[simp] theorem apply_outbound_banks f : (s.apply (.outbound f)).banks = s.banks := rfl
@[simp] theorem apply_outbound_march f : (s.apply (.outbound f)).march = s.march := rfl
@[simp] theorem apply_outbound_cmpErrs f : (s.apply (.outbound f)).cmpErrs = s.cmpErrs := rfl
@[simp] theorem apply_outbound_attErrs f : (s.apply (.outbound f)).attErrs = s.attErrs := rfl
@[simp] theorem apply_outbound_hlErrs f : (s.apply (.outbound f)).hlErrs = s.hlErrs := rfl
@[simp] theorem apply_outbound_cmpInvalidating f : (s.apply (.outbound f)).cmpInvalidating = s.cmpInvalidating := rfl
@[simp] theorem apply_outbound_cmpCache f : (s.apply (.outbound f)).cmpCache = s.cmpCache := rfl
@[simp] theorem apply_outbound_port f : (s.apply (.outbound f)).port = s.port := rfl
@[simp] theorem apply_outbound_mailbox f : (s.apply (.outbound f)).mailbox = s.mailbox := rfl
@[simp] theorem apply_outbound_links f : (s.apply (.outbound f)).links = s.links := rfl
@[simp] theorem apply_outbound_fabric f : (s.apply (.outbound f)).fabric = s.fabric := rfl
@[simp] theorem apply_outbound_sec f : (s.apply (.outbound f)).sec = s.sec := rfl
@[simp] theorem apply_outbound_rotation f : (s.apply (.outbound f)).rotation = s.rotation := rfl
@[simp] theorem apply_outbound_sliceLate f : (s.apply (.outbound f)).sliceLate = s.sliceLate := rfl
@[simp] theorem apply_outbound_power f : (s.apply (.outbound f)).power = s.power := rfl
@[simp] theorem apply_outbound_flt f : (s.apply (.outbound f)).flt = s.flt := rfl
@[simp] theorem apply_outbound_outbound f :
    (s.apply (.outbound f)).outbound = f s.outbound := rfl

@[simp] theorem apply_sec_pending f : (s.apply (.sec f)).pending = s.pending := rfl
@[simp] theorem apply_sec_outbox f : (s.apply (.sec f)).outbox = s.outbox := rfl
@[simp] theorem apply_sec_ticks f : (s.apply (.sec f)).ticks = s.ticks := rfl
@[simp] theorem apply_sec_free f : (s.apply (.sec f)).free = s.free := rfl
@[simp] theorem apply_sec_mem f : (s.apply (.sec f)).mem = s.mem := rfl
@[simp] theorem apply_sec_undef f : (s.apply (.sec f)).undef = s.undef := rfl
@[simp] theorem apply_sec_marks f : (s.apply (.sec f)).marks = s.marks := rfl
@[simp] theorem apply_sec_lineKey f : (s.apply (.sec f)).lineKey = s.lineKey := rfl
@[simp] theorem apply_sec_regs f : (s.apply (.sec f)).regs = s.regs := rfl
@[simp] theorem apply_sec_loader f : (s.apply (.sec f)).loader = s.loader := rfl
@[simp] theorem apply_sec_ctxs f : (s.apply (.sec f)).ctxs = s.ctxs := rfl
@[simp] theorem apply_sec_windows f : (s.apply (.sec f)).windows = s.windows := rfl
@[simp] theorem apply_sec_hub f : (s.apply (.sec f)).hub = s.hub := rfl
@[simp] theorem apply_sec_clusters f : (s.apply (.sec f)).clusters = s.clusters := rfl
@[simp] theorem apply_sec_cores f : (s.apply (.sec f)).cores = s.cores := rfl
@[simp] theorem apply_sec_srCtr f : (s.apply (.sec f)).srCtr = s.srCtr := rfl
@[simp] theorem apply_sec_rings f : (s.apply (.sec f)).rings = s.rings := rfl
@[simp] theorem apply_sec_issues f : (s.apply (.sec f)).issues = s.issues := rfl
@[simp] theorem apply_sec_reqs f : (s.apply (.sec f)).reqs = s.reqs := rfl
@[simp] theorem apply_sec_stampNext f : (s.apply (.sec f)).stampNext = s.stampNext := rfl
@[simp] theorem apply_sec_periods f : (s.apply (.sec f)).periods = s.periods := rfl
@[simp] theorem apply_sec_sampler f : (s.apply (.sec f)).sampler = s.sampler := rfl
@[simp] theorem apply_sec_pages f : (s.apply (.sec f)).pages = s.pages := rfl
@[simp] theorem apply_sec_devRings f : (s.apply (.sec f)).devRings = s.devRings := rfl
@[simp] theorem apply_sec_mig f : (s.apply (.sec f)).mig = s.mig := rfl
@[simp] theorem apply_sec_packs f : (s.apply (.sec f)).packs = s.packs := rfl
@[simp] theorem apply_sec_packNext f : (s.apply (.sec f)).packNext = s.packNext := rfl
@[simp] theorem apply_sec_xlt f : (s.apply (.sec f)).xlt = s.xlt := rfl
@[simp] theorem apply_sec_tiers f : (s.apply (.sec f)).tiers = s.tiers := rfl
@[simp] theorem apply_sec_banks f : (s.apply (.sec f)).banks = s.banks := rfl
@[simp] theorem apply_sec_march f : (s.apply (.sec f)).march = s.march := rfl
@[simp] theorem apply_sec_cmpErrs f : (s.apply (.sec f)).cmpErrs = s.cmpErrs := rfl
@[simp] theorem apply_sec_attErrs f : (s.apply (.sec f)).attErrs = s.attErrs := rfl
@[simp] theorem apply_sec_hlErrs f : (s.apply (.sec f)).hlErrs = s.hlErrs := rfl
@[simp] theorem apply_sec_cmpInvalidating f : (s.apply (.sec f)).cmpInvalidating = s.cmpInvalidating := rfl
@[simp] theorem apply_sec_cmpCache f : (s.apply (.sec f)).cmpCache = s.cmpCache := rfl
@[simp] theorem apply_sec_port f : (s.apply (.sec f)).port = s.port := rfl
@[simp] theorem apply_sec_mailbox f : (s.apply (.sec f)).mailbox = s.mailbox := rfl
@[simp] theorem apply_sec_links f : (s.apply (.sec f)).links = s.links := rfl
@[simp] theorem apply_sec_fabric f : (s.apply (.sec f)).fabric = s.fabric := rfl
@[simp] theorem apply_sec_outbound f : (s.apply (.sec f)).outbound = s.outbound := rfl
@[simp] theorem apply_sec_rotation f : (s.apply (.sec f)).rotation = s.rotation := rfl
@[simp] theorem apply_sec_sliceLate f : (s.apply (.sec f)).sliceLate = s.sliceLate := rfl
@[simp] theorem apply_sec_power f : (s.apply (.sec f)).power = s.power := rfl
@[simp] theorem apply_sec_flt f : (s.apply (.sec f)).flt = s.flt := rfl
@[simp] theorem apply_sec_sec f :
    (s.apply (.sec f)).sec = f s.sec := rfl

@[simp] theorem apply_rotation_pending n : (s.apply (.rotation n)).pending = s.pending := rfl
@[simp] theorem apply_rotation_outbox n : (s.apply (.rotation n)).outbox = s.outbox := rfl
@[simp] theorem apply_rotation_ticks n : (s.apply (.rotation n)).ticks = s.ticks := rfl
@[simp] theorem apply_rotation_free n : (s.apply (.rotation n)).free = s.free := rfl
@[simp] theorem apply_rotation_mem n : (s.apply (.rotation n)).mem = s.mem := rfl
@[simp] theorem apply_rotation_undef n : (s.apply (.rotation n)).undef = s.undef := rfl
@[simp] theorem apply_rotation_marks n : (s.apply (.rotation n)).marks = s.marks := rfl
@[simp] theorem apply_rotation_lineKey n : (s.apply (.rotation n)).lineKey = s.lineKey := rfl
@[simp] theorem apply_rotation_regs n : (s.apply (.rotation n)).regs = s.regs := rfl
@[simp] theorem apply_rotation_loader n : (s.apply (.rotation n)).loader = s.loader := rfl
@[simp] theorem apply_rotation_ctxs n : (s.apply (.rotation n)).ctxs = s.ctxs := rfl
@[simp] theorem apply_rotation_windows n : (s.apply (.rotation n)).windows = s.windows := rfl
@[simp] theorem apply_rotation_hub n : (s.apply (.rotation n)).hub = s.hub := rfl
@[simp] theorem apply_rotation_clusters n : (s.apply (.rotation n)).clusters = s.clusters := rfl
@[simp] theorem apply_rotation_cores n : (s.apply (.rotation n)).cores = s.cores := rfl
@[simp] theorem apply_rotation_srCtr n : (s.apply (.rotation n)).srCtr = s.srCtr := rfl
@[simp] theorem apply_rotation_rings n : (s.apply (.rotation n)).rings = s.rings := rfl
@[simp] theorem apply_rotation_issues n : (s.apply (.rotation n)).issues = s.issues := rfl
@[simp] theorem apply_rotation_reqs n : (s.apply (.rotation n)).reqs = s.reqs := rfl
@[simp] theorem apply_rotation_stampNext n : (s.apply (.rotation n)).stampNext = s.stampNext := rfl
@[simp] theorem apply_rotation_periods n : (s.apply (.rotation n)).periods = s.periods := rfl
@[simp] theorem apply_rotation_sampler n : (s.apply (.rotation n)).sampler = s.sampler := rfl
@[simp] theorem apply_rotation_pages n : (s.apply (.rotation n)).pages = s.pages := rfl
@[simp] theorem apply_rotation_devRings n : (s.apply (.rotation n)).devRings = s.devRings := rfl
@[simp] theorem apply_rotation_mig n : (s.apply (.rotation n)).mig = s.mig := rfl
@[simp] theorem apply_rotation_packs n : (s.apply (.rotation n)).packs = s.packs := rfl
@[simp] theorem apply_rotation_packNext n : (s.apply (.rotation n)).packNext = s.packNext := rfl
@[simp] theorem apply_rotation_xlt n : (s.apply (.rotation n)).xlt = s.xlt := rfl
@[simp] theorem apply_rotation_tiers n : (s.apply (.rotation n)).tiers = s.tiers := rfl
@[simp] theorem apply_rotation_banks n : (s.apply (.rotation n)).banks = s.banks := rfl
@[simp] theorem apply_rotation_march n : (s.apply (.rotation n)).march = s.march := rfl
@[simp] theorem apply_rotation_cmpErrs n : (s.apply (.rotation n)).cmpErrs = s.cmpErrs := rfl
@[simp] theorem apply_rotation_attErrs n : (s.apply (.rotation n)).attErrs = s.attErrs := rfl
@[simp] theorem apply_rotation_hlErrs n : (s.apply (.rotation n)).hlErrs = s.hlErrs := rfl
@[simp] theorem apply_rotation_cmpInvalidating n : (s.apply (.rotation n)).cmpInvalidating = s.cmpInvalidating := rfl
@[simp] theorem apply_rotation_cmpCache n : (s.apply (.rotation n)).cmpCache = s.cmpCache := rfl
@[simp] theorem apply_rotation_port n : (s.apply (.rotation n)).port = s.port := rfl
@[simp] theorem apply_rotation_mailbox n : (s.apply (.rotation n)).mailbox = s.mailbox := rfl
@[simp] theorem apply_rotation_links n : (s.apply (.rotation n)).links = s.links := rfl
@[simp] theorem apply_rotation_fabric n : (s.apply (.rotation n)).fabric = s.fabric := rfl
@[simp] theorem apply_rotation_outbound n : (s.apply (.rotation n)).outbound = s.outbound := rfl
@[simp] theorem apply_rotation_sec n : (s.apply (.rotation n)).sec = s.sec := rfl
@[simp] theorem apply_rotation_sliceLate n : (s.apply (.rotation n)).sliceLate = s.sliceLate := rfl
@[simp] theorem apply_rotation_power n : (s.apply (.rotation n)).power = s.power := rfl
@[simp] theorem apply_rotation_flt n : (s.apply (.rotation n)).flt = s.flt := rfl
@[simp] theorem apply_rotation_rotation n :
    (s.apply (.rotation n)).rotation = n := rfl

@[simp] theorem apply_sliceLate_pending b : (s.apply (.sliceLate b)).pending = s.pending := rfl
@[simp] theorem apply_sliceLate_outbox b : (s.apply (.sliceLate b)).outbox = s.outbox := rfl
@[simp] theorem apply_sliceLate_ticks b : (s.apply (.sliceLate b)).ticks = s.ticks := rfl
@[simp] theorem apply_sliceLate_free b : (s.apply (.sliceLate b)).free = s.free := rfl
@[simp] theorem apply_sliceLate_mem b : (s.apply (.sliceLate b)).mem = s.mem := rfl
@[simp] theorem apply_sliceLate_undef b : (s.apply (.sliceLate b)).undef = s.undef := rfl
@[simp] theorem apply_sliceLate_marks b : (s.apply (.sliceLate b)).marks = s.marks := rfl
@[simp] theorem apply_sliceLate_lineKey b : (s.apply (.sliceLate b)).lineKey = s.lineKey := rfl
@[simp] theorem apply_sliceLate_regs b : (s.apply (.sliceLate b)).regs = s.regs := rfl
@[simp] theorem apply_sliceLate_loader b : (s.apply (.sliceLate b)).loader = s.loader := rfl
@[simp] theorem apply_sliceLate_ctxs b : (s.apply (.sliceLate b)).ctxs = s.ctxs := rfl
@[simp] theorem apply_sliceLate_windows b : (s.apply (.sliceLate b)).windows = s.windows := rfl
@[simp] theorem apply_sliceLate_hub b : (s.apply (.sliceLate b)).hub = s.hub := rfl
@[simp] theorem apply_sliceLate_clusters b : (s.apply (.sliceLate b)).clusters = s.clusters := rfl
@[simp] theorem apply_sliceLate_cores b : (s.apply (.sliceLate b)).cores = s.cores := rfl
@[simp] theorem apply_sliceLate_srCtr b : (s.apply (.sliceLate b)).srCtr = s.srCtr := rfl
@[simp] theorem apply_sliceLate_rings b : (s.apply (.sliceLate b)).rings = s.rings := rfl
@[simp] theorem apply_sliceLate_issues b : (s.apply (.sliceLate b)).issues = s.issues := rfl
@[simp] theorem apply_sliceLate_reqs b : (s.apply (.sliceLate b)).reqs = s.reqs := rfl
@[simp] theorem apply_sliceLate_stampNext b : (s.apply (.sliceLate b)).stampNext = s.stampNext := rfl
@[simp] theorem apply_sliceLate_periods b : (s.apply (.sliceLate b)).periods = s.periods := rfl
@[simp] theorem apply_sliceLate_sampler b : (s.apply (.sliceLate b)).sampler = s.sampler := rfl
@[simp] theorem apply_sliceLate_pages b : (s.apply (.sliceLate b)).pages = s.pages := rfl
@[simp] theorem apply_sliceLate_devRings b : (s.apply (.sliceLate b)).devRings = s.devRings := rfl
@[simp] theorem apply_sliceLate_mig b : (s.apply (.sliceLate b)).mig = s.mig := rfl
@[simp] theorem apply_sliceLate_packs b : (s.apply (.sliceLate b)).packs = s.packs := rfl
@[simp] theorem apply_sliceLate_packNext b : (s.apply (.sliceLate b)).packNext = s.packNext := rfl
@[simp] theorem apply_sliceLate_xlt b : (s.apply (.sliceLate b)).xlt = s.xlt := rfl
@[simp] theorem apply_sliceLate_tiers b : (s.apply (.sliceLate b)).tiers = s.tiers := rfl
@[simp] theorem apply_sliceLate_banks b : (s.apply (.sliceLate b)).banks = s.banks := rfl
@[simp] theorem apply_sliceLate_march b : (s.apply (.sliceLate b)).march = s.march := rfl
@[simp] theorem apply_sliceLate_cmpErrs b : (s.apply (.sliceLate b)).cmpErrs = s.cmpErrs := rfl
@[simp] theorem apply_sliceLate_attErrs b : (s.apply (.sliceLate b)).attErrs = s.attErrs := rfl
@[simp] theorem apply_sliceLate_hlErrs b : (s.apply (.sliceLate b)).hlErrs = s.hlErrs := rfl
@[simp] theorem apply_sliceLate_cmpInvalidating b : (s.apply (.sliceLate b)).cmpInvalidating = s.cmpInvalidating := rfl
@[simp] theorem apply_sliceLate_cmpCache b : (s.apply (.sliceLate b)).cmpCache = s.cmpCache := rfl
@[simp] theorem apply_sliceLate_port b : (s.apply (.sliceLate b)).port = s.port := rfl
@[simp] theorem apply_sliceLate_mailbox b : (s.apply (.sliceLate b)).mailbox = s.mailbox := rfl
@[simp] theorem apply_sliceLate_links b : (s.apply (.sliceLate b)).links = s.links := rfl
@[simp] theorem apply_sliceLate_fabric b : (s.apply (.sliceLate b)).fabric = s.fabric := rfl
@[simp] theorem apply_sliceLate_outbound b : (s.apply (.sliceLate b)).outbound = s.outbound := rfl
@[simp] theorem apply_sliceLate_sec b : (s.apply (.sliceLate b)).sec = s.sec := rfl
@[simp] theorem apply_sliceLate_rotation b : (s.apply (.sliceLate b)).rotation = s.rotation := rfl
@[simp] theorem apply_sliceLate_power b : (s.apply (.sliceLate b)).power = s.power := rfl
@[simp] theorem apply_sliceLate_flt b : (s.apply (.sliceLate b)).flt = s.flt := rfl
@[simp] theorem apply_sliceLate_sliceLate b :
    (s.apply (.sliceLate b)).sliceLate = b := rfl

@[simp] theorem apply_power_pending f : (s.apply (.power f)).pending = s.pending := rfl
@[simp] theorem apply_power_outbox f : (s.apply (.power f)).outbox = s.outbox := rfl
@[simp] theorem apply_power_ticks f : (s.apply (.power f)).ticks = s.ticks := rfl
@[simp] theorem apply_power_free f : (s.apply (.power f)).free = s.free := rfl
@[simp] theorem apply_power_mem f : (s.apply (.power f)).mem = s.mem := rfl
@[simp] theorem apply_power_undef f : (s.apply (.power f)).undef = s.undef := rfl
@[simp] theorem apply_power_marks f : (s.apply (.power f)).marks = s.marks := rfl
@[simp] theorem apply_power_lineKey f : (s.apply (.power f)).lineKey = s.lineKey := rfl
@[simp] theorem apply_power_regs f : (s.apply (.power f)).regs = s.regs := rfl
@[simp] theorem apply_power_loader f : (s.apply (.power f)).loader = s.loader := rfl
@[simp] theorem apply_power_ctxs f : (s.apply (.power f)).ctxs = s.ctxs := rfl
@[simp] theorem apply_power_windows f : (s.apply (.power f)).windows = s.windows := rfl
@[simp] theorem apply_power_hub f : (s.apply (.power f)).hub = s.hub := rfl
@[simp] theorem apply_power_clusters f : (s.apply (.power f)).clusters = s.clusters := rfl
@[simp] theorem apply_power_cores f : (s.apply (.power f)).cores = s.cores := rfl
@[simp] theorem apply_power_srCtr f : (s.apply (.power f)).srCtr = s.srCtr := rfl
@[simp] theorem apply_power_rings f : (s.apply (.power f)).rings = s.rings := rfl
@[simp] theorem apply_power_issues f : (s.apply (.power f)).issues = s.issues := rfl
@[simp] theorem apply_power_reqs f : (s.apply (.power f)).reqs = s.reqs := rfl
@[simp] theorem apply_power_stampNext f : (s.apply (.power f)).stampNext = s.stampNext := rfl
@[simp] theorem apply_power_periods f : (s.apply (.power f)).periods = s.periods := rfl
@[simp] theorem apply_power_sampler f : (s.apply (.power f)).sampler = s.sampler := rfl
@[simp] theorem apply_power_pages f : (s.apply (.power f)).pages = s.pages := rfl
@[simp] theorem apply_power_devRings f : (s.apply (.power f)).devRings = s.devRings := rfl
@[simp] theorem apply_power_mig f : (s.apply (.power f)).mig = s.mig := rfl
@[simp] theorem apply_power_packs f : (s.apply (.power f)).packs = s.packs := rfl
@[simp] theorem apply_power_packNext f : (s.apply (.power f)).packNext = s.packNext := rfl
@[simp] theorem apply_power_xlt f : (s.apply (.power f)).xlt = s.xlt := rfl
@[simp] theorem apply_power_tiers f : (s.apply (.power f)).tiers = s.tiers := rfl
@[simp] theorem apply_power_banks f : (s.apply (.power f)).banks = s.banks := rfl
@[simp] theorem apply_power_march f : (s.apply (.power f)).march = s.march := rfl
@[simp] theorem apply_power_cmpErrs f : (s.apply (.power f)).cmpErrs = s.cmpErrs := rfl
@[simp] theorem apply_power_attErrs f : (s.apply (.power f)).attErrs = s.attErrs := rfl
@[simp] theorem apply_power_hlErrs f : (s.apply (.power f)).hlErrs = s.hlErrs := rfl
@[simp] theorem apply_power_cmpInvalidating f : (s.apply (.power f)).cmpInvalidating = s.cmpInvalidating := rfl
@[simp] theorem apply_power_cmpCache f : (s.apply (.power f)).cmpCache = s.cmpCache := rfl
@[simp] theorem apply_power_port f : (s.apply (.power f)).port = s.port := rfl
@[simp] theorem apply_power_mailbox f : (s.apply (.power f)).mailbox = s.mailbox := rfl
@[simp] theorem apply_power_links f : (s.apply (.power f)).links = s.links := rfl
@[simp] theorem apply_power_fabric f : (s.apply (.power f)).fabric = s.fabric := rfl
@[simp] theorem apply_power_outbound f : (s.apply (.power f)).outbound = s.outbound := rfl
@[simp] theorem apply_power_sec f : (s.apply (.power f)).sec = s.sec := rfl
@[simp] theorem apply_power_rotation f : (s.apply (.power f)).rotation = s.rotation := rfl
@[simp] theorem apply_power_sliceLate f : (s.apply (.power f)).sliceLate = s.sliceLate := rfl
@[simp] theorem apply_power_flt f : (s.apply (.power f)).flt = s.flt := rfl
@[simp] theorem apply_power_power f :
    (s.apply (.power f)).power = f s.power := rfl

@[simp] theorem apply_flt_pending f : (s.apply (.flt f)).pending = s.pending := rfl
@[simp] theorem apply_flt_outbox f : (s.apply (.flt f)).outbox = s.outbox := rfl
@[simp] theorem apply_flt_ticks f : (s.apply (.flt f)).ticks = s.ticks := rfl
@[simp] theorem apply_flt_free f : (s.apply (.flt f)).free = s.free := rfl
@[simp] theorem apply_flt_mem f : (s.apply (.flt f)).mem = s.mem := rfl
@[simp] theorem apply_flt_undef f : (s.apply (.flt f)).undef = s.undef := rfl
@[simp] theorem apply_flt_marks f : (s.apply (.flt f)).marks = s.marks := rfl
@[simp] theorem apply_flt_lineKey f : (s.apply (.flt f)).lineKey = s.lineKey := rfl
@[simp] theorem apply_flt_regs f : (s.apply (.flt f)).regs = s.regs := rfl
@[simp] theorem apply_flt_loader f : (s.apply (.flt f)).loader = s.loader := rfl
@[simp] theorem apply_flt_ctxs f : (s.apply (.flt f)).ctxs = s.ctxs := rfl
@[simp] theorem apply_flt_windows f : (s.apply (.flt f)).windows = s.windows := rfl
@[simp] theorem apply_flt_hub f : (s.apply (.flt f)).hub = s.hub := rfl
@[simp] theorem apply_flt_clusters f : (s.apply (.flt f)).clusters = s.clusters := rfl
@[simp] theorem apply_flt_cores f : (s.apply (.flt f)).cores = s.cores := rfl
@[simp] theorem apply_flt_srCtr f : (s.apply (.flt f)).srCtr = s.srCtr := rfl
@[simp] theorem apply_flt_rings f : (s.apply (.flt f)).rings = s.rings := rfl
@[simp] theorem apply_flt_issues f : (s.apply (.flt f)).issues = s.issues := rfl
@[simp] theorem apply_flt_reqs f : (s.apply (.flt f)).reqs = s.reqs := rfl
@[simp] theorem apply_flt_stampNext f : (s.apply (.flt f)).stampNext = s.stampNext := rfl
@[simp] theorem apply_flt_periods f : (s.apply (.flt f)).periods = s.periods := rfl
@[simp] theorem apply_flt_sampler f : (s.apply (.flt f)).sampler = s.sampler := rfl
@[simp] theorem apply_flt_pages f : (s.apply (.flt f)).pages = s.pages := rfl
@[simp] theorem apply_flt_devRings f : (s.apply (.flt f)).devRings = s.devRings := rfl
@[simp] theorem apply_flt_mig f : (s.apply (.flt f)).mig = s.mig := rfl
@[simp] theorem apply_flt_packs f : (s.apply (.flt f)).packs = s.packs := rfl
@[simp] theorem apply_flt_packNext f : (s.apply (.flt f)).packNext = s.packNext := rfl
@[simp] theorem apply_flt_xlt f : (s.apply (.flt f)).xlt = s.xlt := rfl
@[simp] theorem apply_flt_tiers f : (s.apply (.flt f)).tiers = s.tiers := rfl
@[simp] theorem apply_flt_banks f : (s.apply (.flt f)).banks = s.banks := rfl
@[simp] theorem apply_flt_march f : (s.apply (.flt f)).march = s.march := rfl
@[simp] theorem apply_flt_cmpErrs f : (s.apply (.flt f)).cmpErrs = s.cmpErrs := rfl
@[simp] theorem apply_flt_attErrs f : (s.apply (.flt f)).attErrs = s.attErrs := rfl
@[simp] theorem apply_flt_hlErrs f : (s.apply (.flt f)).hlErrs = s.hlErrs := rfl
@[simp] theorem apply_flt_cmpInvalidating f : (s.apply (.flt f)).cmpInvalidating = s.cmpInvalidating := rfl
@[simp] theorem apply_flt_cmpCache f : (s.apply (.flt f)).cmpCache = s.cmpCache := rfl
@[simp] theorem apply_flt_port f : (s.apply (.flt f)).port = s.port := rfl
@[simp] theorem apply_flt_mailbox f : (s.apply (.flt f)).mailbox = s.mailbox := rfl
@[simp] theorem apply_flt_links f : (s.apply (.flt f)).links = s.links := rfl
@[simp] theorem apply_flt_fabric f : (s.apply (.flt f)).fabric = s.fabric := rfl
@[simp] theorem apply_flt_outbound f : (s.apply (.flt f)).outbound = s.outbound := rfl
@[simp] theorem apply_flt_sec f : (s.apply (.flt f)).sec = s.sec := rfl
@[simp] theorem apply_flt_rotation f : (s.apply (.flt f)).rotation = s.rotation := rfl
@[simp] theorem apply_flt_sliceLate f : (s.apply (.flt f)).sliceLate = s.sliceLate := rfl
@[simp] theorem apply_flt_power f : (s.apply (.flt f)).power = s.power := rfl
@[simp] theorem apply_flt_flt f :
    (s.apply (.flt f)).flt = f s.flt := rfl

@[simp] theorem apply_cold_pending : (s.apply .cold).pending = s.pending := rfl
@[simp] theorem apply_cold_outbox : (s.apply .cold).outbox = s.outbox := rfl
@[simp] theorem apply_cold_ticks : (s.apply .cold).ticks = s.ticks := rfl
@[simp] theorem apply_cold_free : (s.apply .cold).free = s.free := rfl
@[simp] theorem apply_cold_mem : (s.apply .cold).mem = State.reset.mem := rfl
@[simp] theorem apply_cold_undef : (s.apply .cold).undef = State.reset.undef := rfl
@[simp] theorem apply_cold_marks : (s.apply .cold).marks = State.reset.marks := rfl
@[simp] theorem apply_cold_lineKey : (s.apply .cold).lineKey = State.reset.lineKey := rfl
@[simp] theorem apply_cold_regs : (s.apply .cold).regs = State.reset.regs := rfl
@[simp] theorem apply_cold_loader : (s.apply .cold).loader = State.reset.loader := rfl
@[simp] theorem apply_cold_ctxs : (s.apply .cold).ctxs = State.reset.ctxs := rfl
@[simp] theorem apply_cold_windows : (s.apply .cold).windows = State.reset.windows := rfl
@[simp] theorem apply_cold_hub : (s.apply .cold).hub = State.reset.hub := rfl
@[simp] theorem apply_cold_clusters : (s.apply .cold).clusters = State.reset.clusters := rfl
@[simp] theorem apply_cold_cores : (s.apply .cold).cores = State.reset.cores := rfl
@[simp] theorem apply_cold_srCtr : (s.apply .cold).srCtr = State.reset.srCtr := rfl
@[simp] theorem apply_cold_rings : (s.apply .cold).rings = State.reset.rings := rfl
@[simp] theorem apply_cold_issues : (s.apply .cold).issues = State.reset.issues := rfl
@[simp] theorem apply_cold_reqs : (s.apply .cold).reqs = State.reset.reqs := rfl
@[simp] theorem apply_cold_stampNext : (s.apply .cold).stampNext = State.reset.stampNext := rfl
@[simp] theorem apply_cold_periods : (s.apply .cold).periods = State.reset.periods := rfl
@[simp] theorem apply_cold_sampler : (s.apply .cold).sampler = State.reset.sampler := rfl
@[simp] theorem apply_cold_pages : (s.apply .cold).pages = State.reset.pages := rfl
@[simp] theorem apply_cold_devRings : (s.apply .cold).devRings = State.reset.devRings := rfl
@[simp] theorem apply_cold_mig : (s.apply .cold).mig = State.reset.mig := rfl
@[simp] theorem apply_cold_packs : (s.apply .cold).packs = State.reset.packs := rfl
@[simp] theorem apply_cold_packNext : (s.apply .cold).packNext = State.reset.packNext := rfl
@[simp] theorem apply_cold_xlt : (s.apply .cold).xlt = State.reset.xlt := rfl
@[simp] theorem apply_cold_tiers : (s.apply .cold).tiers = State.reset.tiers := rfl
@[simp] theorem apply_cold_banks : (s.apply .cold).banks = State.reset.banks := rfl
@[simp] theorem apply_cold_march : (s.apply .cold).march = State.reset.march := rfl
@[simp] theorem apply_cold_cmpErrs : (s.apply .cold).cmpErrs = State.reset.cmpErrs := rfl
@[simp] theorem apply_cold_attErrs : (s.apply .cold).attErrs = State.reset.attErrs := rfl
@[simp] theorem apply_cold_hlErrs : (s.apply .cold).hlErrs = State.reset.hlErrs := rfl
@[simp] theorem apply_cold_cmpInvalidating : (s.apply .cold).cmpInvalidating = State.reset.cmpInvalidating := rfl
@[simp] theorem apply_cold_cmpCache : (s.apply .cold).cmpCache = State.reset.cmpCache := rfl
@[simp] theorem apply_cold_mailbox : (s.apply .cold).mailbox = State.reset.mailbox := rfl
@[simp] theorem apply_cold_links : (s.apply .cold).links = State.reset.links := rfl
@[simp] theorem apply_cold_fabric : (s.apply .cold).fabric = State.reset.fabric := rfl
@[simp] theorem apply_cold_outbound : (s.apply .cold).outbound = State.reset.outbound := rfl
@[simp] theorem apply_cold_rotation : (s.apply .cold).rotation = State.reset.rotation := rfl
@[simp] theorem apply_cold_sliceLate : (s.apply .cold).sliceLate = State.reset.sliceLate := rfl
@[simp] theorem apply_cold_flt : (s.apply .cold).flt = State.reset.flt := rfl

@[simp] theorem apply_warm_pending : (s.apply .warm).pending = s.pending := rfl
@[simp] theorem apply_warm_outbox : (s.apply .warm).outbox = s.outbox := rfl
@[simp] theorem apply_warm_ticks : (s.apply .warm).ticks = s.ticks := rfl
@[simp] theorem apply_warm_free : (s.apply .warm).free = s.free := rfl
@[simp] theorem apply_warm_lineKey : (s.apply .warm).lineKey = s.lineKey := rfl
@[simp] theorem apply_warm_loader : (s.apply .warm).loader = State.reset.loader := rfl
@[simp] theorem apply_warm_windows : (s.apply .warm).windows = State.reset.windows := rfl
@[simp] theorem apply_warm_hub : (s.apply .warm).hub = State.reset.hub := rfl
@[simp] theorem apply_warm_clusters : (s.apply .warm).clusters = State.reset.clusters := rfl
@[simp] theorem apply_warm_cores : (s.apply .warm).cores = State.reset.cores := rfl
@[simp] theorem apply_warm_srCtr : (s.apply .warm).srCtr = State.reset.srCtr := rfl
@[simp] theorem apply_warm_rings : (s.apply .warm).rings = State.reset.rings := rfl
@[simp] theorem apply_warm_issues : (s.apply .warm).issues = State.reset.issues := rfl
@[simp] theorem apply_warm_reqs : (s.apply .warm).reqs = State.reset.reqs := rfl
@[simp] theorem apply_warm_stampNext : (s.apply .warm).stampNext = State.reset.stampNext := rfl
@[simp] theorem apply_warm_sampler : (s.apply .warm).sampler = State.reset.sampler := rfl
@[simp] theorem apply_warm_pages : (s.apply .warm).pages = State.reset.pages := rfl
@[simp] theorem apply_warm_devRings : (s.apply .warm).devRings = State.reset.devRings := rfl
@[simp] theorem apply_warm_packs : (s.apply .warm).packs = State.reset.packs := rfl
@[simp] theorem apply_warm_packNext : (s.apply .warm).packNext = s.packNext := rfl
@[simp] theorem apply_warm_tiers : (s.apply .warm).tiers = State.reset.tiers := rfl
@[simp] theorem apply_warm_march : (s.apply .warm).march = State.reset.march := rfl
@[simp] theorem apply_warm_cmpErrs : (s.apply .warm).cmpErrs = State.reset.cmpErrs := rfl
@[simp] theorem apply_warm_attErrs : (s.apply .warm).attErrs = State.reset.attErrs := rfl
@[simp] theorem apply_warm_hlErrs : (s.apply .warm).hlErrs = State.reset.hlErrs := rfl
@[simp] theorem apply_warm_cmpInvalidating : (s.apply .warm).cmpInvalidating = State.reset.cmpInvalidating := rfl
@[simp] theorem apply_warm_cmpCache : (s.apply .warm).cmpCache = State.reset.cmpCache := rfl
@[simp] theorem apply_warm_mailbox : (s.apply .warm).mailbox = State.reset.mailbox := rfl
@[simp] theorem apply_warm_links : (s.apply .warm).links = State.reset.links := rfl
@[simp] theorem apply_warm_fabric : (s.apply .warm).fabric = State.reset.fabric := rfl
@[simp] theorem apply_warm_outbound : (s.apply .warm).outbound = State.reset.outbound := rfl
@[simp] theorem apply_warm_rotation : (s.apply .warm).rotation = State.reset.rotation := rfl
@[simp] theorem apply_warm_sliceLate : (s.apply .warm).sliceLate = State.reset.sliceLate := rfl

end State

end Sys2Proof.Machine
end

