-- ==== Sys2Proof/Laws/Frames.lean ====
section
/-! SUPPORT. Which fields of the state a primitive update may write, and that an action whose updates write none of a field
leaves it alone. -/

namespace Sys2Proof.Machine

/-- The fields of the state but the queue. -/
inductive Part where
  | outbox | ticks | free | mem | undef | marks | lineKey | regs | loader | ctxs | windows | hub | clusters
  | cores | srCtr | rings | issues | reqs | stampNext | periods | sampler | pages | devRings | mig | packs
  | packNext | xlt | tiers | banks | march | cmpErrs | attErrs | hlErrs | cmpInvalidating | cmpCache | port
  | mailbox | links | fabric | outbound | sec | rotation | sliceLate | power | flt
  deriving DecidableEq, Repr

/-- The fields that an update may write. -/
def Upd.writes : Upd → Part → Bool
  | .fld _ _, p => p == .regs
  | .reg _ _, p => p == .regs
  | .inc _ _, p => p == .regs
  | .regReset _ _, p => p == .regs
  | .store _ _, p => p == .mem || p == .undef
  | .clear _ _, p => p == .mem || p == .undef
  | .undef _ _, p => p == .free || p == .mem || p == .undef
  | .mark _ _, p => p == .marks
  | .sound _ _, p => p == .marks
  | .lineKey _ _, p => p == .lineKey
  | .plainLines _ _, p => p == .lineKey
  | .out _, p => p == .outbox
  | .draw, p => p == .free
  | .msix _, p => p == .outbox || p == .port
  | .tick, p => p == .ticks || p == .port
  | .loader _, p => p == .loader
  | .ctx _ _, p => p == .ctxs
  | .windows _, p => p == .windows
  | .hub _, p => p == .hub
  | .cluster _ _, p => p == .clusters
  | .core _ _, p => p == .cores
  | .srCtr _ _, p => p == .srCtr
  | .srClear _ _, p => p == .srCtr
  | .ring _ _, p => p == .rings
  | .issues _, p => p == .issues
  | .req _ _, p => p == .reqs
  | .reqClear, p => p == .reqs
  | .stamp, p => p == .stampNext
  | .period _ _, p => p == .periods
  | .sampler _, p => p == .sampler
  | .pages _, p => p == .pages
  | .devRing _ _, p => p == .devRings
  | .mig _, p => p == .mig
  | .packs _, p => p == .packs
  | .packNext, p => p == .packNext
  | .xlt _, p => p == .xlt
  | .tier _ _, p => p == .tiers
  | .bank _ _, p => p == .banks
  | .march _, p => p == .march
  | .cmpErrs _, p => p == .cmpErrs
  | .attErrs _, p => p == .attErrs
  | .hlErrs _, p => p == .hlErrs
  | .cmpInv _, p => p == .cmpInvalidating
  | .cmpCache _, p => p == .cmpCache
  | .port _, p => p == .port
  | .mailbox _, p => p == .mailbox
  | .link _ _, p => p == .links
  | .fabric _, p => p == .fabric
  | .outbound _, p => p == .outbound
  | .sec _, p => p == .sec
  | .rotation _, p => p == .rotation
  | .sliceLate _, p => p == .sliceLate
  | .power _, p => p == .power
  | .flt _, p => p == .flt
  | .cold, p => !([.outbox, .ticks, .free] : List Part).contains p
  | .warm, p => !([.outbox, .ticks, .free, .lineKey, .packNext] : List Part).contains p

/-- An action whose updates leave a field alone. -/
def Act.Keeps (p : Part) (a : Act) : Prop := ∀ s, ∀ u ∈ a s, u.writes p = false

@[simp] theorem keeps_nothing (p : Part) : Act.Keeps p nothing := by simp [Act.Keeps, nothing]

@[simp] theorem keeps_act (p : Part) (us : List Upd) : Act.Keeps p (act us) ↔ ∀ u ∈ us, u.writes p = false := by
  exact ⟨fun h => h State.reset, fun h _ => h⟩

theorem keeps_seqA {p : Part} {as : List Act} (h : ∀ a ∈ as, Act.Keeps p a) : Act.Keeps p (seqA as) := by
  intro s
  induction as generalizing s with
  | nil => simp [seqA]
  | cons a t ih =>
    intro u hu
    simp only [seqA, List.mem_append] at hu
    rcases hu with hu | hu
    · exact h a (by simp) s u hu
    · exact ih (fun b hb => h b (List.mem_cons_of_mem _ hb)) _ u hu

theorem keeps_forA {p : Part} {α : Type} {xs : List α} {f : α → Act} (h : ∀ x ∈ xs, Act.Keeps p (f x)) :
    Act.Keeps p (forA xs f) := by
  apply keeps_seqA
  intro a ha
  obtain ⟨x, hx, rfl⟩ := List.mem_map.mp ha
  exact h x hx

theorem keeps_whenA {p : Part} {c : State → Bool} {a : Act} (h : Act.Keeps p a) : Act.Keeps p (whenA c a) := by
  intro s u hu
  simp only [whenA] at hu
  split at hu
  · exact h s u hu
  · simp at hu

/-! ## What an action keeps stays -/

theorem State.run_outbox (s : State) (us : List Upd) (h : ∀ u ∈ us, u.writes .outbox = false) : (s.run us).outbox = s.outbox := by
  induction us generalizing s with
  | nil => rfl
  | cons u t ih =>
    rw [State.run_cons, ih _ (fun v hv => h v (List.mem_cons_of_mem _ hv))]
    have hu := h u (by simp)
    cases u <;> first | rfl | (simp; done) | (exfalso; simp [Upd.writes] at hu)

theorem State.after_outbox (s : State) {a : Act} (h : a.Keeps .outbox) : (s.after a).outbox = s.outbox := s.run_outbox _ (h s)

theorem State.run_ticks (s : State) (us : List Upd) (h : ∀ u ∈ us, u.writes .ticks = false) : (s.run us).ticks = s.ticks := by
  induction us generalizing s with
  | nil => rfl
  | cons u t ih =>
    rw [State.run_cons, ih _ (fun v hv => h v (List.mem_cons_of_mem _ hv))]
    have hu := h u (by simp)
    cases u <;> first | rfl | (simp; done) | (exfalso; simp [Upd.writes] at hu)

theorem State.after_ticks (s : State) {a : Act} (h : a.Keeps .ticks) : (s.after a).ticks = s.ticks := s.run_ticks _ (h s)

theorem State.run_free (s : State) (us : List Upd) (h : ∀ u ∈ us, u.writes .free = false) : (s.run us).free = s.free := by
  induction us generalizing s with
  | nil => rfl
  | cons u t ih =>
    rw [State.run_cons, ih _ (fun v hv => h v (List.mem_cons_of_mem _ hv))]
    have hu := h u (by simp)
    cases u <;> first | rfl | (simp; done) | (exfalso; simp [Upd.writes] at hu)

theorem State.after_free (s : State) {a : Act} (h : a.Keeps .free) : (s.after a).free = s.free := s.run_free _ (h s)

theorem State.run_mem (s : State) (us : List Upd) (h : ∀ u ∈ us, u.writes .mem = false) : (s.run us).mem = s.mem := by
  induction us generalizing s with
  | nil => rfl
  | cons u t ih =>
    rw [State.run_cons, ih _ (fun v hv => h v (List.mem_cons_of_mem _ hv))]
    have hu := h u (by simp)
    cases u <;> first | rfl | (simp; done) | (exfalso; simp [Upd.writes] at hu)

theorem State.after_mem (s : State) {a : Act} (h : a.Keeps .mem) : (s.after a).mem = s.mem := s.run_mem _ (h s)

theorem State.run_undef (s : State) (us : List Upd) (h : ∀ u ∈ us, u.writes .undef = false) : (s.run us).undef = s.undef := by
  induction us generalizing s with
  | nil => rfl
  | cons u t ih =>
    rw [State.run_cons, ih _ (fun v hv => h v (List.mem_cons_of_mem _ hv))]
    have hu := h u (by simp)
    cases u <;> first | rfl | (simp; done) | (exfalso; simp [Upd.writes] at hu)

theorem State.after_undef (s : State) {a : Act} (h : a.Keeps .undef) : (s.after a).undef = s.undef := s.run_undef _ (h s)

theorem State.run_marks (s : State) (us : List Upd) (h : ∀ u ∈ us, u.writes .marks = false) : (s.run us).marks = s.marks := by
  induction us generalizing s with
  | nil => rfl
  | cons u t ih =>
    rw [State.run_cons, ih _ (fun v hv => h v (List.mem_cons_of_mem _ hv))]
    have hu := h u (by simp)
    cases u <;> first | rfl | (simp; done) | (exfalso; simp [Upd.writes] at hu)

theorem State.after_marks (s : State) {a : Act} (h : a.Keeps .marks) : (s.after a).marks = s.marks := s.run_marks _ (h s)

theorem State.run_lineKey (s : State) (us : List Upd) (h : ∀ u ∈ us, u.writes .lineKey = false) : (s.run us).lineKey = s.lineKey := by
  induction us generalizing s with
  | nil => rfl
  | cons u t ih =>
    rw [State.run_cons, ih _ (fun v hv => h v (List.mem_cons_of_mem _ hv))]
    have hu := h u (by simp)
    cases u <;> first | rfl | (simp; done) | (exfalso; simp [Upd.writes] at hu)

theorem State.after_lineKey (s : State) {a : Act} (h : a.Keeps .lineKey) : (s.after a).lineKey = s.lineKey := s.run_lineKey _ (h s)

theorem State.run_regs (s : State) (us : List Upd) (h : ∀ u ∈ us, u.writes .regs = false) : (s.run us).regs = s.regs := by
  induction us generalizing s with
  | nil => rfl
  | cons u t ih =>
    rw [State.run_cons, ih _ (fun v hv => h v (List.mem_cons_of_mem _ hv))]
    have hu := h u (by simp)
    cases u <;> first | rfl | (simp; done) | (exfalso; simp [Upd.writes] at hu)

theorem State.after_regs (s : State) {a : Act} (h : a.Keeps .regs) : (s.after a).regs = s.regs := s.run_regs _ (h s)

theorem State.run_loader (s : State) (us : List Upd) (h : ∀ u ∈ us, u.writes .loader = false) : (s.run us).loader = s.loader := by
  induction us generalizing s with
  | nil => rfl
  | cons u t ih =>
    rw [State.run_cons, ih _ (fun v hv => h v (List.mem_cons_of_mem _ hv))]
    have hu := h u (by simp)
    cases u <;> first | rfl | (simp; done) | (exfalso; simp [Upd.writes] at hu)

theorem State.after_loader (s : State) {a : Act} (h : a.Keeps .loader) : (s.after a).loader = s.loader := s.run_loader _ (h s)

theorem State.run_ctxs (s : State) (us : List Upd) (h : ∀ u ∈ us, u.writes .ctxs = false) : (s.run us).ctxs = s.ctxs := by
  induction us generalizing s with
  | nil => rfl
  | cons u t ih =>
    rw [State.run_cons, ih _ (fun v hv => h v (List.mem_cons_of_mem _ hv))]
    have hu := h u (by simp)
    cases u <;> first | rfl | (simp; done) | (exfalso; simp [Upd.writes] at hu)

theorem State.after_ctxs (s : State) {a : Act} (h : a.Keeps .ctxs) : (s.after a).ctxs = s.ctxs := s.run_ctxs _ (h s)

theorem State.run_windows (s : State) (us : List Upd) (h : ∀ u ∈ us, u.writes .windows = false) : (s.run us).windows = s.windows := by
  induction us generalizing s with
  | nil => rfl
  | cons u t ih =>
    rw [State.run_cons, ih _ (fun v hv => h v (List.mem_cons_of_mem _ hv))]
    have hu := h u (by simp)
    cases u <;> first | rfl | (simp; done) | (exfalso; simp [Upd.writes] at hu)

theorem State.after_windows (s : State) {a : Act} (h : a.Keeps .windows) : (s.after a).windows = s.windows := s.run_windows _ (h s)

theorem State.run_hub (s : State) (us : List Upd) (h : ∀ u ∈ us, u.writes .hub = false) : (s.run us).hub = s.hub := by
  induction us generalizing s with
  | nil => rfl
  | cons u t ih =>
    rw [State.run_cons, ih _ (fun v hv => h v (List.mem_cons_of_mem _ hv))]
    have hu := h u (by simp)
    cases u <;> first | rfl | (simp; done) | (exfalso; simp [Upd.writes] at hu)

theorem State.after_hub (s : State) {a : Act} (h : a.Keeps .hub) : (s.after a).hub = s.hub := s.run_hub _ (h s)

theorem State.run_clusters (s : State) (us : List Upd) (h : ∀ u ∈ us, u.writes .clusters = false) : (s.run us).clusters = s.clusters := by
  induction us generalizing s with
  | nil => rfl
  | cons u t ih =>
    rw [State.run_cons, ih _ (fun v hv => h v (List.mem_cons_of_mem _ hv))]
    have hu := h u (by simp)
    cases u <;> first | rfl | (simp; done) | (exfalso; simp [Upd.writes] at hu)

theorem State.after_clusters (s : State) {a : Act} (h : a.Keeps .clusters) : (s.after a).clusters = s.clusters := s.run_clusters _ (h s)

theorem State.run_cores (s : State) (us : List Upd) (h : ∀ u ∈ us, u.writes .cores = false) : (s.run us).cores = s.cores := by
  induction us generalizing s with
  | nil => rfl
  | cons u t ih =>
    rw [State.run_cons, ih _ (fun v hv => h v (List.mem_cons_of_mem _ hv))]
    have hu := h u (by simp)
    cases u <;> first | rfl | (simp; done) | (exfalso; simp [Upd.writes] at hu)

theorem State.after_cores (s : State) {a : Act} (h : a.Keeps .cores) : (s.after a).cores = s.cores := s.run_cores _ (h s)

theorem State.run_srCtr (s : State) (us : List Upd) (h : ∀ u ∈ us, u.writes .srCtr = false) : (s.run us).srCtr = s.srCtr := by
  induction us generalizing s with
  | nil => rfl
  | cons u t ih =>
    rw [State.run_cons, ih _ (fun v hv => h v (List.mem_cons_of_mem _ hv))]
    have hu := h u (by simp)
    cases u <;> first | rfl | (simp; done) | (exfalso; simp [Upd.writes] at hu)

theorem State.after_srCtr (s : State) {a : Act} (h : a.Keeps .srCtr) : (s.after a).srCtr = s.srCtr := s.run_srCtr _ (h s)

theorem State.run_rings (s : State) (us : List Upd) (h : ∀ u ∈ us, u.writes .rings = false) : (s.run us).rings = s.rings := by
  induction us generalizing s with
  | nil => rfl
  | cons u t ih =>
    rw [State.run_cons, ih _ (fun v hv => h v (List.mem_cons_of_mem _ hv))]
    have hu := h u (by simp)
    cases u <;> first | rfl | (simp; done) | (exfalso; simp [Upd.writes] at hu)

theorem State.after_rings (s : State) {a : Act} (h : a.Keeps .rings) : (s.after a).rings = s.rings := s.run_rings _ (h s)

theorem State.run_issues (s : State) (us : List Upd) (h : ∀ u ∈ us, u.writes .issues = false) : (s.run us).issues = s.issues := by
  induction us generalizing s with
  | nil => rfl
  | cons u t ih =>
    rw [State.run_cons, ih _ (fun v hv => h v (List.mem_cons_of_mem _ hv))]
    have hu := h u (by simp)
    cases u <;> first | rfl | (simp; done) | (exfalso; simp [Upd.writes] at hu)

theorem State.after_issues (s : State) {a : Act} (h : a.Keeps .issues) : (s.after a).issues = s.issues := s.run_issues _ (h s)

theorem State.run_reqs (s : State) (us : List Upd) (h : ∀ u ∈ us, u.writes .reqs = false) : (s.run us).reqs = s.reqs := by
  induction us generalizing s with
  | nil => rfl
  | cons u t ih =>
    rw [State.run_cons, ih _ (fun v hv => h v (List.mem_cons_of_mem _ hv))]
    have hu := h u (by simp)
    cases u <;> first | rfl | (simp; done) | (exfalso; simp [Upd.writes] at hu)

theorem State.after_reqs (s : State) {a : Act} (h : a.Keeps .reqs) : (s.after a).reqs = s.reqs := s.run_reqs _ (h s)

theorem State.run_stampNext (s : State) (us : List Upd) (h : ∀ u ∈ us, u.writes .stampNext = false) : (s.run us).stampNext = s.stampNext := by
  induction us generalizing s with
  | nil => rfl
  | cons u t ih =>
    rw [State.run_cons, ih _ (fun v hv => h v (List.mem_cons_of_mem _ hv))]
    have hu := h u (by simp)
    cases u <;> first | rfl | (simp; done) | (exfalso; simp [Upd.writes] at hu)

theorem State.after_stampNext (s : State) {a : Act} (h : a.Keeps .stampNext) : (s.after a).stampNext = s.stampNext := s.run_stampNext _ (h s)

theorem State.run_periods (s : State) (us : List Upd) (h : ∀ u ∈ us, u.writes .periods = false) : (s.run us).periods = s.periods := by
  induction us generalizing s with
  | nil => rfl
  | cons u t ih =>
    rw [State.run_cons, ih _ (fun v hv => h v (List.mem_cons_of_mem _ hv))]
    have hu := h u (by simp)
    cases u <;> first | rfl | (simp; done) | (exfalso; simp [Upd.writes] at hu)

theorem State.after_periods (s : State) {a : Act} (h : a.Keeps .periods) : (s.after a).periods = s.periods := s.run_periods _ (h s)

theorem State.run_sampler (s : State) (us : List Upd) (h : ∀ u ∈ us, u.writes .sampler = false) : (s.run us).sampler = s.sampler := by
  induction us generalizing s with
  | nil => rfl
  | cons u t ih =>
    rw [State.run_cons, ih _ (fun v hv => h v (List.mem_cons_of_mem _ hv))]
    have hu := h u (by simp)
    cases u <;> first | rfl | (simp; done) | (exfalso; simp [Upd.writes] at hu)

theorem State.after_sampler (s : State) {a : Act} (h : a.Keeps .sampler) : (s.after a).sampler = s.sampler := s.run_sampler _ (h s)

theorem State.run_pages (s : State) (us : List Upd) (h : ∀ u ∈ us, u.writes .pages = false) : (s.run us).pages = s.pages := by
  induction us generalizing s with
  | nil => rfl
  | cons u t ih =>
    rw [State.run_cons, ih _ (fun v hv => h v (List.mem_cons_of_mem _ hv))]
    have hu := h u (by simp)
    cases u <;> first | rfl | (simp; done) | (exfalso; simp [Upd.writes] at hu)

theorem State.after_pages (s : State) {a : Act} (h : a.Keeps .pages) : (s.after a).pages = s.pages := s.run_pages _ (h s)

theorem State.run_devRings (s : State) (us : List Upd) (h : ∀ u ∈ us, u.writes .devRings = false) : (s.run us).devRings = s.devRings := by
  induction us generalizing s with
  | nil => rfl
  | cons u t ih =>
    rw [State.run_cons, ih _ (fun v hv => h v (List.mem_cons_of_mem _ hv))]
    have hu := h u (by simp)
    cases u <;> first | rfl | (simp; done) | (exfalso; simp [Upd.writes] at hu)

theorem State.after_devRings (s : State) {a : Act} (h : a.Keeps .devRings) : (s.after a).devRings = s.devRings := s.run_devRings _ (h s)

theorem State.run_mig (s : State) (us : List Upd) (h : ∀ u ∈ us, u.writes .mig = false) : (s.run us).mig = s.mig := by
  induction us generalizing s with
  | nil => rfl
  | cons u t ih =>
    rw [State.run_cons, ih _ (fun v hv => h v (List.mem_cons_of_mem _ hv))]
    have hu := h u (by simp)
    cases u <;> first | rfl | (simp; done) | (exfalso; simp [Upd.writes] at hu)

theorem State.after_mig (s : State) {a : Act} (h : a.Keeps .mig) : (s.after a).mig = s.mig := s.run_mig _ (h s)

theorem State.run_packs (s : State) (us : List Upd) (h : ∀ u ∈ us, u.writes .packs = false) : (s.run us).packs = s.packs := by
  induction us generalizing s with
  | nil => rfl
  | cons u t ih =>
    rw [State.run_cons, ih _ (fun v hv => h v (List.mem_cons_of_mem _ hv))]
    have hu := h u (by simp)
    cases u <;> first | rfl | (simp; done) | (exfalso; simp [Upd.writes] at hu)

theorem State.after_packs (s : State) {a : Act} (h : a.Keeps .packs) : (s.after a).packs = s.packs := s.run_packs _ (h s)

theorem State.run_packNext (s : State) (us : List Upd) (h : ∀ u ∈ us, u.writes .packNext = false) : (s.run us).packNext = s.packNext := by
  induction us generalizing s with
  | nil => rfl
  | cons u t ih =>
    rw [State.run_cons, ih _ (fun v hv => h v (List.mem_cons_of_mem _ hv))]
    have hu := h u (by simp)
    cases u <;> first | rfl | (simp; done) | (exfalso; simp [Upd.writes] at hu)

theorem State.after_packNext (s : State) {a : Act} (h : a.Keeps .packNext) : (s.after a).packNext = s.packNext := s.run_packNext _ (h s)

theorem State.run_xlt (s : State) (us : List Upd) (h : ∀ u ∈ us, u.writes .xlt = false) : (s.run us).xlt = s.xlt := by
  induction us generalizing s with
  | nil => rfl
  | cons u t ih =>
    rw [State.run_cons, ih _ (fun v hv => h v (List.mem_cons_of_mem _ hv))]
    have hu := h u (by simp)
    cases u <;> first | rfl | (simp; done) | (exfalso; simp [Upd.writes] at hu)

theorem State.after_xlt (s : State) {a : Act} (h : a.Keeps .xlt) : (s.after a).xlt = s.xlt := s.run_xlt _ (h s)

theorem State.run_tiers (s : State) (us : List Upd) (h : ∀ u ∈ us, u.writes .tiers = false) : (s.run us).tiers = s.tiers := by
  induction us generalizing s with
  | nil => rfl
  | cons u t ih =>
    rw [State.run_cons, ih _ (fun v hv => h v (List.mem_cons_of_mem _ hv))]
    have hu := h u (by simp)
    cases u <;> first | rfl | (simp; done) | (exfalso; simp [Upd.writes] at hu)

theorem State.after_tiers (s : State) {a : Act} (h : a.Keeps .tiers) : (s.after a).tiers = s.tiers := s.run_tiers _ (h s)

theorem State.run_banks (s : State) (us : List Upd) (h : ∀ u ∈ us, u.writes .banks = false) : (s.run us).banks = s.banks := by
  induction us generalizing s with
  | nil => rfl
  | cons u t ih =>
    rw [State.run_cons, ih _ (fun v hv => h v (List.mem_cons_of_mem _ hv))]
    have hu := h u (by simp)
    cases u <;> first | rfl | (simp; done) | (exfalso; simp [Upd.writes] at hu)

theorem State.after_banks (s : State) {a : Act} (h : a.Keeps .banks) : (s.after a).banks = s.banks := s.run_banks _ (h s)

theorem State.run_march (s : State) (us : List Upd) (h : ∀ u ∈ us, u.writes .march = false) : (s.run us).march = s.march := by
  induction us generalizing s with
  | nil => rfl
  | cons u t ih =>
    rw [State.run_cons, ih _ (fun v hv => h v (List.mem_cons_of_mem _ hv))]
    have hu := h u (by simp)
    cases u <;> first | rfl | (simp; done) | (exfalso; simp [Upd.writes] at hu)

theorem State.after_march (s : State) {a : Act} (h : a.Keeps .march) : (s.after a).march = s.march := s.run_march _ (h s)

theorem State.run_cmpErrs (s : State) (us : List Upd) (h : ∀ u ∈ us, u.writes .cmpErrs = false) : (s.run us).cmpErrs = s.cmpErrs := by
  induction us generalizing s with
  | nil => rfl
  | cons u t ih =>
    rw [State.run_cons, ih _ (fun v hv => h v (List.mem_cons_of_mem _ hv))]
    have hu := h u (by simp)
    cases u <;> first | rfl | (simp; done) | (exfalso; simp [Upd.writes] at hu)

theorem State.after_cmpErrs (s : State) {a : Act} (h : a.Keeps .cmpErrs) : (s.after a).cmpErrs = s.cmpErrs := s.run_cmpErrs _ (h s)

theorem State.run_attErrs (s : State) (us : List Upd) (h : ∀ u ∈ us, u.writes .attErrs = false) : (s.run us).attErrs = s.attErrs := by
  induction us generalizing s with
  | nil => rfl
  | cons u t ih =>
    rw [State.run_cons, ih _ (fun v hv => h v (List.mem_cons_of_mem _ hv))]
    have hu := h u (by simp)
    cases u <;> first | rfl | (simp; done) | (exfalso; simp [Upd.writes] at hu)

theorem State.after_attErrs (s : State) {a : Act} (h : a.Keeps .attErrs) : (s.after a).attErrs = s.attErrs := s.run_attErrs _ (h s)

theorem State.run_hlErrs (s : State) (us : List Upd) (h : ∀ u ∈ us, u.writes .hlErrs = false) : (s.run us).hlErrs = s.hlErrs := by
  induction us generalizing s with
  | nil => rfl
  | cons u t ih =>
    rw [State.run_cons, ih _ (fun v hv => h v (List.mem_cons_of_mem _ hv))]
    have hu := h u (by simp)
    cases u <;> first | rfl | (simp; done) | (exfalso; simp [Upd.writes] at hu)

theorem State.after_hlErrs (s : State) {a : Act} (h : a.Keeps .hlErrs) : (s.after a).hlErrs = s.hlErrs := s.run_hlErrs _ (h s)

theorem State.run_cmpInvalidating (s : State) (us : List Upd) (h : ∀ u ∈ us, u.writes .cmpInvalidating = false) : (s.run us).cmpInvalidating = s.cmpInvalidating := by
  induction us generalizing s with
  | nil => rfl
  | cons u t ih =>
    rw [State.run_cons, ih _ (fun v hv => h v (List.mem_cons_of_mem _ hv))]
    have hu := h u (by simp)
    cases u <;> first | rfl | (simp; done) | (exfalso; simp [Upd.writes] at hu)

theorem State.after_cmpInvalidating (s : State) {a : Act} (h : a.Keeps .cmpInvalidating) : (s.after a).cmpInvalidating = s.cmpInvalidating := s.run_cmpInvalidating _ (h s)

theorem State.run_cmpCache (s : State) (us : List Upd) (h : ∀ u ∈ us, u.writes .cmpCache = false) : (s.run us).cmpCache = s.cmpCache := by
  induction us generalizing s with
  | nil => rfl
  | cons u t ih =>
    rw [State.run_cons, ih _ (fun v hv => h v (List.mem_cons_of_mem _ hv))]
    have hu := h u (by simp)
    cases u <;> first | rfl | (simp; done) | (exfalso; simp [Upd.writes] at hu)

theorem State.after_cmpCache (s : State) {a : Act} (h : a.Keeps .cmpCache) : (s.after a).cmpCache = s.cmpCache := s.run_cmpCache _ (h s)

theorem State.run_port (s : State) (us : List Upd) (h : ∀ u ∈ us, u.writes .port = false) : (s.run us).port = s.port := by
  induction us generalizing s with
  | nil => rfl
  | cons u t ih =>
    rw [State.run_cons, ih _ (fun v hv => h v (List.mem_cons_of_mem _ hv))]
    have hu := h u (by simp)
    cases u <;> first | rfl | (simp; done) | (exfalso; simp [Upd.writes] at hu)

theorem State.after_port (s : State) {a : Act} (h : a.Keeps .port) : (s.after a).port = s.port := s.run_port _ (h s)

theorem State.run_mailbox (s : State) (us : List Upd) (h : ∀ u ∈ us, u.writes .mailbox = false) : (s.run us).mailbox = s.mailbox := by
  induction us generalizing s with
  | nil => rfl
  | cons u t ih =>
    rw [State.run_cons, ih _ (fun v hv => h v (List.mem_cons_of_mem _ hv))]
    have hu := h u (by simp)
    cases u <;> first | rfl | (simp; done) | (exfalso; simp [Upd.writes] at hu)

theorem State.after_mailbox (s : State) {a : Act} (h : a.Keeps .mailbox) : (s.after a).mailbox = s.mailbox := s.run_mailbox _ (h s)

theorem State.run_links (s : State) (us : List Upd) (h : ∀ u ∈ us, u.writes .links = false) : (s.run us).links = s.links := by
  induction us generalizing s with
  | nil => rfl
  | cons u t ih =>
    rw [State.run_cons, ih _ (fun v hv => h v (List.mem_cons_of_mem _ hv))]
    have hu := h u (by simp)
    cases u <;> first | rfl | (simp; done) | (exfalso; simp [Upd.writes] at hu)

theorem State.after_links (s : State) {a : Act} (h : a.Keeps .links) : (s.after a).links = s.links := s.run_links _ (h s)

theorem State.run_fabric (s : State) (us : List Upd) (h : ∀ u ∈ us, u.writes .fabric = false) : (s.run us).fabric = s.fabric := by
  induction us generalizing s with
  | nil => rfl
  | cons u t ih =>
    rw [State.run_cons, ih _ (fun v hv => h v (List.mem_cons_of_mem _ hv))]
    have hu := h u (by simp)
    cases u <;> first | rfl | (simp; done) | (exfalso; simp [Upd.writes] at hu)

theorem State.after_fabric (s : State) {a : Act} (h : a.Keeps .fabric) : (s.after a).fabric = s.fabric := s.run_fabric _ (h s)

theorem State.run_outbound (s : State) (us : List Upd) (h : ∀ u ∈ us, u.writes .outbound = false) : (s.run us).outbound = s.outbound := by
  induction us generalizing s with
  | nil => rfl
  | cons u t ih =>
    rw [State.run_cons, ih _ (fun v hv => h v (List.mem_cons_of_mem _ hv))]
    have hu := h u (by simp)
    cases u <;> first | rfl | (simp; done) | (exfalso; simp [Upd.writes] at hu)

theorem State.after_outbound (s : State) {a : Act} (h : a.Keeps .outbound) : (s.after a).outbound = s.outbound := s.run_outbound _ (h s)

theorem State.run_sec (s : State) (us : List Upd) (h : ∀ u ∈ us, u.writes .sec = false) : (s.run us).sec = s.sec := by
  induction us generalizing s with
  | nil => rfl
  | cons u t ih =>
    rw [State.run_cons, ih _ (fun v hv => h v (List.mem_cons_of_mem _ hv))]
    have hu := h u (by simp)
    cases u <;> first | rfl | (simp; done) | (exfalso; simp [Upd.writes] at hu)

theorem State.after_sec (s : State) {a : Act} (h : a.Keeps .sec) : (s.after a).sec = s.sec := s.run_sec _ (h s)

theorem State.run_rotation (s : State) (us : List Upd) (h : ∀ u ∈ us, u.writes .rotation = false) : (s.run us).rotation = s.rotation := by
  induction us generalizing s with
  | nil => rfl
  | cons u t ih =>
    rw [State.run_cons, ih _ (fun v hv => h v (List.mem_cons_of_mem _ hv))]
    have hu := h u (by simp)
    cases u <;> first | rfl | (simp; done) | (exfalso; simp [Upd.writes] at hu)

theorem State.after_rotation (s : State) {a : Act} (h : a.Keeps .rotation) : (s.after a).rotation = s.rotation := s.run_rotation _ (h s)

theorem State.run_sliceLate (s : State) (us : List Upd) (h : ∀ u ∈ us, u.writes .sliceLate = false) : (s.run us).sliceLate = s.sliceLate := by
  induction us generalizing s with
  | nil => rfl
  | cons u t ih =>
    rw [State.run_cons, ih _ (fun v hv => h v (List.mem_cons_of_mem _ hv))]
    have hu := h u (by simp)
    cases u <;> first | rfl | (simp; done) | (exfalso; simp [Upd.writes] at hu)

theorem State.after_sliceLate (s : State) {a : Act} (h : a.Keeps .sliceLate) : (s.after a).sliceLate = s.sliceLate := s.run_sliceLate _ (h s)

theorem State.run_power (s : State) (us : List Upd) (h : ∀ u ∈ us, u.writes .power = false) : (s.run us).power = s.power := by
  induction us generalizing s with
  | nil => rfl
  | cons u t ih =>
    rw [State.run_cons, ih _ (fun v hv => h v (List.mem_cons_of_mem _ hv))]
    have hu := h u (by simp)
    cases u <;> first | rfl | (simp; done) | (exfalso; simp [Upd.writes] at hu)

theorem State.after_power (s : State) {a : Act} (h : a.Keeps .power) : (s.after a).power = s.power := s.run_power _ (h s)

theorem State.run_flt (s : State) (us : List Upd) (h : ∀ u ∈ us, u.writes .flt = false) : (s.run us).flt = s.flt := by
  induction us generalizing s with
  | nil => rfl
  | cons u t ih =>
    rw [State.run_cons, ih _ (fun v hv => h v (List.mem_cons_of_mem _ hv))]
    have hu := h u (by simp)
    cases u <;> first | rfl | (simp; done) | (exfalso; simp [Upd.writes] at hu)

theorem State.after_flt (s : State) {a : Act} (h : a.Keeps .flt) : (s.after a).flt = s.flt := s.run_flt _ (h s)

/-- No update touches the queue of waiting commands. -/
@[simp] theorem State.run_pending (s : State) (us : List Upd) : (s.run us).pending = s.pending := by
  induction us generalizing s with
  | nil => rfl
  | cons u t ih => rw [State.run_cons, ih]; cases u <;> simp

end Sys2Proof.Machine
end

