-- ==== Sys2Proof/Laws/Tab.lean ====
section
/-! SUPPORT. Laws of sparse tables: read after write, and that every operation keeps the canonical form. -/

namespace Sys2Proof.Machine

variable {α : Type} (d : Nat → α)

/-! ## Read after write -/

theorem tabGet_tabErase_self (t : Tab α) (k : Nat) : tabGet d (tabErase t k) k = d k := by
  induction t with
  | nil => rfl
  | cons p t ih =>
    obtain ⟨j, v⟩ := p
    simp only [tabErase]
    split
    · exact ih
    · next h => simp [tabGet, h, ih]

theorem tabGet_tabErase_ne (t : Tab α) {k a : Nat} (h : a ≠ k) : tabGet d (tabErase t k) a = tabGet d t a := by
  induction t with
  | nil => rfl
  | cons p t ih =>
    obtain ⟨j, v⟩ := p
    simp only [tabErase]
    split
    · next hj => subst hj; simp [tabGet, ih, Ne.symm h]
    · simp [tabGet, ih]

theorem tabGet_tabInsert_ne (t : Tab α) {k a : Nat} (v : α) (h : a ≠ k) :
    tabGet d (tabInsert t k v) a = tabGet d t a := by
  induction t with
  | nil => simp [tabInsert, tabGet, Ne.symm h]
  | cons p t ih =>
    obtain ⟨j, w⟩ := p
    simp only [tabInsert]
    split
    · simp [tabGet, Ne.symm h]
    · simp [tabGet, ih]

theorem tabGet_tabInsert_self (t : Tab α) (k : Nat) (v : α) (h : ∀ p ∈ t, p.1 ≠ k) :
    tabGet d (tabInsert t k v) k = v := by
  induction t with
  | nil => simp [tabInsert, tabGet]
  | cons p t ih =>
    obtain ⟨j, w⟩ := p
    simp only [tabInsert]
    split
    · simp [tabGet]
    · have : j ≠ k := h (j, w) (by simp)
      simp [tabGet, this, ih fun q hq => h q (List.mem_cons_of_mem _ hq)]

theorem tabErase_no_key (t : Tab α) (k : Nat) : ∀ p ∈ tabErase t k, p.1 ≠ k := by
  induction t with
  | nil => simp [tabErase]
  | cons p t ih =>
    obtain ⟨j, v⟩ := p
    simp only [tabErase]
    split
    · exact ih
    · next h =>
      intro q hq
      rcases List.mem_cons.mp hq with rfl | hq
      · exact h
      · exact ih q hq

/-- A read after a write to the same key gives the value written. -/
@[simp] theorem tabGet_tabSet_self [DecidableEq α] (t : Tab α) (k : Nat) (v : α) : tabGet d (tabSet d t k v) k = v := by
  unfold tabSet
  split
  · next h => rw [tabGet_tabErase_self, h]
  · exact tabGet_tabInsert_self d _ _ _ (tabErase_no_key t k)

/-- A write leaves every other key alone. -/
theorem tabGet_tabSet_ne [DecidableEq α] (t : Tab α) {k a : Nat} (v : α) (h : a ≠ k) :
    tabGet d (tabSet d t k v) a = tabGet d t a := by
  unfold tabSet
  split
  · exact tabGet_tabErase_ne d t h
  · rw [tabGet_tabInsert_ne d _ v h, tabGet_tabErase_ne d t h]

theorem tabGet_tabSet [DecidableEq α] (t : Tab α) (k a : Nat) (v : α) :
    tabGet d (tabSet d t k v) a = if a = k then v else tabGet d t a := by
  split
  · next h => rw [h, tabGet_tabSet_self]
  · next h => exact tabGet_tabSet_ne d t v h

@[simp] theorem tabGet_tabMod_self [DecidableEq α] (t : Tab α) (k : Nat) (f : α → α) :
    tabGet d (tabMod d t k f) k = f (tabGet d t k) := tabGet_tabSet_self d t k _

theorem tabGet_tabMod_ne [DecidableEq α] (t : Tab α) {k a : Nat} (f : α → α) (h : a ≠ k) :
    tabGet d (tabMod d t k f) a = tabGet d t a := tabGet_tabSet_ne d t _ h

/-- A cleared range reads as unlisted, and the rest as before. -/
theorem tabGet_tabClear (t : Tab α) (b n a : Nat) :
    tabGet d (tabClear t b n) a = if b ≤ a ∧ a < b + n then d a else tabGet d t a := by
  induction t with
  | nil => simp [tabClear, tabGet]
  | cons p t ih =>
    obtain ⟨j, v⟩ := p
    simp only [tabClear]
    split
    · next h =>
      rw [ih]
      split
      · rfl
      · next h' => have : j ≠ a := fun e => h' (e ▸ h)
                   simp [tabGet, this]
    · next h =>
      simp only [tabGet]
      split
      · next e => subst e; simp [h]
      · exact ih

/-! ## The canonical form -/

theorem tabRising_mono {lo lo' : Nat} (t : Tab α) (h : lo' ≤ lo) (w : tabRising lo t = true) : tabRising lo' t = true := by
  cases t with
  | nil => rfl
  | cons p t =>
    obtain ⟨j, v⟩ := p
    simp only [tabRising, Bool.and_eq_true, decide_eq_true_eq] at *
    exact ⟨by omega, w.2⟩

theorem tabRising_tabErase (lo : Nat) (t : Tab α) (k : Nat) (w : tabRising lo t = true) :
    tabRising lo (tabErase t k) = true := by
  induction t generalizing lo with
  | nil => rfl
  | cons p t ih =>
    obtain ⟨j, v⟩ := p
    simp only [tabRising, Bool.and_eq_true, decide_eq_true_eq] at w
    simp only [tabErase]
    split
    · exact tabRising_mono _ (by omega) (ih _ w.2)
    · simp [tabRising, w.1, ih _ w.2]

theorem tabRising_tabClear (lo : Nat) (t : Tab α) (b n : Nat) (w : tabRising lo t = true) :
    tabRising lo (tabClear t b n) = true := by
  induction t generalizing lo with
  | nil => rfl
  | cons p t ih =>
    obtain ⟨j, v⟩ := p
    simp only [tabRising, Bool.and_eq_true, decide_eq_true_eq] at w
    simp only [tabClear]
    split
    · exact tabRising_mono _ (by omega) (ih _ w.2)
    · simp [tabRising, w.1, ih _ w.2]

theorem tabRising_tabInsert (lo : Nat) (t : Tab α) (k : Nat) (v : α) (hk : lo ≤ k) (hn : ∀ p ∈ t, p.1 ≠ k)
    (w : tabRising lo t = true) : tabRising lo (tabInsert t k v) = true := by
  induction t generalizing lo with
  | nil => simp [tabInsert, tabRising, hk]
  | cons p t ih =>
    obtain ⟨j, x⟩ := p
    simp only [tabRising, Bool.and_eq_true, decide_eq_true_eq] at w
    have hj : j ≠ k := hn (j, x) (by simp)
    simp only [tabInsert]
    split
    · next h =>
      simp only [tabRising, Bool.and_eq_true, decide_eq_true_eq]
      exact ⟨hk, by omega, w.2⟩
    · next h =>
      simp only [tabRising, Bool.and_eq_true, decide_eq_true_eq]
      exact ⟨w.1, ih _ (by omega) (fun q hq => hn q (List.mem_cons_of_mem _ hq)) w.2⟩

theorem mem_tabErase {t : Tab α} {k : Nat} {p : Nat × α} (h : p ∈ tabErase t k) : p ∈ t := by
  induction t with
  | nil => simp [tabErase] at h
  | cons q t ih =>
    obtain ⟨j, v⟩ := q
    simp only [tabErase] at h
    split at h
    · exact List.mem_cons_of_mem _ (ih h)
    · rcases List.mem_cons.mp h with rfl | h
      · simp
      · exact List.mem_cons_of_mem _ (ih h)

theorem mem_tabClear {t : Tab α} {b n : Nat} {p : Nat × α} (h : p ∈ tabClear t b n) : p ∈ t := by
  induction t with
  | nil => simp [tabClear] at h
  | cons q t ih =>
    obtain ⟨j, v⟩ := q
    simp only [tabClear] at h
    split at h
    · exact List.mem_cons_of_mem _ (ih h)
    · rcases List.mem_cons.mp h with rfl | h
      · simp
      · exact List.mem_cons_of_mem _ (ih h)

theorem mem_tabInsert {t : Tab α} {k : Nat} {v : α} {p : Nat × α} (h : p ∈ tabInsert t k v) : p = (k, v) ∨ p ∈ t := by
  induction t with
  | nil => simpa [tabInsert] using h
  | cons q t ih =>
    obtain ⟨j, x⟩ := q
    simp only [tabInsert] at h
    split at h
    · simpa using h
    · rcases List.mem_cons.mp h with rfl | h
      · simp
      · rcases ih h with h | h
        · exact .inl h
        · exact .inr (List.mem_cons_of_mem _ h)

@[simp] theorem tabWf_nil [DecidableEq α] : tabWf d ([] : Tab α) = true := rfl

theorem tabWf_iff [DecidableEq α] (t : Tab α) : tabWf d t = true ↔ tabRising 0 t = true ∧ ∀ p ∈ t, p.2 ≠ d p.1 := by
  simp [tabWf, List.all_eq_true]

/-- Setting a key keeps the canonical form. -/
@[simp] theorem tabWf_tabSet [DecidableEq α] (t : Tab α) (k : Nat) (v : α) (w : tabWf d t = true) :
    tabWf d (tabSet d t k v) = true := by
  rw [tabWf_iff] at *
  unfold tabSet
  split
  · exact ⟨tabRising_tabErase _ _ _ w.1, fun p hp => w.2 p (mem_tabErase hp)⟩
  · next h =>
    refine ⟨tabRising_tabInsert _ _ _ _ (Nat.zero_le _) (tabErase_no_key t k) (tabRising_tabErase _ _ _ w.1), ?_⟩
    intro p hp
    rcases mem_tabInsert hp with rfl | hp
    · exact h
    · exact w.2 p (mem_tabErase hp)

/-- Changing the value at a key keeps the canonical form. -/
@[simp] theorem tabWf_tabMod [DecidableEq α] (t : Tab α) (k : Nat) (f : α → α) (w : tabWf d t = true) :
    tabWf d (tabMod d t k f) = true := tabWf_tabSet d t k _ w

/-- Clearing a range keeps the canonical form. -/
@[simp] theorem tabWf_tabClear [DecidableEq α] (t : Tab α) (b n : Nat) (w : tabWf d t = true) :
    tabWf d (tabClear t b n) = true := by
  rw [tabWf_iff] at *
  exact ⟨tabRising_tabClear _ _ _ _ w.1, fun p hp => w.2 p (mem_tabClear hp)⟩

/-- Entries set one after another from a canonical table give a canonical table. -/
theorem tabWf_foldl_tabSet [DecidableEq α] {β : Type} (xs : List β) (g : β → Nat) (h : β → α) (t : Tab α)
    (w : tabWf d t = true) : tabWf d (xs.foldl (fun t p => tabSet d t (g p) (h p)) t) = true := by
  induction xs generalizing t with
  | nil => exact w
  | cons x xs ih => exact ih _ (tabWf_tabSet d t _ _ w)

end Sys2Proof.Machine
end

