-- ==== Sys2Proof/Laws/Memory.lean ====
section
/-! SUPPORT. Laws of memory, registers and the numbered parts of the module: read after write, what a store leaves alone,
and that every primitive update keeps the canonical form. -/

namespace Sys2Proof.Machine

open Sys2Proof

/-! ## Bytes -/

theorem tabGet_memPut (m : Tab Byte) (a : Nat) (d : Bytes) (b : Nat) :
    tabGet (fun _ => 0) (memPut m a d) b =
      if a ≤ b ∧ b < a + d.length then (d[b - a]?).getD 0 else tabGet (fun _ => 0) m b := by
  induction d generalizing m a with
  | nil => simp [memPut] <;> omega
  | cons x t ih =>
    simp only [memPut, ih, List.length_cons]
    by_cases hb : b = a
    · subst hb
      have h1 : ¬(b + 1 ≤ b ∧ b < b + 1 + t.length) := by omega
      have h2 : b ≤ b ∧ b < b + (t.length + 1) := by omega
      rw [if_neg h1, if_pos h2]
      simp
    · rw [tabGet_tabSet_ne _ _ _ hb]
      by_cases h : a ≤ b ∧ b < a + (t.length + 1)
      · have h1 : a + 1 ≤ b ∧ b < a + 1 + t.length := by omega
        rw [if_pos h, if_pos h1]
        have : b - a = (b - (a + 1)) + 1 := by omega
        rw [this]; simp
      · have h1 : ¬(a + 1 ≤ b ∧ b < a + 1 + t.length) := by omega
        rw [if_neg h, if_neg h1]

/-- A store keeps memory canonical. -/
theorem memPut_wf (m : Tab Byte) (a : Nat) (d : Bytes) (w : tabWf (fun _ => (0 : Byte)) m = true) :
    tabWf (fun _ => (0 : Byte)) (memPut m a d) = true := by
  induction d generalizing m a with
  | nil => exact w
  | cons x t ih => exact ih _ _ (tabWf_tabSet _ m a x w)

theorem undefAt_append (xs ys : List (Nat × Nat × Nat)) (b : Nat) :
    undefAt (xs ++ ys) b = (undefAt xs b).or (undefAt ys b) := by
  induction xs with
  | nil => simp [undefAt]
  | cons x t ih =>
    obtain ⟨p, l, k⟩ := x
    simp only [List.cons_append, undefAt]
    split
    · simp
    · exact ih

/-- Cutting a range out of the undefined ranges: its bytes are defined, and the others as before. -/
theorem undefAt_cutRanges (a n : Nat) (rs : List (Nat × Nat × Nat)) (b : Nat) :
    undefAt (cutRanges a n rs) b = if a ≤ b ∧ b < a + n then none else undefAt rs b := by
  induction rs with
  | nil => simp [cutRanges, undefAt]
  | cons r t ih =>
    obtain ⟨p, l, k⟩ := r
    have e : cutRanges a n ((p, l, k) :: t) = cutRange a n (p, l, k) ++ cutRanges a n t := rfl
    rw [e, undefAt_append, ih]
    unfold cutRange
    simp only
    by_cases hc : a + n ≤ p ∨ p + l ≤ a
    · rw [if_pos hc]
      by_cases hb : a ≤ b ∧ b < a + n
      · have : ¬(p ≤ b ∧ b < p + l) := by omega
        simp [undefAt, hb, this]
      · simp only [undefAt, if_neg hb]
        split <;> simp
    · rw [if_neg hc]
      by_cases hb : a ≤ b ∧ b < a + n
      · have h1 : ¬(p ≤ b ∧ b < p + (a - p)) := by omega
        have h2 : ¬(a + n ≤ b ∧ b < a + n + (p + l - (a + n))) := by omega
        rw [undefAt_append]
        split <;> split <;> simp [undefAt, hb, h1, h2]
      · rw [if_neg hb, undefAt_append]
        by_cases hr : p ≤ b ∧ b < p + l
        · by_cases hlt : b < a
          · have h1 : p < a := by omega
            have h2 : p ≤ b ∧ b < p + (a - p) := by omega
            simp [undefAt, h1, h2, hr, hb]
          · have h1 : ¬(b < p + (a - p)) := by omega
            have h2 : a + n < p + l := by omega
            have h3 : a + n ≤ b ∧ b < a + n + (p + l - (a + n)) := by omega
            split <;> simp [undefAt, h1, h2, h3, hr]
        · have h1 : ¬(p ≤ b ∧ b < p + (a - p)) := by omega
          have h3 : ¬(a + n ≤ b ∧ b < a + n + (p + l - (a + n))) := by omega
          split <;> split <;> simp [undefAt, h1, h3, hr]

theorem peek_congr {s t : State} (hm : t.mem = s.mem) (hu : t.undef = s.undef) (a : Nat) : t.peek a = s.peek a := by
  simp [State.peek, hm, hu]

/-- A byte after a store: the byte stored, or what it was. -/
theorem peek_store (s : State) (a : Nat) (d : Bytes) (b : Nat) :
    (s.apply (.store a d)).peek b = if a ≤ b ∧ b < a + d.length then (d[b - a]?).getD 0 else s.peek b := by
  simp only [State.peek, State.apply_store_mem, State.apply_store_undef, undefAt_cutRanges, tabGet_memPut]
  by_cases h : a ≤ b ∧ b < a + d.length <;> simp [h]

/-- A byte after a clear: zero, or what it was. -/
theorem peek_clear (s : State) (a n b : Nat) :
    (s.apply (.clear a n)).peek b = if a ≤ b ∧ b < a + n then 0 else s.peek b := by
  simp only [State.peek, State.apply_clear_mem, State.apply_clear_undef, undefAt_cutRanges, tabGet_tabClear]
  by_cases h : a ≤ b ∧ b < a + n <;> simp [h]

/-- A byte after a range has become undefined: a free value, or what it was. -/
theorem peek_undef (s : State) (a n b : Nat) :
    (s.apply (.undef a n)).peek b = if a ≤ b ∧ b < a + n then Config.freeByte s.free b else s.peek b := by
  by_cases hn : n = 0
  · have : ¬(a ≤ b ∧ b < a + n) := by omega
    simp [State.apply, hn] <;> omega
  · have : s.apply (.undef a n) = { s with
        mem := tabClear s.mem a n
        undef := (a, n, s.free) :: cutRanges a n s.undef
        free := s.free + 1 } := by simp [State.apply, hn]
    rw [this]
    simp only [State.peek, undefAt]
    by_cases h : a ≤ b ∧ b < a + n
    · simp [h]
    · simp only [if_neg h, undefAt_cutRanges, tabGet_tabClear]

/-- `n` bytes read after a store of `n` bytes to the same address are the bytes stored. -/
theorem peekN_eq (s : State) (a : Nat) (n : Nat) : s.peekN a n = (List.range n).map fun i => s.peek (a + i) := by
  induction n generalizing a with
  | zero => rfl
  | succ n ih =>
    rw [State.peekN, ih, List.range_succ_eq_map]
    simp [Function.comp_def, Nat.add_assoc, Nat.add_comm 1]

theorem peekN_store_self (s : State) (a : Nat) (d : Bytes) : (s.apply (.store a d)).peekN a d.length = d := by
  rw [peekN_eq]
  apply List.ext_getElem (by simp)
  intro i h1 h2
  simp [peek_store, h2]

/-! ## Registers -/

@[simp] theorem rd_reg_self (s : State) (a : Nat) (v : Word) : (s.apply (.reg a v)).rd a = v := by
  simp [State.rd]

theorem rd_reg_ne (s : State) {a b : Nat} (v : Word) (h : b ≠ a) : (s.apply (.reg a v)).rd b = s.rd b := by
  simp [State.rd, tabGet_tabSet_ne _ _ _ h]

@[simp] theorem rd_fld_self (s : State) (f : Fld) (v : Nat) : (s.apply (.fld f v)).rd f.addr = f.put (s.rd f.addr) v := by
  simp [State.rd]

theorem rd_fld_ne (s : State) {f : Fld} {b : Nat} (v : Nat) (h : b ≠ f.addr) : (s.apply (.fld f v)).rd b = s.rd b := by
  simp [State.rd, tabGet_tabSet_ne _ _ _ h]

theorem rd_inc_ne (s : State) {f : Fld} {b : Nat} (n : Nat) (h : b ≠ f.addr) : (s.apply (.inc f n)).rd b = s.rd b := by
  simp [State.rd, tabGet_tabSet_ne _ _ _ h]

theorem rd_congr {s t : State} (h : t.regs = s.regs) (a : Nat) : t.rd a = s.rd a := by simp [State.rd, h]

theorem fget_congr {s t : State} (f : Fld) (h : t.rd f.addr = s.rd f.addr) : t.fget f = s.fget f := by
  simp [State.fget, h]

/-! ## Numbered parts -/

@[simp] theorem ctx_apply_ctx (s : State) (c : Nat) (f : CtxSlot → CtxSlot) : (s.apply (.ctx c f)).ctx c = f (s.ctx c) := by
  simp [State.ctx]
@[simp] theorem cluster_apply_cluster (s : State) (k : Nat) (f : ClusterState → ClusterState) :
    (s.apply (.cluster k f)).cluster k = f (s.cluster k) := by simp [State.cluster]
@[simp] theorem core_apply_core (s : State) (k : Nat) (f : CoreState → CoreState) :
    (s.apply (.core k f)).core k = f (s.core k) := by simp [State.core]
@[simp] theorem ring_apply_ring (s : State) (k : Nat) (f : Ring → Ring) :
    (s.apply (.ring k f)).ring k = f (s.ring k) := by simp [State.ring]
@[simp] theorem req_apply_req (s : State) (k : Nat) (f : Request → Request) :
    (s.apply (.req k f)).req k = f (s.req k) := by simp [State.req]
@[simp] theorem period_apply_period (s : State) (k : Nat) (f : Period → Period) :
    (s.apply (.period k f)).period k = f (s.period k) := by simp [State.period]
@[simp] theorem bank_apply_bank (s : State) (k : Nat) (f : BankState → BankState) :
    (s.apply (.bank k f)).bank k = f (s.bank k) := by simp [State.bank]
@[simp] theorem link_apply_link (s : State) (k : Nat) (f : LinkState → LinkState) :
    (s.apply (.link k f)).link k = f (s.link k) := by simp [State.link]
@[simp] theorem devRing_apply_devRing (s : State) (k : Nat) (f : DevRing → DevRing) :
    (s.apply (.devRing k f)).devRing k = f (s.devRing k) := by simp [State.devRing]
@[simp] theorem tier_apply_tier (s : State) (k : Nat) (f : TierState → TierState) :
    (s.apply (.tier k f)).tier k = f (s.tier k) := by simp [State.tier]

/-! ## The canonical form -/

/-- Memory is canonical after a store, a clear and an undefining. -/
theorem apply_memory_wf (s : State) (u : Upd) (w : tabWf (fun _ => (0 : Byte)) s.mem = true) :
    tabWf (fun _ => (0 : Byte)) (s.apply u).mem = true := by
  cases u
  case store a d => exact memPut_wf _ _ _ w
  case clear a n => exact tabWf_tabClear _ _ _ _ w
  case undef a n =>
    simp only [State.apply]
    split
    · exact w
    · exact tabWf_tabClear _ _ _ _ w
  case cold => rfl
  case warm => exact tabWf_tabClear _ _ _ _ w
  case msix v => rw [State.apply_msix_mem]; exact w
  all_goals exact w

/-- The register file is canonical after every update. -/
theorem apply_regs_wf (s : State) (u : Upd) (w : tabWf regReset s.regs = true) : tabWf regReset (s.apply u).regs = true := by
  cases u
  case fld f v => exact tabWf_tabSet _ _ _ _ w
  case reg a v => exact tabWf_tabSet _ _ _ _ w
  case inc f n => exact tabWf_tabSet _ _ _ _ w
  case regReset b n => exact tabWf_tabClear _ _ _ _ w
  case undef a n => simp only [State.apply]; split <;> exact w
  case cold => rfl
  case warm => exact tabWf_foldl_tabSet _ _ _ _ _ (tabWf_nil _)
  case msix v => rw [State.apply_msix_regs]; exact w
  all_goals exact w

end Sys2Proof.Machine
end

