-- ==== Sys2Proof/Laws/Canonical.lean ====
section
/-! SUPPORT. Every primitive update keeps every sparse part of the state in its canonical form. -/

namespace Sys2Proof.Machine

open Sys2Proof

/-- One primitive update keeps the canonical form of the whole state. -/
theorem apply_canonical (s : State) (u : Upd) (w : s.Canonical) : (s.apply u).Canonical := by
  obtain ⟨hm, hr, hp, hk, hc, hcl, hco, hsr, hri, hre, hpe, hdr, hti, hba, hli⟩ := w
  refine ⟨apply_memory_wf s u hm, apply_regs_wf s u hr, ?_, ?_, ?_, ?_, ?_, ?_, ?_, ?_, ?_, ?_, ?_, ?_, ?_⟩
  · cases u <;> first | exact hp | exact tabWf_tabSet _ _ _ _ hp | exact tabWf_tabClear _ _ _ _ hp | rfl | skip
    all_goals simpa using hp
  · cases u <;> first | exact hk | exact tabWf_tabSet _ _ _ _ hk | exact tabWf_tabClear _ _ _ _ hk | rfl | skip
    all_goals simpa using hk
  · cases u <;> first | exact hc | exact tabWf_tabMod _ _ _ _ hc | rfl | exact tabWf_foldl_tabSet _ _ _ _ _ (tabWf_nil _) | skip
    all_goals simpa using hc
  · cases u <;> first | exact hcl | exact tabWf_tabMod _ _ _ _ hcl | rfl | skip
    all_goals simpa using hcl
  · cases u <;> first | exact hco | exact tabWf_tabMod _ _ _ _ hco | rfl | skip
    all_goals simpa using hco
  · cases u <;> first | exact hsr | exact tabWf_tabSet _ _ _ _ hsr | exact tabWf_tabClear _ _ _ _ hsr | rfl | skip
    all_goals simpa using hsr
  · cases u <;> first | exact hri | exact tabWf_tabMod _ _ _ _ hri | rfl | skip
    all_goals simpa using hri
  · cases u <;> first | exact hre | exact tabWf_tabMod _ _ _ _ hre | rfl | skip
    all_goals simpa using hre
  · cases u <;> first | exact hpe | exact tabWf_tabMod _ _ _ _ hpe | rfl | exact tabWf_foldl_tabSet _ _ _ _ _ (tabWf_nil _) | skip
    all_goals simpa using hpe
  · cases u <;> first | exact hdr | exact tabWf_tabMod _ _ _ _ hdr | rfl | skip
    all_goals simpa using hdr
  · cases u <;> first | exact hti | exact tabWf_tabMod _ _ _ _ hti | rfl | skip
    all_goals simpa using hti
  · cases u <;> first | exact hba | exact tabWf_tabMod _ _ _ _ hba | rfl | exact tabWf_foldl_tabSet _ _ _ _ _ (tabWf_nil _) | skip
    all_goals simpa using hba
  · cases u <;> first | exact hli | exact tabWf_tabMod _ _ _ _ hli | rfl | skip
    all_goals simpa using hli

end Sys2Proof.Machine
end

