-- ==== Sys2Proof/Laws/Fields.lean ====
section
/-! SUPPORT. Laws of register fields: a field reads what was put into it, and fields that share no bit do not meet. -/

namespace Sys2Proof.Machine

open Sys2Proof

theorem Fld.of_testBit (f : Fld) (w : Word) (i : Nat) :
    (f.of w).testBit i = (decide (i < f.width) && w.getLsbD (f.lo + i)) := by
  simp [Fld.of, Nat.testBit_mod_two_pow, Nat.testBit_shiftRight, BitVec.getLsbD]

theorem Fld.put_getLsbD (f : Fld) (w : Word) (v j : Nat) :
    (f.put w v).getLsbD j = if f.lo ≤ j ∧ j < f.lo + f.width then decide (j < 64) && v.testBit (j - f.lo) else w.getLsbD j := by
  by_cases hj : j < 64
  · simp only [Fld.put, BitVec.getLsbD_or, BitVec.getLsbD_and, BitVec.getLsbD_not, BitVec.getLsbD_shiftLeft,
      BitVec.getLsbD_ofNat, Nat.testBit_mod_two_pow, Nat.testBit_two_pow_sub_one, hj]
    by_cases h : f.lo ≤ j ∧ j < f.lo + f.width
    · have h1 : ¬ j < f.lo := by omega
      have h2 : j - f.lo < f.width := by omega
      have h3 : j - f.lo < 64 := by omega
      simp [h, h1, h2, h3]
    · by_cases h1 : j < f.lo
      · simp [h, h1]
      · have h2 : ¬ (j - f.lo < f.width) := by omega
        simp [h, h1, h2]
  · have e : ∀ x : Word, x.getLsbD j = false := fun x => BitVec.getLsbD_of_ge x j (by omega)
    simp [e, hj]

/-- A field reads what was put into it, modulo its width. -/
@[simp] theorem Fld.of_put (f : Fld) (w : Word) (v : Nat) (h : f.lo + f.width ≤ 64) : f.of (f.put w v) = v % 2 ^ f.width := by
  apply Nat.eq_of_testBit_eq
  intro i
  rw [Fld.of_testBit, Fld.put_getLsbD, Nat.testBit_mod_two_pow]
  by_cases hi : i < f.width
  · have h1 : f.lo + i < 64 := by omega
    simp [hi, h1]
  · simp [hi]

/-- A field that shares no bit with another is left alone by a put into the other. -/
theorem Fld.of_put_other (f g : Fld) (w : Word) (v : Nat) (h : g.lo + g.width ≤ f.lo ∨ f.lo + f.width ≤ g.lo) :
    g.of (f.put w v) = g.of w := by
  apply Nat.eq_of_testBit_eq
  intro i
  rw [Fld.of_testBit, Fld.of_testBit, Fld.put_getLsbD]
  by_cases hi : i < g.width
  · have : ¬(f.lo ≤ g.lo + i ∧ g.lo + i < f.lo + f.width) := by omega
    simp [hi, this]
  · simp [hi]

/-- A field after its own update. -/
theorem fget_fld_self (s : State) (f : Fld) (v : Nat) (h : f.lo + f.width ≤ 64) :
    (s.apply (.fld f v)).fget f = v % 2 ^ f.width := by
  simp [State.fget, h]

/-- A field of another register, or of other bits, after an update. -/
theorem fget_fld_other (s : State) (f g : Fld) (v : Nat)
    (h : g.addr ≠ f.addr ∨ g.lo + g.width ≤ f.lo ∨ f.lo + f.width ≤ g.lo) : (s.apply (.fld f v)).fget g = s.fget g := by
  by_cases e : g.addr = f.addr
  · have h' := h.resolve_left (by simp [e])
    simp only [State.fget, e, rd_fld_self]
    exact Fld.of_put_other f g _ v h'
  · exact fget_congr g (rd_fld_ne s v e)

/-- A field after a counter update of it. -/
theorem fget_inc_self (s : State) (f : Fld) (n : Nat) (h : f.lo + f.width ≤ 64) :
    (s.apply (.inc f n)).fget f = satAdd f.width (s.fget f) n % 2 ^ f.width := by
  simp [State.fget, State.rd, h]

theorem fget_inc_other (s : State) (f g : Fld) (n : Nat)
    (h : g.addr ≠ f.addr ∨ g.lo + g.width ≤ f.lo ∨ f.lo + f.width ≤ g.lo) : (s.apply (.inc f n)).fget g = s.fget g := by
  by_cases e : g.addr = f.addr
  · have h' := h.resolve_left (by simp [e])
    simp only [State.fget, State.rd, State.apply_inc_regs, e, tabGet_tabSet_self]
    exact Fld.of_put_other f g _ _ h'
  · exact fget_congr g (rd_inc_ne s n e)

end Sys2Proof.Machine
end

