-- ==== Sys2Proof/Tests/Slice0.lean ====
section
/-! SUPPORT. The model's own tests: ill-formed commands that the check refuses, values worked out from the manual, and for
each statement with hypotheses a state and operands that meet them. -/

namespace Sys2Proof.Tests

open Sys2Proof Sys2Proof.Machine

set_option Elab.async false

/-- The state after updates from reset. -/
def st (us : List Upd) : State := State.reset.run us

/-- The state after a command, or reset where it gives none. -/
def ran (c : Instr) (s : State) : State :=
  match exec c s with
  | .next t => t
  | _ => State.reset

/-- Maps the first GiB of context `c`'s virtual space onto the first GiB of the fast tier, readable and writable: three
tables from address 0x10000. -/
def mapped (c : Nat) : List Upd :=
  [.fld Fld.secTagtabBase 256, .fld Fld.secCtxtabBase 15, .store (0xF000 + 64 * c) (leBytes 8 0x10001),
   .store 0x10000 (leBytes 8 0x11001), .store 0x11000 (leBytes 8 0x12001), .store 0x12000 (leBytes 8 15)]

/-! ## Ill-formed commands (one for each check) -/

theorem test_wf_refuses_register_writes :
    (Instr.registerWrite Reg.pwrLimit 3 0).wf = false ∧ (Instr.registerWrite (Reg.pwrLimit + 2) 4 0).wf = false ∧
    (Instr.registerWrite 0 8 0).wf = false ∧ (Instr.registerWrite Reg.pwrLimit 1 256).wf = false ∧
    (Instr.registerWrite Reg.pwrLimit 8 1).wf = true := by decide

theorem test_wf_refuses_port_operands :
    (Instr.cxlLinkUp 48 16 true).wf = false ∧ (Instr.cxlLinkUp 64 2 true).wf = false ∧ (Instr.cxlLinkUp 16 4 true).wf = true ∧
    (Instr.pollTick [(0, .ok [])]).wf = false ∧ (Instr.hostReadCompletion (.goldenLine 0) (.ok [1])).wf = false ∧
    (Instr.cxlMemRead 1).wf = false ∧ (Instr.cxlMemWrite 32 0 0).wf = false ∧ (Instr.barWindowRead 0 0).wf = false ∧
    (Instr.barWindowWrite 5 []).wf = false ∧ (Instr.spdmGetCertificate .doe 0 65536 4).wf = false := by decide

theorem test_wf_refuses_ring_and_period_operands :
    (Instr.commandRingEnable 0 (.ok [0]) (.failed false)).wf = false ∧ (Instr.submit 0 ⟨0, 0, 0, 0, 0, 0⟩ (.ok [0])).wf = false ∧
    (Instr.update 0 ⟨0, 0, 0, 0, 0, 0⟩ (.ok [])).wf = false ∧ (Instr.issue 0 ⟨0, 1, 0, 0, 0, 0⟩ (.ok [])).wf = false ∧
    (Instr.unknownRingCommand 0 6 ⟨0, 0, 0, 0, 0, 0⟩).wf = false ∧ (Instr.periodStart 0 [(3, .ok [])] [] []).wf = false ∧
    (Instr.promoteRanking 0 [(3, .ok [])]).wf = false ∧ (Instr.promoteRanking 0 [(3, .failed false)]).wf = true := by decide

theorem test_wf_refuses_memory_and_power_operands :
    (Instr.marchComplete [4, 4]).wf = false ∧ (Instr.memoryBringUpComplete ⟨List.replicate 7 ⟨[]⟩, []⟩).wf = false ∧
    (Instr.patrolScrubRead .fast 6 0 .clean).wf = false ∧ (Instr.patrolScrubRead .slow 6 0 .clean).wf = true ∧
    (Instr.securityDomainReady [true] []).wf = false ∧ (Instr.inputPowerUp 22).wf = false ∧ (Instr.pwrEnHigh 22).wf = false ∧
    (Instr.selfTestComplete [(0, 1), (0, 1)] []).wf = false ∧ (Instr.goldenLineReadDone 0 (.ok [])).wf = false := by decide

/-- The table gives no row bits. -/
theorem test_decode_none : decodeTableWord 16 3 = none := rfl

/-! ## Values worked out in the manual -/

/-- 04_formats.md: the trits +1, 0, -1, -1, +1 pack into 0xA7. -/
theorem test_t5b_example : t5bByte [1, 0, -1, -1, 1] = 0xA7 := by decide

/-- 04_formats.md: the group +1, 0, -1, -1 has the code 0x63; 0x40 is reserved. -/
theorem test_group_code_example : groupCode 0x63 = some [1, 0, -1, -1] ∧ groupCode 0x40 = none := by decide

/-- 06_sparsity.md: codes 0x0, 0xE, 0x9, 0xF hold +1 at position 0 and -1 at position 10. -/
theorem test_wzr_example : (wzrBlock [0, 14, 9, 15] [] false).toOption.map (fun x => x.1.take 12) =
    some [1, 0, 0, 0, 0, 0, 0, 0, 0, 0, -1, 0] := by decide +kernel

/-- 06_sparsity.md: 0x38A holds +1 at position 2 and -1 at position 6 of a G2/8 group. -/
theorem test_g28_example : (sparseGroup 8 2 (0x38A % 4) [(0x38A / 4 % 8, (0x38A : Nat).testBit 5), (0x38A / 64 % 8, (0x38A : Nat).testBit 9)]).toOption =
    some [0, 0, 1, 0, 0, 0, -1, 0] := by decide

/-- 01_engine_overview.md: the core at die 2, cluster 5, position 17. -/
theorem test_core_example : galleyOf 1201 = 0x0300_12C4_0000 ∧ dieOf 1201 = 2 ∧ clusterOf 1201 = 37 ∧
    Config.coreRegBase + 0x1000 * 1201 = 0x0F10_004B_1000 := by decide

/-- 17_register_index.md: two addresses through BAR0. -/
theorem test_register_addresses : Reg.poolState 130 = 0x0F00_0003_1C10 ∧ Reg.coreFault 1201 = 0x0F10_004B_1028 := by decide

/-- A range of one byte at the end of a page and one of the next are two pieces of 64 KiB pages. -/
theorem test_page_pieces : pagePieces 65535 2 = [(65535, 1), (65536, 1)] := by decide

/-- A byte stored over a poisoned line is not merged; a whole line clears the marker (R183). -/
theorem test_poisoned_line : ((st [.mark 4096 .poisoned]).after (storePlain 4096 [7])).peek 4096 = 0 ∧
    ((st [.mark 4096 .poisoned]).after (storePlain 4096 (List.replicate 64 7))).poisoned 4096 = false := by decide +kernel

/-- Undefined data is covered by what is stored in it. -/
theorem test_undefined_then_stored : ((st [.undef 4096 64]).run [.store 4100 [7]]).peek 4100 = 7 := by decide +kernel

/-- A write of the value that an unlisted address reads as leaves no entry. -/
theorem test_zero_unlisted : (st [.store 5 [1], .store 5 [0]]).mem = [] := by decide +kernel

/-- One command in the queue runs, and an empty queue is a tick. -/
theorem test_step_takes_the_front : (match step { State.reset with pending := [.throtNRise, .release] } with
    | .next t => decide (t.pending = [.release])
    | _ => false) = true ∧ (match step State.reset with | .next t => decide (t.ticks = 1) | _ => false) = true := by decide +kernel

/-! ## Witnesses of the statements -/

theorem test_witness_IdleStepIsAKeepWarmTick : State.reset.pending = [] ∧ State.reset.march = none ∧
    (st [.march (some { dies := 1, preserve := false })]).pending = [] ∧
    (st [.march (some { dies := 1, preserve := false })]).march = some { dies := 1, preserve := false } ∧
    (0 : Nat) + 1 < ({ dies := 1, preserve := false } : March).since + ({ dies := 1, preserve := false } : March).length ∧
    (∀ l, l < 12 → ((st [.march (some { dies := 1, preserve := false })]).link l).held = []) := by decide +kernel

theorem test_witness_TheQueueBelongsToTheSender :
    (ran .hubReady State.reset).pending = [] ∧ exec .hubReady State.reset = .next (ran .hubReady State.reset) := by
  constructor <;> rfl

theorem test_witness_WhatWasSentStaysSent : step State.reset = .next (State.reset.run [.tick]) := rfl

theorem test_witness_EveryStepKeepsTheCanonicalForm :
    State.reset.Canonical ∧ step State.reset = .next (State.reset.run [.tick]) := by
  refine ⟨?_, rfl⟩
  unfold State.Canonical
  decide +kernel

theorem test_witness_PortComesUp :
    (st [.power fun p => { p with hubReady := true }]).power.hubReady = true ∧
    (st [.power fun p => { p with hubReady := true }]).port.perst = true ∧
    State.reset.power.hubReady = false ∧
    (st [.power fun p => { p with hubReady := true }, .port fun p => { p with perst := false }]).port.perst = false ∧
    (st [.power fun p => { p with hubReady := true }, .port fun p => { p with perst := false }]).linkUp = false ∧
    (64 : Nat) ∈ [64, 32, 16] ∧ (4 : Nat) ∈ [16, 8, 4] ∧
    (st [.fld Fld.cxlLinkState 2]).linkUp = true ∧ (st [.fld Fld.cxlLinkState 2]).port.configReady = false ∧
    (st [.fld Fld.cxlLinkState 2, .port fun p => { p with configReady := true }]).linkUp = true ∧
    (st [.fld Fld.cxlLinkState 2, .port fun p => { p with configReady := true }]).port.configReady = true := by decide +kernel

theorem test_witness_LinkDownAndFunctionResets : (st [.fld Fld.cxlLinkState 2]).linkUp = true := by decide +kernel

theorem test_witness_WatchedLinesAndPolling :
    (st [.fld Fld.cxlLinkState 2, .fld Fld.cxlStatusCacheEnabled 1, .fld (Fld.reqCringEnable 63) 1]).hostUp = true ∧
    (st [.fld Fld.cxlLinkState 2, .fld Fld.cxlStatusCacheEnabled 1, .fld (Fld.reqCringEnable 63) 1]).watches (.tail 63) = true ∧
    WatchRead (.tail 63) ∉ State.reset.port.outstanding ∧ WatchRead (.tail 63) ∉ State.reset.port.again ∧
    WatchRead (.tail 63) ∈ (st [.port fun p => { p with outstanding := [.tailLine 63] }]).port.outstanding ∧
    (st [.fld Fld.cxlLinkState 2, .fld Fld.cxlStatusPollMode 1, .fld (Fld.reqCringEnable 0) 1, .fld (Fld.reqCcplEnable 0) 1]).ringLive 0 = true ∧
    (st [.fld Fld.cxlLinkState 2, .fld Fld.cxlStatusPollMode 1, .fld (Fld.reqCringEnable 0) 1, .fld (Fld.reqCcplEnable 0) 1]).ringsOn = [0] ∧
    (st [.fld Fld.cxlLinkState 2, .fld Fld.cxlStatusPollMode 1]).flag Fld.cxlStatusPollMode = true ∧
    ([((0 : RingId), HostResult.ok (leBytes 4 64))].find? fun p => p.1 == 0) = some (0, .ok (leBytes 4 64)) ∧
    countDiff (fieldAt (leBytes 4 64) 0 4) (State.reset.ring 0).taken ≤ State.reset.ringSize 0 ∧
    State.reset.ringSize 0 < countDiff (fieldAt (leBytes 4 65) 0 4) (State.reset.ring 0).taken ∧
    countDiff (64#32).toNat (State.reset.ring 0).taken ≤ State.reset.ringSize 0 ∧
    HostRead.headLine 3 ∈ (st [.port fun p => { p with outstanding := [.headLine 3] }]).port.outstanding ∧
    ((st [.req 3 fun r => { r with state := 3, produced := 16 }]).req 3).state ≠ 0 ∧
    countDiff ((st [.req 3 fun r => { r with state := 3, produced := 16 }]).req 3).produced (0#32).toNat ≤
      ((st [.req 3 fun r => { r with state := 3, produced := 16 }]).req 3).ringSize ∧
    HostRead.moveData ∈ (st [.port fun p => { p with outstanding := [.moveData] }]).port.outstanding ∧
    HostRead.moveData ∉ State.reset.port.again ∧
    HostRead.goldenLine 5 ∈ (st [.port fun p => { p with outstanding := [.goldenLine 5] }]).port.outstanding ∧
    HostRead.commandEntry 0 ∈ (st [.port fun p => { p with outstanding := [.commandEntry 0] }]).port.outstanding ∧
    fieldAt (leBytes 1 6 ++ zeros 63) 0 1 = 6 ∧
    HostRead.moveData ∈ (st [.port fun p => { p with timedOut := [.moveData] }]).port.timedOut ∧
    HostRead.moveData ∉ (st [.port fun p => { p with timedOut := [.moveData] }]).port.outstanding := by decide +kernel

/-- A state with the host-managed region of 4 GiB open. -/
def hdmState : State := st [.fld Fld.memsStatusPresent 1, .fld Fld.memsHdmSizeGib 4, .fld Fld.cxlLinkState 2,
  .port (fun p => { p with configReady := true }), .fld Fld.cxlStatusMemEnabled 1]

theorem test_witness_HostManagedRegion :
    hdmState.ioUp = true ∧ hdmState.fget Fld.memsHdmSizeGib ≠ 0 ∧ (16 : Nat) ∈ [1, 2, 4, 8, 16] ∧
    (16384 : Nat) ∈ [256, 512, 1024, 2048, 4096, 8192, 16384] ∧
    hdmState.hdmAddr (0xFFFFFFC0#38).toNat = some 0x1FFFFFFFFC0 ∧ hdmState.memRefused 0x1FFFFFFFFC0 = false ∧
    hdmState.markAt 0x1FFFFFFFFC0 = .sound ∧ hdmState.badUnit 0x1FFFFFFFFC0 = false ∧ hdmState.unreadable 0x1FFFFFFFFC0 = false ∧
    hdmState.port.filter.length < filterLines ∧ hdmState.mig.inflight = [] ∧ hdmState.links = [] ∧
    (hdmState.run [.mark 0x1FFFFFFFFC0 .poisoned]).hdmAddr (0xFFFFFFC0#38).toNat = some 0x1FFFFFFFFC0 ∧
    (hdmState.run [.mark 0x1FFFFFFFFC0 .poisoned]).unreadable 0x1FFFFFFFFC0 = true ∧
    (hdmState.run [.xlt fun x => { x with retired := [0x1FFFFFF] }]).hdmAddr (0xFFFFFFC0#38).toNat = some 0x1FFFFFFFFC0 ∧
    (hdmState.run [.xlt fun x => { x with retired := [0x1FFFFFF] }]).memRefused 0x1FFFFFFFFC0 = true ∧
    (hdmState.run [.port fun p => { p with heldAccesses := [{ line := 5 }] }]).port.heldAccesses = [{ line := 5 }] ∧
    (hdmState.run [.port fun p => { p with heldAccesses := [{ line := 5, host := some 0 }] }]).hdmAddr 0 = some 0x1FF00000000 ∧
    ([5].filter (· != 5)).length < filterLines ∧ 7 ∈ (hdmState.run [.port fun p => { p with snoopLate := [7] }]).port.snoopLate := by
  decide +kernel

/-- A byte written through CXL.mem reads back (R290). -/
theorem test_hdm_write_reads_back :
    (ran (.cxlMemWrite 0x40 0xAB00#512 0xFFFFFFFFFFFFFFFF) hdmState).peek 0x1FF00000041 = 0xAB ∧
    (ran (.cxlMemWrite 0x40 0xAB00#512 1) hdmState).peek 0x1FF00000041 = 0 := by decide +kernel

theorem test_witness_MemoryWindow :
    hdmState.ioUp = true ∧ hdmState.winAddr 0 % 64 + 64 ≤ 64 ∧ hdmState.winWritable (hdmState.winAddr 0) = true ∧
    hdmState.winLine (hdmState.winAddr 0) = .ok ∧ hdmState.markAt (hdmState.winAddr 0) = .sound ∧
    hdmState.unreadable (hdmState.winAddr 0) = false ∧ hdmState.mig.inflight = [] ∧
    hdmState.badUnit (hdmState.winAddr 0) = false ∧ tabGet (fun _ => 0) hdmState.lineKey (hdmState.winAddr 0 / 64) = 0 ∧
    ((linePieces ((hdmState.run [.fld Fld.cxlWinBase 36]).winAddr 0) 128).all fun p =>
      !(hdmState.run [.fld Fld.cxlWinBase 36]).winWritable p.1) = true := by decide +kernel

/-- Two bytes written at offset 1 of the window stand there, and the bytes beside them are left. -/
theorem test_window_write :
    (ran (.barWindowWrite 1 [0xAA, 0xBB]) hdmState).peekN 0 4 = [0, 0xAA, 0xBB, 0] := by decide +kernel

/-- MSI-X on over an up link. -/
def msixState : State := st [.fld Fld.cxlLinkState 2, .port fun p => { p with configReady := true, msixOn := true, msixTable := [] }]

theorem test_witness_CoalescingAndIde :
    (tabGet (fun _ => {}) (st [.port fun p => { p with coalesce := [(63, ⟨0, true⟩)] }]).port.coalesce 63).held = true ∧
    (tabGet (fun _ => {}) (st [.port fun p => { p with coalesce := [(63, ⟨0, true⟩)] }]).port.coalesce 63).until_ ≤ 0 ∧
    (st [.fld Fld.cxlLinkState 2, .fld Fld.cxlStatusIdeIo 1]).linkUp = true ∧
    (st [.fld Fld.cxlLinkState 2, .fld Fld.cxlStatusIdeIo 1]).flag Fld.cxlStatusIdeIo = true ∧
    (st [.fld Fld.cxlLinkState 2, .fld Fld.cxlStatusIdeCm 1]).flag Fld.cxlStatusIdeCm = true ∧
    (st [.fld Fld.cxlLinkState 2, .sec fun x => { x with sessions := [.doe] }]).linkUp = true ∧
    SpdmPort.doe ∈ (st [.fld Fld.cxlLinkState 2, .sec fun x => { x with sessions := [.doe] }]).sec.sessions ∧
    (ran (.ideIntegrityFailure .io) (msixState.run [.fld Fld.cxlStatusIdeIo 1])).port.msixPending = [11] := by
  decide +kernel

/-- A state whose mailbox is ready. -/
def mbState : State := st [.fld Fld.cxlLinkState 2, .port fun p => { p with configReady := true, mailboxReady := true }]

theorem test_witness_MailboxReplies :
    mbState.ioUp = true ∧ mbState.port.mailboxReady = true ∧ (0x4000#16).toNat = 0x4000 ∧
    (ran (.unsupportedMailboxCommand 0x4000) mbState).outbox = [.mailbox 3 []] ∧
    (ran .getEventInterruptPolicy mbState).outbox = [.mailbox 0 [0, 0, 0, 0]] := by decide +kernel

/-- A state with a MOVE from host memory in the background. -/
def moveState : State := mbState.run [.mailbox fun m => { m with move := some ⟨0x1000, 0x2000, 64, 1⟩ }]

theorem test_witness_MailboxSettings :
    mbState.ioUp = true ∧ mbState.port.mailboxReady = true ∧ mbState.mailbox.move = none ∧
    mbState.moveRange (bitOf 1 0) 0x1000 64 = true ∧ mbState.moveRange (bitOf 1 1) 0x2000 64 = true ∧
    mbState.moveRefused (bitOf 1 0) 0x1000 64 = false ∧ mbState.moveRefused (bitOf 1 1) 0x2000 64 = false ∧
    bitOf 1 0 ≠ bitOf 1 1 ∧ moveState.hostUp = true ∧ moveState.winWritable 0x2000 = true ∧ moveState.mig.inflight = [] ∧
    moveState.mailbox.move = some ⟨0x1000, 0x2000, 64, 1⟩ ∧ bitOf 1 1 = false ∧ bitOf 1 0 = true ∧
    (ran (.moveComplete (.ok (List.replicate 64 7))) moveState).peek 0x203F = 7 ∧
    (ran (.move 0x1000 0x2000 64 1) mbState).outbox = [.mailbox 1 [], .hostRead .moveData 0x1000 64] := by decide +kernel

theorem test_witness_ReleaseUnbinds :
    (mbState.run [.fld Fld.cxlStatusBound 1, .fld Fld.cxlStatusHsMajor 3, .fld Fld.reqCtrlEnable 1]).ioUp = true ∧
    (mbState.run [.fld Fld.cxlStatusBound 1, .fld Fld.cxlStatusHsMajor 3, .fld Fld.reqCtrlEnable 1]).port.mailboxReady = true ∧
    (mbState.run [.fld Fld.cxlStatusBound 1, .fld Fld.cxlStatusHsMajor 3, .fld Fld.reqCtrlEnable 1]).flag Fld.cxlStatusBound = true ∧
    (mbState.run [.fld Fld.cxlStatusBound 1, .fld Fld.cxlStatusHsMajor 3, .fld Fld.reqCtrlEnable 1]).fget Fld.cxlStatusHsMajor = 3 ∧
    (mbState.run [.fld Fld.cxlStatusBound 1, .fld Fld.cxlStatusHsMajor 3, .fld Fld.reqCtrlEnable 1]).fget Fld.reqCtrlEnable ≠ 0 ∧
    (mbState.run [.fld (Fld.impCtxStateOf 15) 3]).ctxState 15 ≠ 0 ∧ mbState.flag Fld.cxlStatusBound = false ∧ mbState.linkUp = true ∧
    (ran .release (mbState.run [.fld Fld.cxlStatusBound 1, .fld Fld.cxlStatusHsMajor 3])).fget Fld.cxlStatusBound = 0 := by
  decide +kernel

theorem test_witness_HandshakeBinds :
    offered 2 0 3 0 = some 3 ∧ offered 3 0 3 255 = some 3 ∧ offered 2 0 2 9 = some 2 ∧ offered 3 1 9 0 = none ∧
    mbState.quiet = true ∧ mbState.flag Fld.cxlStatusBound = false ∧
    (mbState.run [.fld Fld.reqCtrlEnable 1]).quiet = false ∧ (mbState.run [.fld Fld.reqCtrlEnable 1]).ioUp = true ∧
    (ran (.handshake 2 0 3 0) mbState).outbox = [.mailbox 0 [3, 0, 0, 0]] := by decide +kernel

/-- A state whose function is bound at version 3.0. -/
def boundState : State := mbState.run [.fld Fld.cxlStatusBound 1, .fld Fld.cxlStatusHsMajor 3]

theorem test_witness_RegisterWrites :
    regWriteOf 4 8 0 = none ∧ regRow 0xF0000120000 = none ∧ mbState.bound = false ∧
    ¬(Reg.cxlCap ≤ Reg.pwrLimit / 8 * 8 ∧ Reg.pwrLimit / 8 * 8 < Reg.hlCap) ∧ boundState.bound = true ∧
    boundState.port.ioInsecure = false ∧ regWriteOf Reg.secSlice 8 5 = some ⟨0, 64, 5⟩ ∧ Reg.secSlice < Config.bar2 ∧
    (regRow (Reg.secSlice / 8 * 8)).isSome = true ∧ boundState.writeActs (Reg.secSlice / 8 * 8) = true ∧
    (boundState.ringReg (Reg.secSlice / 8 * 8)).isNone = true ∧ (logPop (Reg.secSlice / 8 * 8)).isNone = true ∧
    Reg.reqCring 64 ≤ Reg.secSlice / 8 * 8 ∧ (memAction (Reg.secSlice / 8 * 8) ⟨0, 1, 8, 0, []⟩ ⟨0, 64, 5⟩).isNone = true ∧
    (hubAction (Reg.secSlice / 8 * 8) ⟨0, 1, 8, 0, []⟩ ⟨0, 64, 5⟩).isNone = true ∧
    (ran (.registerWrite Reg.pwrLimit 8 0x640064000000#64) boundState).fget Fld.pwrLimitTdpW = 1600 ∧
    (ran (.registerWrite Reg.cxlRingErr 8 1) (boundState.run [.reg Reg.cxlRingErr 7])).rd Reg.cxlRingErr = 6 := by
  decide +kernel

theorem test_witness_RegisterWritesThatAct : boundState.bound3 = true ∧ boundState.bound = true ∧
    bitsOf (0x105#64).toNat 0 4 ∉ [1, 2, 3, 4] ∧ boundState.fget Fld.impStatusBusy = 0 ∧
    (boundState.run [.fld Fld.impStatusBusy 1]).fget Fld.impStatusBusy = 1 ∧
    (boundState.run [.fld Fld.impStatusBusy 1]).bound3 = true := by decide +kernel

theorem test_witness_RequestTableAndRings :
    boundState.bound3 = true ∧ boundState.flag Fld.reqCtrlEnable = false ∧
    (st [.fld Fld.reqCtrlEnable 1]).flag Fld.reqCtrlEnable = true ∧ (st [.fld Fld.reqCtrlEnable 1]).xlt.retired = [] ∧
    (st [.fld Fld.reqCtrlEnable 1]).flag Fld.reqStatusReady = false ∧ boundState.ringBusy 63 = false ∧
    boundState.flag (Fld.reqCringEnable 63) = false ∧ boundState.hostUp = true ∧
    (boundState.run [.fld (Fld.reqCcplEnable 63) 1]).flag (Fld.reqCcplEnable 63) = true ∧
    fieldAt (leBytes 4 64) 0 4 ≤ boundState.ringSize 63 ∧
    (boundState.run [.fld (Fld.reqCringEnable 63) 1]).flag (Fld.reqCringEnable 63) = true ∧
    (ran (.commandRingEnable 63 (.failed false) (.ok [9, 0, 0, 0])) boundState).ring 63 = { head := 9, tailFailed := true } := by decide +kernel

/-- A ring command with a slot, a tag and an address. -/
def rc (slot tag addr : Nat) : RingCmd := ⟨0, BitVec.ofNat 32 slot, BitVec.ofNat 32 tag, 0, BitVec.ofNat 64 addr, 0⟩

/-- A state with a command waiting in ring 0, whose context 0 is RESIDENT with a serving period. -/
def ringState : State := boundState.run [.fld (Fld.reqCringEnable 0) 1, .fld (Fld.reqCcplEnable 0) 1,
  .ring 0 (fun x => { x with tail := 1 }), .fld (Fld.impCtxStateOf 0) 2, .fld Fld.reqStatusReady 1,
  .ctx 0 fun x => { x with image := some { period := some ⟨1000, 500, 64, 64⟩ } }]

theorem test_witness_RingCommandsAreTaken :
    ringState.canTake 0 = true ∧ ringState.port.filter = [] ∧
    ringState.ringStatus 0 .cancel (rc 5 9 0) (.ok []) = Cpl.notOwned ∧
    ringState.ringStatus 0 .submit (rc 5 9 0) (.ok (zeros 128)) = Cpl.badParams ∧
    ringState.ringStatus 0 .nop (rc 5 9 0) (.ok []) = 0 ∧ RingOp.ofCode (7#8).toNat = none ∧
    (ran (.cancel 0 (rc 5 9 0)) ringState).outbox.take 3 =
      [.hostWrite 4 [1, 0, 0, 0], .hostWrite 64 [9, 0, 0, 0, 5, 0, 0, 0, 2, 4, 0, 0, 0, 0, 0, 0], .hostWrite 8 [1, 0, 0, 0]] := by
  decide +kernel

/-- A valid parameter block: one prompt token, 50 new tokens, greedy. -/
def blockBytes : Bytes := zeros 8 ++ leBytes 8 0x3000 ++ leBytes 4 1 ++ leBytes 4 50 ++ leBytes 4 1000 ++ zeros 4 ++
  leBytes 8 0x4000 ++ zeros 8 ++ leBytes 4 0x3F800000 ++ zeros 76

/-- A request slot in use by context 0. -/
def reqState (state : Nat) : State := ringState.run [.req 5 fun _ => { state := state, params := blockBytes }]

theorem test_witness_RingCommandsTakeEffect :
    (ringState.run [.req 5 fun _ => {}]).canTake 0 = true ∧
    ringState.ringStatus 0 .submit (rc 5 9 0x2000) (.ok blockBytes) = 0 ∧
    (reqState 1).canTake 0 = true ∧ (reqState 1).ringStatus 0 .cancel (rc 5 9 0) (.ok []) = 0 ∧
    (reqState 2).ringStatus 0 .cancel (rc 5 9 0) (.ok []) = 0 ∧ (reqState 4).ringStatus 0 .cancel (rc 5 9 0) (.ok []) = 0 ∧
    (reqState 1).ringStatus 0 .update (rc 5 9 0x2000) (.ok blockBytes) = 0 ∧
    (reqState 2).ringStatus 0 .update (rc 5 9 0x2000) (.ok blockBytes) = 0 ∧
    (reqState 1).ringStatus 0 .setTree (rc 5 9 0) (.ok []) = 0 ∧
    ringState.ringStatus 0 .issue (rc 4096 9 0) (.ok (zeros 64)) = 0 ∧ ringState.ringStatus 0 .nop (rc 0 9 0) (.ok []) = 0 ∧
    ((ran (.cancel 0 (rc 5 9 0)) (reqState 1)).req 5).endStatus = End.cancelled ∧
    ((ran (.cancel 0 (rc 5 9 0)) (reqState 2)).req 5).cancelPending = true := by decide +kernel

/-- A command entry of a kind. -/
def entryBytes (kind : Nat) : Bytes := [1] ++ zeros 63 ++ leBytes 1 kind ++ [3] ++ zeros 62

/-- A running period of context 0 with one column, at the first of two program entries of a kind. -/
def periodState (kind : Nat) : State := ringState.run (mapped 0 ++ [.period 0 fun p => { p with
  running := true, columns := [some ⟨5, 0, 1, none, true, false, false⟩], steps := [{ slot := 5, prefill := false, first := 0, count := 1 }]
  decodeGroups := 1, progEntries := 2, budget := 64, vocab := 64, due := [⟨0, 0, 0, sampleInfo (zeros 128)⟩] },
  .req 5 fun _ => { state := 2, params := blockBytes }, .fld (Fld.reqPeriodNowTag 0) 1,
  .fld (Fld.reqProgVa 0) (0x20000 / 128), .store 0x20000 (entryBytes kind ++ entryBytes 2), .fld Fld.smpCtrlEnable 3,
  .sampler fun m => { m with unit1 := some ⟨0, 1, 0, 0, sampleInfo (zeros 128)⟩, queue := [⟨0, 1, 0, 0, sampleInfo (zeros 128)⟩] }])

/-- The same state at the last entry of the program. -/
def lastEntry (kind : Nat) : State := (periodState kind).run [.period 0 fun p => { p with progEntries := 1 }]

theorem test_witness_ProgramEntries :
    ((periodState 1).progEntry 0).toOption = some (entryBytes 1) ∧ entryOk (entryBytes 1) ((periodState 1).applies 0 (entryBytes 1)) = true ∧
    fieldAt (entryBytes 1) 0x40 1 = Prog.once ∧ (periodState 1).marks = [] ∧ (periodState 1).port.filter = [] ∧
    ((periodState 2).progEntry 0).toOption = some (entryBytes 2) ∧ entryOk (entryBytes 2) ((periodState 2).applies 0 (entryBytes 2)) = true ∧
    fieldAt (entryBytes 2) 0x40 1 = Prog.group ∧ (periodState 1).dueGroup 0 0 = some ⟨0, 0, 0, sampleInfo (zeros 128)⟩ ∧
    ((periodState 1).period 0).running = true ∧ ((periodState 1).period 0).columns ≠ [] ∧
    ((periodState 1).period 0).progIdx < ((periodState 1).period 0).progEntries ∧
    ((lastEntry 1).period 0).progIdx + 1 = ((lastEntry 1).period 0).progEntries ∧
    (((lastEntry 1).period 0).steps.all fun x => !x.prefill) = true ∧
    (ran (.onceEntry 0) (periodState 1)).hub.queue.map (fun q => fieldAt q.bytes 0x0C 2) = [1] ∧
    ((ran (.onceEntry 0) (periodState 1)).period 0).progIdx = 1 ∧
    ((ran (.sampleEntry 0 0) (periodState 1)).sampler.queue.length) = 2 := by decide +kernel

/-- The state of a period whose unit 1 holds a job of the one column, with a candidate for token 3 and for token 7. -/
def sampleState (cands : Bytes) : State := (periodState 1).run [.store 0x20000 cands,
  .sampler fun m => { m with unit1 := some ⟨0, 1, 0, 0, { sampleInfo (zeros 128) with candCount := 2, candVa := 0x20000 }⟩ }]

/-- Two candidates: token 3 with value 1.0, token 7 with value 2.0. -/
def twoCands : Bytes := leBytes 4 0x3F800000 ++ leBytes 4 3 ++ leBytes 4 0x40000000 ++ leBytes 4 7

theorem test_witness_SamplingJobs :
    (periodState 1).sampler.unit 0 = none ∧ (periodState 1).sampler.unit 1 ≠ none ∧
    (periodState 1).flag (Fld.smpCtrlEnable.item 0) = true ∧ (periodState 1).flag (Fld.smpStatusFailed.item 0) = false ∧
    (ran (.samplingJobStart 0) (periodState 1)).sampler.queue = [] ∧
    (sampleState twoCands).stepOpen { slot := 5, prefill := false, first := 0, count := 1 } = true ∧
    (sampleState twoCands).hostUp = true ∧ (sampleState twoCands).marks = [] ∧ (sampleState twoCands).port.filter = [] ∧
    ((sampleState twoCands).columnCands 0 ((sampleState twoCands).req 5)
      { sampleInfo (zeros 128) with candCount := 2, candVa := 0x20000 } 0).toOption =
        some [⟨0x40000000#32, 7⟩, ⟨0x3F800000#32, 3⟩] ∧
    ((sampleState twoCands).req 5).cancelPending = false ∧ (sampleState twoCands).sampledOf 0 { slot := 5, prefill := false, first := 0, count := 1 } = [0] ∧
    endAfter ((sampleState twoCands).req 5) 7 1 1 = 0 ∧
    ((ran (.samplingJobComplete 1) (sampleState twoCands)).req 5).state = Rq.ready ∧
    ((ran (.samplingJobComplete 1) (sampleState (leBytes 4 0 ++ leBytes 4 64 ++ leBytes 4 0x7F800000 ++ leBytes 4 1))).req 5).endStatus =
      End.noToken := by decide +kernel

/-- The request of slot 5, its pour ring full: it has no credit. -/
def fullState : State := (reqState 4).run [.req 5 fun r => { r with produced := 16 }, .fld (Fld.impCtxStateOf 0) 4]

theorem test_witness_PeriodEnds :
    ((periodState 1).period 0).running = true ∧ (periodState 1).sliceLate = false ∧
    ((ran (.periodEnd 0) (periodState 1)).period 0).dropPending = true ∧
    (reqState 4).hostUp = true ∧ ((reqState 4).req 5).state = Rq.ending ∧ ((reqState 4).req 5).credits ≠ 0 ∧
    ((fullState.run [.fld (Fld.impCtxStateOf 0) 4]).req 5).credits = 0 ∧ fullState.ctxState 0 = 4 ∧
    (fullState.fget Fld.reqTableBase + 1) * 2 ^ 26 ≤ Config.fastEnd ∧
    (fullState.run [.fld Fld.fltStatusBasic 1, .flt fun f => { f with basicTick := some 0 }]).basic = true ∧
    ((ran .basicEndRecordTimeout (fullState.run [.fld Fld.fltStatusBasic 1, .flt fun f => { f with basicTick := some 0 }])).req 5).state = 0 ∧
    ((ran (.unloadEndRecordTimeout 0) fullState).req 5).state = 0 ∧
    (ran (.endRecordWrite 5) (reqState 4)).outbox.length = 1 ∧
    (ran (.periodEnd 0) (periodState 1)).fget (Fld.reqPeriodNowTag 0) = 2 := by decide +kernel

theorem test_fullState_canonical : fullState.Canonical := by
  unfold State.Canonical
  decide +kernel

/-- A state in which a period of context 0 may start. -/
def readyState : State := ringState.run (mapped 0 ++ [.fld (Fld.impCtxStateOf 0) 3, .fld Fld.reqStatusReady 1,
  .ctx 0 (fun x => { x with image := some { clusterMap := 1, period := some ⟨1000, 500, 64, 64⟩ } }),
  .cluster 0 (fun x => { x with ctx := some 0, taken := true }), .fld (Fld.reqCtxBudget 0) 64, .fld (Fld.reqBatchVa 0) 0x10000,
  .issues (fun _ => [⟨0, 3, 7, 9, 0, 0, 2, 0⟩]), .ring 0 fun x => { x with waiting := [(4, 7, 9)] }])

/-- The same with a READY decode request in slot 5, with a promotion. -/
def decodeState (promotes : List PromoteState) : State := readyState.run [.req 5 fun _ =>
  { state := 1, promptDone := 1, lastToken := 7, params := putAt (putAt blockBytes 0x44 [promotes.length]) 0x50 (leBytes 8 0x30000), promotes := promotes }, .store 0x30000 (leBytes 8 0x123)]

theorem test_batch_area_writable :
    (readyState.checkVa (engineAgent 0) (readyState.batchVaOf 0 1 64) 64).isNone = true ∧
    (((decodeState []).after (runRequest { slot := 5, prefill := false, first := 0, count := 1 })).checkVa (engineAgent 0)
      ((decodeState []).batchVaOf 0 1 64) 1088).isNone = true := by
  unfold State.batchVaOf
  rcases Nat.mod_two_eq_zero_or_one (1 + Config.batchPhase) with h | h <;> rw [h] <;> decide +kernel

theorem test_witness_PeriodStartAndCompletions :
    readyState.canStart 0 = true ∧ readyState.port.filter = [] ∧ readyState.marks = [] ∧ readyState.ranked 0 = [] ∧
    (decodeState []).canStart 0 = true ∧ (decodeState []).ranked 0 = [(5, (decodeState []).req 5)] ∧
    ((decodeState []).req 5).promoted = true ∧ (decodeState []).compacting 5 = false ∧
    ((decodeState []).req 5).promptDone = ((decodeState []).req 5).promptLen ∧ 1 ≤ ((decodeState []).req 5).credits ∧
    (decodeState []).mig.inflight = [] ∧
    (decodeState []).fget (Fld.reqCtxProgEntries 0) = 0 ∧
    (decodeState [.idle]).ranked 0 = [(5, (decodeState [.idle]).req 5)] ∧ ((decodeState [.idle]).req 5).pf 0x64 1 = 1 ∧
    ((decodeState [.idle]).promoteList ((decodeState [.idle]).req 5)).toOption = some (leBytes 8 0x123) ∧
    (ran (.promoteRanking 0 []) (decodeState [.idle])).mig.internal = [(0, 5, 0x123, 0)] ∧
    readyState.issues.find? (fun x => x.ring == 0 && x.index == 3) = some ⟨0, 3, 7, 9, 0, 0, 2, 0⟩ ∧
    (readyState.ring 0).waiting.find? (·.1 == 4) = some (4, 7, 9) ∧ readyState.ringDeferred 0 4 = false ∧
    (ran (.issueComplete 0 3) readyState).outbox.head? =
      some (.hostWrite 64 [9, 0, 0, 0, 7, 0, 0, 0, 5, 9, 2, 0, 3, 0, 0, 0]) := by decide +kernel

/-- A tile command of context 0 for group 0, from an ISSUE of ring 0. -/
def cmdOf (id : Nat) (bytes : Bytes) (run : RunState := .waiting) : QCmd := { id := id, ctx := 0, bytes := bytes, origin := .issue 0 0, run := run }

/-- Context 0 taken on cluster 0 with group 0 of 32 cores, and commands at the hub, in the cluster queue and on core 0. -/
def tileState (hub cl core : List QCmd) : State := boundState.run (mapped 0 ++ [.fld (Fld.impCtxStateOf 0) 3, .fld Fld.memfStatusReady 1,
  .fld (Fld.pwrClusterTarget 0) 0, .fld (Fld.pwrClusterCurrent 0) 0, .fld (Fld.coreStatePower 0) 0,
  .ctx 0 (fun x => { x with image := some { clusterMap := 1, groups := [⟨0, 0, 32, 1, 0⟩] } }),
  .cluster 0 (fun x => { x with ctx := some 0, taken := true, queue := cl }), .core 0 (fun x => { x with queue := core }),
  .hub fun h => { h with queue := hub }])

/-- A DMA fill of 64 bytes with the pattern 1 to 8 at virtual address 0x30000, of context 0 and group 0. -/
def fillBytes : Bytes := [0x0D, 1, 0, 0, 0, 0] ++ zeros 2 ++ leBytes 4 64 ++ zeros 12 ++ leBytes 8 0x30000 ++ [1, 2, 3, 4, 5, 6, 7, 8] ++
  zeros 22 ++ leBytes 2 64

theorem test_witness_HubQueue :
    (tileState [cmdOf 1 fillBytes] [] []).hubHead 0 0 = some (cmdOf 1 fillBytes) ∧
    (tileState [cmdOf 1 fillBytes] [] []).groupWith 0 0 ≠ none ∧ (cmdOf 1 fillBytes).opcode ≠ opFence ∧
    ((tileState [cmdOf 1 fillBytes] [] []).servedBy 0 0).bind ((tileState [cmdOf 1 fillBytes] [] []).bestTarget 0) = some 0 ∧
    ((ran (.hubDispatch 0 0) (tileState [cmdOf 1 fillBytes] [] [])).cluster 0).queue = [cmdOf 1 fillBytes] ∧
    (tileState [cmdOf 1 ([0x0E] ++ zeros 63)] [] []).hubHead 0 0 = some (cmdOf 1 ([0x0E] ++ zeros 63)) ∧
    fenceFieldsOk ([0x0E] ++ zeros 63) = true ∧
    (ran (.groupFence 0 0) (tileState [cmdOf 1 ([0x0E] ++ zeros 63)] [] [])).hub.queue.map (·.run) = [.done] ∧
    (ran (.fenceRelease 0 0) (tileState [cmdOf 1 ([0x0E] ++ zeros 63) .done] [] [])).hub.queue = [] := by decide +kernel

theorem test_witness_CoreQueues :
    (tileState [] [cmdOf 1 fillBytes] []).coreTakes 0 = true ∧
    (tileState [] [cmdOf 1 fillBytes] []).entryFor 0 (clusterOf 0) = some (cmdOf 1 fillBytes) ∧
    ((ran (.coreTakeCommand 0) (tileState [] [cmdOf 1 fillBytes] [])).core 0).queue = [cmdOf 1 fillBytes] ∧
    (tileState [] [] [cmdOf 1 fillBytes .done]).finished 0 = some (cmdOf 1 fillBytes .done) ∧
    (ran (.tileCommandComplete 0) (tileState [] [] [cmdOf 1 fillBytes .done])).fget (Fld.coreCntTilesCompleted 0) = 1 ∧
    (tileState [] [] [cmdOf 1 fillBytes (.faulted 2 0 false 0 0)]).faultedCmd 0 = some (cmdOf 1 fillBytes (.faulted 2 0 false 0 0), 2, 0, false, 0, 0) ∧
    (ran (.commandFault 0) (tileState [] [] [cmdOf 1 fillBytes (.faulted 2 0 false 0 0)])).fget (Fld.coreFaultCause 0) = 2 ∧
    (tileState [] [] [cmdOf 1 ([0x10] ++ zeros 63)]).nextRun 0 = some (cmdOf 1 ([0x10] ++ zeros 63)) ∧
    (tileState [] [] [cmdOf 1 (zeros 64) .triggered]).triggered 0 = some (cmdOf 1 (zeros 64) .triggered) ∧
    widerFmt 2 = some 1 ∧ widerFmt 3 = none ∧ (tileState [] [] []).bound = true := by decide +kernel

/-- Cluster 1 runs context 0 too, and its core 32 holds nothing. -/
def stealState : State := (tileState [] [cmdOf 1 fillBytes] []).run [.fld (Fld.pwrClusterTarget 1) 0, .fld (Fld.pwrClusterCurrent 1) 0,
  .fld (Fld.coreStatePower 32) 0, .ctx 0 (fun x => { x with image := some { clusterMap := 3, groups := [⟨0, 0, 64, 1, 0⟩] } }),
  .cluster 1 fun x => { x with ctx := some 0, taken := true }]

theorem mem_insertBy {α : Type} (lt : α → α → Bool) (x y : α) : ∀ l : List α, y ∈ insertBy lt x l ↔ y = x ∨ y ∈ l
  | [] => by simp [insertBy]
  | z :: t => by
    simp only [insertBy]
    split
    · simp
    · simp [mem_insertBy lt x y t, or_left_comm]

theorem mem_sortBy {α : Type} (lt : α → α → Bool) (y : α) (xs : List α) : y ∈ sortBy lt xs ↔ y ∈ xs := by
  have h : ∀ (xs acc : List α), y ∈ xs.foldl (fun acc x => insertBy lt x acc) acc ↔ y ∈ xs ∨ y ∈ acc := by
    intro xs
    induction xs with
    | nil => intro acc; simp
    | cons a t ih => intro acc; rw [List.foldl_cons, ih, mem_insertBy]; simp only [List.mem_cons]; grind
  simpa [sortBy] using h xs []

theorem stealFrom_some (s : State) (n k : Nat) (q : QCmd) (h : s.entryFor n k = some q) :
    ∀ l : List Nat, k ∈ l → ∃ j x, s.stealFrom n l = some (j, x)
  | [], m => by cases m
  | a :: t, m => by
    rw [State.stealFrom]
    split
    · exact ⟨_, _, rfl⟩
    · rename_i e
      rcases List.mem_cons.mp m with rfl | m
      · rw [h] at e; cases e
      · exact stealFrom_some s n k q h t m

/-- Core 32 of cluster 1 may steal what waits in cluster 0 of its die, whatever the mesh distances are (R72). -/
theorem test_witness_CoreQueues_steal :
    (stealState.cluster (clusterOf 32)).ctx.bind (stealState.groupOfCore · 32) = some ⟨0, 0, 64, 1, 0⟩ ∧
    stealState.coreTakes 32 = true ∧ (stealState.core 32).queue = [] ∧ stealState.entryFor 32 (clusterOf 32) = none ∧
    ∃ k q, stealState.stealFrom 32 (stealPlaces 32 1) = some (k, q) := by
  refine ⟨by decide +kernel, by decide +kernel, by decide +kernel, by decide +kernel, ?_⟩
  refine stealFrom_some stealState 32 0 (cmdOf 1 fillBytes) (by decide +kernel) _ ?_
  simp only [stealPlaces, List.mem_append]
  left
  rw [if_pos (by decide), mem_sortBy]
  decide

/-- Core 0 waits for the block at virtual address 0x5000, which a buffer of cluster 0 holds. -/
def expState : State := (tileState [] [] [cmdOf 1 fillBytes]).run [.cluster 0 fun x => { x with
  expReqs := [{ core := 0, cmd := 1, va := 0x5000, ctx := 0, tag := 0 }], expBufs := [⟨0, 0x5000, [1, 2]⟩] }]

theorem test_witness_Expander :
    (tileState [] [] []).expFirst 0 = none ∧ expState.expFirst 0 = some { core := 0, cmd := 1, va := 0x5000, ctx := 0, tag := 0 } ∧
    (expState.cluster 0).expBufs.find? (fun b => b.ctx == 0 && b.va == 0x5000) = some ⟨0, 0x5000, [1, 2]⟩ ∧
    ((expState.core 0).queue.any fun q => q.wantsBlock { core := 0, cmd := 1, va := 0x5000, ctx := 0, tag := 0 } && q.ctx == 0) = true ∧
    ((ran (.expanderBlockDecoded 0) expState).cluster 0).expReqs = [] ∧
    (expState.run [.fld (Fld.clkDomState 14) 2]).fget (Fld.clkDomState 14) = 2 := by decide +kernel

/-- Core 0 waits for the block at 0x5000 of a view whose one segment, at 0x61000, holds a raw block. -/
def viewState (kind : Nat) : State := (tileState [] [] [cmdOf 1 fillBytes]).run [.cluster 0 fun x => { x with
  expReqs := [{ core := 0, cmd := 1, va := 0x5000, ctx := 0, tag := 0 }] }, .fld (Fld.clkDomState 14) 2,
  .fld (Fld.cmpRgnBase 0) (0x70000 / 64), .fld (Fld.cmpRgnCount 0) 1,
  .store 0x70000 (leBytes 8 0x5000 ++ leBytes 8 0x1000 ++ leBytes 8 0x60000 ++ [BitVec.ofNat 8 kind, 12]), .store 0x60000 (leBytes 8 0x61000),
  .store 0x61000 (leBytes 2 0x4753 ++ [1, 0] ++ leBytes 2 1 ++ zeros 2 ++ leBytes 4 4192 ++ zeros 52 ++ leBytes 4 80 ++ zeros 12 ++ [1])]

theorem test_witness_Expander_view :
    (viewState 0).expFirst 0 = some { core := 0, cmd := 1, va := 0x5000, ctx := 0, tag := 0 } ∧ (viewState 0).marks = [] ∧
    (viewState 0).port.filter = [] ∧ (viewState 0).fget (Fld.clkDomState 14) = 2 ∧ ((viewState 0).cluster 0).expBufs = [] ∧
    (match (viewState 0).viewAt 0 0 0x5000 with
      | some (_, e) => (match (viewState 0).viewBlock 0 { code := 0, ctx := 0, core := 0, tag := 0, onDie := true, tlb := true } (viewOf e) 0x5000 with
        | .ok b => b.length == 4096
        | .error _ => false)
      | none => false) = true ∧
    (match (viewState 4).viewAt 0 0 0x5000 with
      | some (_, e) => (match (viewState 4).viewBlock 0 { code := 0, ctx := 0, core := 0, tag := 0, onDie := true, tlb := true } (viewOf e) 0x5000 with
        | .error (.format d) => d == Dec.kind
        | _ => false)
      | none => false) = true := by decide +kernel

theorem test_witness_TileCommandsFinish :
    (tileState [] [] [cmdOf 1 fillBytes]).tiersUp = true ∧
    (tileState [] [] [cmdOf 1 fillBytes]).nextOf 0 0x0D = some (cmdOf 1 fillBytes) ∧
    dmaCodesOk fillBytes = true ∧ dmaShapeOk fillBytes = true ∧ fieldAt fillBytes 1 1 = 1 ∧
    ((tileState [] [] [cmdOf 1 fillBytes]).readyRun 0).windowAt (tileAgent 0 (cmdOf 1 fillBytes)) 0x30000 64 = none ∧
    (((tileState [] [] [cmdOf 1 fillBytes]).readyRun 0).viewMet 0 0 0x30000 64).isNone = true ∧
    ((tileState [] [] [cmdOf 1 fillBytes]).readyRun 0).checkVa (tileAgent 0 (cmdOf 1 fillBytes)) 0x30000 64 = none ∧
    ((tileState [] [] []).port.filter = []) ∧ (tileState [] [] []).mig.inflight = [] ∧
    (tileState [] [] []).inTier 0x30000 = true ∧ (tileState [] [] []).xlt.retired = [] ∧
    pagePieces 0x30000 64 = [(0x30000, 64)] ∧
    (match ((dmaRun 0 (cmdOf 1 fillBytes) ((tileState [] [] [cmdOf 1 fillBytes]).readyRun 0)).run.run (unitsOf {} (cmdOf 1 fillBytes))).1 with
      | .ok () => true
      | _ => false) = true := by decide +kernel

/-- The fill stands in memory, and the command has finished (R164). -/
theorem test_dma_fill : (ran (.dma 0) (tileState [] [] [cmdOf 1 fillBytes])).peekN 0x30000 10 = [1, 2, 3, 4, 5, 6, 7, 8, 1, 2] ∧
    ((ran (.dma 0) (tileState [] [] [cmdOf 1 fillBytes])).core 0).queue.map (·.run) = [.done] := by decide +kernel

/-- VEC ADD of the FP32 values 1 and −2 at 0x40000 with themselves gives 2 and −4 at 0x50000 (Table 3.3). -/
theorem test_vec_add :
    (ran (.vec 0) ((tileState [] [] [cmdOf 1 ([8, 1] ++ zeros 6 ++ leBytes 4 2 ++ zeros 4 ++ leBytes 8 0x40000 ++ leBytes 8 0x40000 ++
      zeros 8 ++ leBytes 8 0x50000 ++ zeros 12 ++ zeros 2 ++ leBytes 2 64)]).run
        [.store 0x40000 (leBytes 4 0x3F800000 ++ leBytes 4 0xC0000000)])).peekN 0x50000 8 =
      leBytes 4 0x40000000 ++ leBytes 4 0xC0800000 := by decide +kernel

theorem test_witness_TileCommandsRefuseBadFields :
    (tileState [] [] [cmdOf 1 ([1] ++ List.replicate 63 0xFF)]).nextOf 0 1 = some (cmdOf 1 ([1] ++ List.replicate 63 0xFF)) ∧
    taaCodesOk ([1] ++ List.replicate 63 0xFF) = false ∧ dmaCodesOk ([0x0D] ++ List.replicate 63 0xFF) = false ∧
    attnCodesOk ([0x0B] ++ List.replicate 63 0xFF) = false ∧
    (tileState [] [] [cmdOf 1 ([0x0D] ++ zeros 63)]).nextOf 0 0x0D = some (cmdOf 1 ([0x0D] ++ zeros 63)) ∧
    dmaCodesOk ([0x0D] ++ zeros 63) = true ∧ dmaShapeOk ([0x0D] ++ zeros 63) = false := by decide +kernel

/-- A bound state with an image staged at 0x1000 and a slot in a state. -/
def loadState (slot : Nat) : State := boundState.run [.fld Fld.impSrcAddr 0x1000, .fld Fld.impLenLength 256, .fld (Fld.impCtxStateOf 7) slot]

theorem test_witness_LoaderOperations :
    ((loadState 0).run [.fld Fld.impStatusBusy 1]).flag Fld.impStatusBusy = true ∧ (loadState 0).bound3 = true ∧
    opAccepts 1 ((loadState 2).ctxState 7) = false ∧ opAccepts 2 ((loadState 0).ctxState 7) = false ∧
    opAccepts 3 ((loadState 0).ctxState 7) = false ∧ (loadState 0).loader.pending = none ∧ (loadState 0).basic = false ∧
    (loadState 0).ctxState 7 = 0 ∧ (loadState 0).stagedOk = true ∧ (loadState 3).ctxState 7 = 3 ∧ (loadState 6).ctxState 7 = 6 ∧
    (loadState 2).ctxState 7 = 2 ∧ ((loadState 2).period 7).running = false ∧ (loadState 2).liveCmds = [] ∧
    (loadState 2).slotsOf 7 = [] ∧ (loadState 2).sec.imports = [] ∧ (loadState 2).sliceLate = false ∧ (ran (.load 7) (loadState 0)).ctxState 7 = 1 ∧
    (ran (.load 7) ((loadState 2).run [.port fun p => { p with msixOn := true, msixTable := [(3, { masked := false })] }])).outbox = [.msix 3] ∧ (ran (.unload 7) (loadState 2)).ctxState 7 = 4 := by decide +kernel

/-- The loader at a phase, with an operation on slot 7. -/
def phaseState (p : LoaderPhase) (op : Nat) : State := (loadState 1).run [.fld Fld.impStatusBusy 1,
  .loader fun x => { x with phase := p, op := op, ctx := 7, src := 0x1000, len := 256 }]

theorem test_witness_LoaderCompletion :
    (phaseState .copying 1).loader.phase = .copying ∧
    (linePieces 0x1000 256).find? (fun p => !(((phaseState .copying 1).run [.mark 0x1080 .poisoned]).stagedLine p.1)) = some (0x1080, 64) ∧
    ((linePieces 0x1000 256).all fun p => (phaseState .copying 1).stagedLine p.1) = true ∧
    (ran .imageCopyComplete (phaseState .copying 1)).loader.phase = .validating ∧ (phaseState .copying 1).marks = [] ∧
    (phaseState .copying 1).port.filter = [] ∧
    (ran .imageCopyComplete ((phaseState .copying 1).run [.mark 0x1080 .poisoned])).fget Fld.impStatusFailOffset = 0x80 ∧
    (ran .imageCopyComplete ((phaseState .copying 1).run [.mark 0x1080 .poisoned])).ctxState 7 = 0 ∧
    (match checkImage (phaseState .validating 1) 7 256 false (zeros 256) with | .error _ => true | _ => false) = true ∧
    (loadState 4).ctxState 7 = 4 ∧ (loadState 4).slotsOf 7 = [] ∧ (loadState 4).issues = [] ∧ (loadState 5).ctxState 7 = 5 ∧
    (ran (.unloadReleaseComplete 7) (loadState 5)).ctxState 7 = 0 := by decide +kernel

/-- Context 0 has a command queued, and no cluster is taken. -/
def workState : State := (tileState [cmdOf 1 fillBytes] [] []).run [.cluster 0 fun _ => {}]

theorem test_witness_Slices :
    workState.boundaryWaits ((workState.rotation + 1) % 16) = false ∧ workState.fget Fld.fltCtxStopContexts = 0 ∧
    State.reset.plan 1 = [] ∧ workState.fget (Fld.pwrClusterTarget 0) = 0 ∧
    (((periodState 1).run [.fld Fld.secSlicePeriodAlign 1, .fld (Fld.pwrClusterTarget 0) 0, .fld (Fld.impCtxStateOf 1) 2,
      .ctx 1 (fun x => { x with image := some { clusterMap := 1, groups := [⟨0, 0, 32, 1, 0⟩] } }),
      .ctx 0 (fun x => { x with image := some {} }), .req 5 (fun _ => {}),
      .cluster 0 (fun x => { x with ctx := some 0, taken := true }), .hub fun h => { h with queue := [{ cmdOf 1 fillBytes with ctx := 1 }] }]).boundaryWaits 1) = true ∧
    workState.takeable ((List.range 64).filter fun k => (workState.cluster k).taken) 0 = true ∧
    (workState.ctx 0).held = none ∧ workState.granted 0 = [0] ∧
    ((ran (.contextTakenOnWork 0) workState).cluster 0).taken = true := by decide +kernel

theorem test_witness_FenceOrdersItsGroup :
    (tileState [cmdOf 2 ([0x0E] ++ zeros 63)] [cmdOf 1 fillBytes] []).hubHead 0 0 = some (cmdOf 2 ([0x0E] ++ zeros 63)) ∧
    (cmdOf 2 ([0x0E] ++ zeros 63)).opcode = opFence ∧ (tileState [cmdOf 2 ([0x0E] ++ zeros 63)] [] []).groupWith 0 0 ≠ none ∧
    cmdOf 1 fillBytes ∈ (tileState [cmdOf 2 ([0x0E] ++ zeros 63)] [cmdOf 1 fillBytes] []).liveCmds ∧
    (cmdOf 1 fillBytes).group = 0 ∧
    (tileState [cmdOf 2 ([0x0E] ++ zeros 63) .done] [] []).hubHead 0 0 = some (cmdOf 2 ([0x0E] ++ zeros 63) .done) ∧
    ((tileState [cmdOf 2 ([0x0E] ++ zeros 63) .done] [] []).liveCmds.all fun o => decide (¬o.id < 2)) = true ∧
    fenceFieldsOk ([0x0E] ++ zeros 63) = true ∧ fenceFieldsOk ([0x0E, 1] ++ zeros 62) = false ∧
    (tileState [cmdOf 2 ([0x0E, 1] ++ zeros 62)] [] []).hubHead 0 0 = some (cmdOf 2 ([0x0E, 1] ++ zeros 62)) ∧
    (ran (.groupFence 0 0) (tileState [cmdOf 2 ([0x0E, 1] ++ zeros 62)] [] [])).hub.queue = [] := by decide +kernel

/-- Bank 5 owned by core 0 of context 0, which may hand it to core 1. -/
def bankState : State := (tileState [] [] []).run [.fld (Fld.poolOwnerValid 5) 1, .fld (Fld.poolOwnerOwner 5) 0]

theorem test_witness_PoolBanks :
    bankState.bound = true ∧ bankState.flag (Fld.poolOwnerValid 5) = true ∧ bankState.flag (Fld.poolOwnerBusy 5) = false ∧
    bankState.flag (Fld.poolOwnerValid 6) = false ∧
    bankState.ownerAllowed (bankState.fget (Fld.poolOwnerContext 5)) (1#16).toNat = true ∧
    bankState.ownerAllowed (bankState.fget (Fld.poolOwnerContext 5)) (40#16).toNat = false ∧
    ((ran (.poolOwnerWrite 5 1) bankState).bank 5).handover = some 1 ∧ (ran (.poolOwnerWrite 5 0) bankState) = bankState ∧
    (ran (.poolHandoverComplete 5) (ran (.poolOwnerWrite 5 1) bankState)).fget (Fld.poolOwnerOwner 5) = 1 ∧
    ((ran (.poolStateWrite 5 0) bankState).bank 5).goal = some 0 ∧ ((ran (.poolStateWrite 5 0) bankState).bank 5).claim.isNone = true ∧
    bankState.links = [] ∧
    (ran (.poolStateReached 5) (ran (.poolStateWrite 5 0) bankState)).fget (Fld.poolStateCurrent 5) = 0 ∧
    ((bankState.run [.bank 5 fun x => { x with goal := some 2 }]).bank 5).goal = some 2 := by decide +kernel

/-- A bound state in debug mode; the wheel of core 3 gives the debugger its turns, that of core 4 has none. -/
def debugState : State := boundState.run [.fld Fld.secStatusDebug 1, .fld (Fld.galWheelSlotOwner 3) 8]

theorem test_witness_MarchAndDebugger :
    debugState.bound = true ∧ debugState.debug = true ∧ boundState.debug = false ∧ debugState.engineTurn 3 8 = true ∧
    debugState.engineTurn 4 8 = false ∧ (debugState.run [.fld Fld.poolMarchStatusBusy 1]).flag Fld.poolMarchStatusBusy = true ∧
    debugState.flag Fld.poolMarchStatusBusy = false ∧ debugState.links = [] ∧
    (ran (.marchStart 8 true) debugState).march = some { dies := 8, preserve := true } ∧
    (ran (.marchComplete [255]) (ran (.marchStart 8 true) debugState)).flag (Fld.poolStateFailed 255) = true ∧ (255 : Nat) ∈ banksOf (8#4).toNat ∧
    (debugState.run [.fld (Fld.poolOwnerValid 255) 1]).flag (Fld.poolOwnerValid 255) = true ∧
    ((banksOf (8#4).toNat).all fun b => !debugState.flag (Fld.poolOwnerValid b)) = true ∧
    (ran (.marchStart 8 false) (debugState.run [.fld (Fld.poolOwnerValid 255) 1])).fget Fld.poolMarchStatusRefused = 1 ∧
    (ran (.galleyDebugWrite 3 1) (debugState.run [.fld (Fld.galDbgDataData 0) 0x77])).peek 0x300000C0040 = 0x77 ∧
    (ran (.galleyDebugRead 3 1) (debugState.run [.store 0x300000C0048 [0x55]])).fget (Fld.galDbgDataData 1) = 0x55 := by
  decide +kernel

/-- A module at reset whose hub is ready, with the rails of both tiers up, and whose memory is not. -/
def hubState : State := st [.power fun p => { p with hubReady := true, coldReset := true, rails := 21 }]

/-- Both tiers are up and scrubbed. -/
def scrubState : State := boundState.run [.fld Fld.memfStatusReady 63, .fld Fld.memsStatusReady 65535, .fld Fld.memsStatusPresent 1,
  .fld Fld.memfScrubEnable 1, .fld Fld.memsScrubEnable 1]

theorem test_witness_MemoryTiers :
    hubState.power.hubReady = true ∧ 13 ≤ hubState.power.rails ∧ hubState.fget Fld.memfStatusReady = 0 ∧
    hubState.fget Fld.memfStatusFailed = 0 ∧
    scrubState.scrubs .fast 5 = true ∧ scrubState.scrubs .slow 15 = true ∧ scrubState.inTier (scrubAddr .slow 15 7) = true ∧
    scrubState.retired (scrubAddr .slow 15 7) = false ∧ scrubState.markAt (scrubAddr .fast 5 64) = .sound ∧
    scrubAddr .fast 5 64 = 0xB000 ∧ ((scrubState.run [.mark 0xB000 .logged]).markAt (scrubAddr .fast 5 64)).bad = true ∧
    (scrubState.run [.xlt fun x => { x with retired := [0] }]).retired (scrubAddr .fast 5 64) = true ∧
    (ran (.patrolScrubRead .fast 5 64 .uncorrectable) scrubState).poisoned 0xB000 = true ∧
    (ran (.patrolScrubRead .fast 5 64 .correctable) scrubState).fget Fld.memfErrCntCe = 1 ∧
    (ran (.memoryBringUpComplete ⟨[], [3]⟩) hubState).fget Fld.memsStatusReady = 65527 := by decide +kernel

theorem test_witness_TranslationRegisters :
    boundState.bound = true ∧ (ran (.xltInvalidate 3 0) boundState).xlt.invalidate = some (3, 0, 0) ∧
    (ran (.xltInvalidate 3 15) boundState).fget Fld.xltInvStatusRefused = 1 ∧
    (ran (.xltInvalidate 3 57) boundState).fget Fld.xltInvStatusBusy = 1 ∧
    (ran .xltInvalidateDone (ran (.xltInvalidate 3 16) boundState)).fget Fld.xltInvStatusDone = 1 ∧
    (ran (.pageRetire 5) boundState).xlt.retire = some 5 ∧
    (ran .pageRetireDone (ran (.pageRetire 5) boundState)).xlt.retired = [5] ∧
    (ran (.pageRetire 5) (ran .pageRetireDone (ran (.pageRetire 5) boundState))).fget Fld.xltRetireStatusDup = 1 ∧
    (boundState.run [.xlt fun x => { x with retire := some 5 }, .mig fun m => { m with inflight := [{ id := 7, kind := 1, ctx := 0, tag := 5, src := 0x200000, dst := 0, va := 0, state := .copy }] }]).pageMigrates 5 = true ∧
    (boundState.run [.fld Fld.fltRingEnable 1]).flag Fld.fltRingEnable = true ∧ ringPlace .pageOp = some pagePlace ∧
    boundState.marks = [] ∧ boundState.port.filter = [] ∧ boundState.outside (boundState.lineOf pagePlace.base) = false ∧
    boundState.outside (boundState.lineOf Fld.fltRingBase) = false := by decide +kernel

/-- One migration descriptor waits in the ring at 0x10000, with its completion ring at 0x20000. -/
def migState (d : Bytes) : State := boundState.run [.fld Fld.memfStatusReady 1, .fld Fld.memsMigRingBase (0x10000 / 64), .fld Fld.memsMigRingEnable 1,
  .fld Fld.memsMigCplBase (0x20000 / 64), .fld Fld.memsMigCplEnable 1, .devRing 0 (fun x => { x with tail := 1 }), .store 0x10040 d,
  .fld Fld.secTagtabBase 256, .mig fun m => { m with poolFast := [0x400000] }]

/-- A migration of unit 0x200000 to unit 0x600000. -/
def migOf (st : MigState) : Migration := { id := 7, kind := 1, ctx := 0, tag := 5, src := 0x200000, dst := 0x600000, va := 0, state := st }

/-- That migration in flight, with the first GiB of context 0 mapped. -/
def migRun (m : Migration) : State := (migState []).run (mapped 0 ++ [.mig fun e => { e with inflight := [m] }])

/-- A migration of the unit that a leaf of 2 MiB maps, in FINAL. -/
def migLeaf : Migration := { migOf .final with va := 0x200000, leafAddr := 0x13008, leaf := 0x20000F }

/-- Context 0 maps its second unit with that leaf. -/
def leafState : State := (migRun migLeaf).run [.store 0x12000 (leBytes 8 0x13001), .store 0x13008 (leBytes 8 0x20000F)]

theorem test_witness_MigrationEngine :
    (migState (leBytes 8 1 ++ leBytes 8 0x200000 ++ leBytes 8 0x600000 ++ zeros 8)).mig.records = [] ∧
    ((migState (leBytes 8 1 ++ leBytes 8 0x200000 ++ leBytes 8 0x600000 ++ zeros 8)).nextMig.map fun d => fieldAt d 0 1) = some 1 ∧
    ((migState (leBytes 8 4 ++ zeros 8 ++ leBytes 8 0x600000 ++ zeros 8)).nextMig.map fun d => migFieldsOk d) = some true ∧
    (migState []).marks = [] ∧ (migState []).port.filter = [] ∧ (migState []).outside 0x10040 = false ∧
    (migState []).cplSlot migPlace = 0x20040 ∧ (migState []).outside 0x20040 = false ∧ (migState []).unreadable 0x20040 = false ∧
    (migState []).mig.inflight = [] ∧ (migState []).tiersUp = true ∧ (migState []).cplFree migPlace (migState []).migHeld = true ∧
    (migState []).unitOk 0x600000 = true ∧ (migState []).region 0x600000 = .fast ∧
    ((migState (leBytes 8 5 ++ zeros 24)).nextMig.map fun d => (fieldAt d 0 1, migFieldsOk d)) = some (5, true) ∧
    (ran .poolAdd (migState (leBytes 8 4 ++ zeros 8 ++ leBytes 8 0x600000 ++ zeros 8))).mig.poolFast = [0x400000, 0x600000] ∧
    (ran .poolTake (migState (leBytes 8 5 ++ zeros 24))).mig.poolFast = [] ∧
    (ran .reservedMigrationKind (migState (leBytes 8 6 ++ zeros 24))).peekN 0x20040 8 = [0, 0, 0, 0, 3, 0, 0, 0] ∧
    (migOf .check).failed = none ∧ (migRun (migOf .check)).migration 7 = some (migOf .check) ∧
    (migRun (migOf .check)).unitOwned 0 0x200000 = true ∧ (migRun (migOf .check)).rangeDenied 0 0x600000 unitBytes = false ∧
    (migRun (migOf .check)).rangeMigrates 0x600000 unitBytes = false ∧
    ((List.range 32).all fun i => !(migState []).outside ((migState []).tagAddr (0x600000 + 65536 * i)) &&
      !(migState []).unreadable ((migState []).tagAddr (0x600000 + 65536 * i))) = true ∧
    (ran (.migrationCheckDone 7) (migRun (migOf .check))).migration 7 = some (migOf .copy) ∧
    (migState []).flt.repairs = [] ∧
    (ran (.migrationFinalDone 7) (migRun (migOf .final))).mig.inflight = [] ∧
    leafState.mig.inflight = [migLeaf] ∧ leafState.peekNat migLeaf.leafAddr 8 = migLeaf.leaf ∧
    ((leafState.walk (migAgent 0) 0x200000 2).toOption.map fun w => (w.leafAddr, w.leaf)) = some (0x13008, 0x20000F) ∧
    leafState.inTier migLeaf.leafAddr = true ∧ leafState.unreadable migLeaf.leafAddr = false ∧ leafState.pagesReady = false ∧
    (ran (.migrationFinalDone 7) leafState).peekN 0x20040 16 = migRecord 5 0 0 0x200000 ∧
    (ran (.migrationFinalDone 7) (leafState.run [.store 0x13008 [0]])).peekN 0x20044 1 = [1] := by
  decide +kernel

/-- One packer descriptor waits in the ring at 0x30000, with its completion ring at 0x40000. -/
def packState (d : Bytes) : State := boundState.run (mapped 0 ++ [.fld Fld.memfStatusReady 1, .fld Fld.cmpJobRingBase (0x30000 / 64), .fld Fld.cmpJobRingEnable 1,
  .fld Fld.cmpJobCplBase (0x40000 / 64), .fld Fld.cmpJobCplEnable 1, .devRing 1 (fun x => { x with tail := 1 }),
  .store 0x30040 d, .fld (Fld.impCtxStateOf 0) 3])

/-- A packer descriptor of a kind with a mask of flags: one block from 0x100000 to 0x200000, tag 5. -/
def packDesc (kind flags : Nat) : Bytes := leBytes 1 kind ++ leBytes 1 flags ++ zeros 2 ++ leBytes 4 5 ++ leBytes 8 0x100000 ++
  leBytes 8 0x200000 ++ leBytes 4 1 ++ zeros 4

/-- A job of a descriptor is in flight; region entry 0 of context 0 is a view whose base is 64 bytes off the job's source. -/
def packFlight (kind : Nat) : State := (packState []).run [.packs fun _ => [⟨7, packDesc kind 0, []⟩],
  .fld (Fld.cmpRgnBase 0) (0x50000 / 64), .fld (Fld.cmpRgnCount 0) 1,
  .store 0x50000 (leBytes 8 0xFFFC0 ++ leBytes 8 0x10000 ++ leBytes 8 0x60000 ++ leBytes 1 0 ++ leBytes 1 12 ++ zeros 6)]

theorem test_witness_Packers :
    (packState (packDesc 1 0)).nextJob = some (packDesc 1 0) ∧ (packState (packDesc 2 0)).nextJob = some (packDesc 2 0) ∧
    (packState (packDesc 1 0)).jobOk (packDesc 1 0) = true ∧ (packState (packDesc 1 0)).streamOn (packDesc 1 0) = true ∧
    (packState []).marks = [] ∧ (packState []).port.filter = [] ∧ (packState []).mig.inflight = [] ∧
    (packState []).outside 0x30040 = false ∧ (packState []).cplSlot packPlace = 0x40040 ∧
    (packState []).outside 0x40040 = false ∧ (packState []).unreadable 0x40040 = false ∧
    ((packState (packDesc 1 0)).run [.ctx 0 fun x => { x with image := some { comp := { streams := 0 } } }]).streamOn (packDesc 1 0) = false ∧
    (packState (packDesc 1 6)).jobOk (packDesc 1 6) = false ∧ (packState (packDesc 3 0)).nextJob = some (packDesc 3 0) ∧
    (ran .reservedJobKind (packState (packDesc 3 0))).peekN 0x40040 8 = [5, 0, 0, 0, 1, 0, 0, 0] ∧
    (packFlight 1).basic = false ∧ (packFlight 1).packs.find? (·.id == 7) = some ⟨7, packDesc 1 0, []⟩ ∧
    ((packFlight 2).viewAt 4 0 0x100000).map (fun x => (viewOf x.2).base) = some 0xFFFC0 ∧
    (packFlight 2).viewMet 4 0 0x200000 4096 = none ∧ (packFlight 2).viewMet 4 0 0x100000 4096 = some 0x100000 ∧
    (packFlight 2).checkVa (packAgent 0) 0x200000 4096 = none ∧
    (ran (.packerJobComplete 7) (packFlight 2)).peekN 0x40040 8 = [5, 0, 0, 0, 1, 0, 0, 0] ∧
    (ran (.cmpInvalidate 3) (packFlight 2)).cmpInvalidating = some 3 ∧
    (ran .cmpInvalidateDone (ran (.cmpInvalidate 3) (packFlight 2))).fget Fld.cmpInvStatusDone = 1 := by decide +kernel

/-- A page operation waits in the ring at 0x30000, with its completion ring at 0x40000; the ledger lies at 0x1000000. -/
def pageState (d : Bytes) : State := boundState.run (mapped 0 ++ [.fld Fld.memfStatusReady 1, .fld Fld.attOpRingBase (0x30000 / 64), .fld Fld.attOpRingEnable 1,
  .fld Fld.attOpCplBase (0x40000 / 64), .fld Fld.attOpCplEnable 1, .devRing 2 (fun x => { x with tail := 1 }),
  .store 0x30040 d, .fld (Fld.impCtxStateOf 0) 3, .fld Fld.attLedgerEnable 1, .fld Fld.attLedgerBase 256, .fld Fld.attStatusReady 1,
  .fld (Fld.attGeomRowLog2 0) 9, .store (0x1000000 + 8 * 0x20) [1], .fld (Fld.attGeomLayers 0) 1,
  .fld (Fld.attRelEnable 0) 1, .fld (Fld.attRelBase 0) (0x50000 / 64), .fld (Fld.attFreeEnable 0) 1, .fld (Fld.attFreeBase 0) (0x60000 / 64),
  .pages fun p => { p with
    held := [(0, 0x700000, 0)]
    compactions := [{ ctx := 0, slot := 5, start := 0, rows := [] }] }])

/-- A command of core 0 waits for a page at an address, which nothing maps at 2^30. -/
def needAt (cow : Bool) (va : Nat) : State := (pageState []).run [
  .pages fun p => { p with reqs := [{ cow := cow, ctx := 0, core := 0, cmd := 9, va := va }] },
  .store 0x12008 (leBytes 8 0x13001), .store 0x13000 (leBytes 8 0x14001), .store 0x14000 (leBytes 8 0x80001F),
  .core 0 fun x => { x with queue := [{ id := 9, bytes := [], ctx := 0, origin := .period none, run := .needsPage }] }]

/-- The next page after the one that a cow leaf maps. -/
def needState : State := needAt false (2 ^ 30 + 131072)

/-- A free ring with the page at 0x900000. -/
def withFree (s : State) : State := s.run [.store 0x60000 [1], .store 0x60040 (leBytes 8 0x900000)]

/-- FREE of the page at 0x200000, and one of a bad length. -/
def freeDesc (n : Nat) : Bytes := leBytes 1 2 ++ zeros 15 ++ leBytes 8 0x200000 ++ leBytes 4 n ++ zeros 4

theorem test_witness_PageService :
    boundState.bound3 = true ∧ (pageState []).flag Fld.attLedgerEnable = true ∧ (pageState []).ledgerBusy = true ∧
    (pageState []).pagesRun = true ∧ (pageState (freeDesc 1)).nextDesc pagePlace 0 = some (freeDesc 1) ∧
    (pageState []).marks = [] ∧ (pageState []).port.filter = [] ∧ (pageState []).mig.inflight = [] ∧
    (pageState []).outside 0x30040 = false ∧ (pageState []).cplSlot pagePlace = 0x40040 ∧
    (pageState []).outside 0x40040 = false ∧ (pageState []).unreadable 0x40040 = false ∧
    (pageState (freeDesc 1)).pageDescOk (freeDesc 1) = true ∧ (pageState (freeDesc 0)).pageDescOk (freeDesc 0) = false ∧
    (ran .free (pageState (freeDesc 0))).peekN 0x40040 5 = [0, 0, 0, 0, 1] ∧
    (freePiece 0 0x200000 1 (pageState (freeDesc 1)) 0).status = 1 + 1 ∧
    (pageState []).releaseRoom 0 = true ∧ (ran (.heldPageWrite 0) (pageState [])).peekN 0x50040 4 = [0, 0, 0x70, 0] ∧
    (pageState []).outside 0x50040 = false ∧ (pageState []).unreadable 0x50040 = false ∧
    (pageState []).ledgerAddr 0x700000 / 64 ≠ 0x50040 / 64 ∧
    (ran (.heldPageWrite 0) (pageState [])).pages.held = [] ∧
    (pageState []).compactRows { ctx := 0, slot := 5, start := 0, rows := [] } = [] ∧
    (ran (.compactionComplete 5) (ran (.compaction 5) (pageState []))).pages.compactions = [] ∧
    needState.reqStands { cow := false, ctx := 0, core := 0, cmd := 9, va := 2 ^ 30 + 131072 } = true ∧
    needState.pageNeed 0 (2 ^ 30 + 131072) = .alloc ∧ needState.freeWaiting 0 = 0 ∧
    (withFree needState).freeScan 0 1 0 = ([], some 0x900000) ∧ (withFree needState).rangeMigrates 0x900000 131072 = false ∧
    ((ran .pageAllocate (withFree needState)).walk (pageAgent 0) (2 ^ 30 + 131072) 1).toOption.map (·.pa) = some 0x900000 ∧
    (needAt true (2 ^ 30)).pageNeed 0 (2 ^ 30) = .cow ∧ (needAt true (2 ^ 30)).pageStart 0 (2 ^ 30) = 2 ^ 30 ∧
    ((needAt true (2 ^ 30)).ledger 0x800000).refcount ≠ 1 ∧
    (((needAt true (2 ^ 30)).run [.store 0x1000406 [1]]).ledger 0x800000).refcount = 1 := by decide +kernel

/-- A module that has booted, with an image staged for components 2 and 3 and the mailbox ready. -/
def bootedState : State := boundState.run [.fld Fld.pwrStatusPg 1, .sec fun x => { x with
  booted := true
  firmware := [(2, { staged := some [7], activating := true, stored := [6] }), (3, { transfer := [1, 2] })] }]

theorem test_witness_FirmwareUpdates :
    bootedState.ioUp = true ∧ bootedState.port.mailboxReady = true ∧ (bootedState.fw 3).transfer.length = 2 ∧
    (ran (.transferFw 3 2 [3] false) bootedState).fw 3 = { transfer := [1, 2, 3] } ∧
    (ran (.transferFw 3 0 [3] false) bootedState).fw 3 = { transfer := [3] } ∧
    (ran (.transferFw 3 1 [3] false) bootedState).outbox = bootedState.outbox ++ [.mailbox 2 []] ∧
    (bootedState.fw 2).staged = some [7] ∧ bootedState.sec.imports = [] ∧ bootedState.mgmtUp = true ∧
    (ran (.fwActivationInstant 2) bootedState).fw 2 = { running := [7], stored := [7], fallback := [6] } ∧
    (ran (.activateFw 2) bootedState).outbox = bootedState.outbox ++ [.mailbox 0 []] ∧
    (bootedState.run [.sec fun x => { x with held := true }]).sec.held = true := by decide +kernel

/-- A booted module whose link 2 is in ATTEST. -/
def attestState : State := bootedState.run [.fld (Fld.hlLstatState 2) 3]

/-- The seal of the CTRL frame with a counter that arrives intact. -/
def ctlSeal (n : Byte) : CtrlSeal := ⟨n, true⟩

theorem test_witness_SpdmResponder :
    boundState.spdmOpen .doe = true ∧ boundState.sec.booted = false ∧ bootedState.spdmOpen .doe = true ∧
    bootedState.spdmOpen .mctp = true ∧ bootedState.sec.restarting = false ∧ bootedState.sec.booted = true ∧
    (0x12 : Byte).toNat ∉ spdmOwnRow ∧ (ran (.spdmUnsupportedRequest .doe 0x12) bootedState).outbox =
      bootedState.outbox ++ [.spdm .doe (.error 7)] ∧
    (ran (.spdmFinish .mctp true ⟨0, false⟩) (ran (.spdmKeyExchange .mctp false) bootedState)).sec.sessions = [.mctp] ∧
    attestState.spdmOpen (.link 2 (ctlSeal 0)) = true ∧ bootedState.spdmOpen (.link 2 (ctlSeal 0)) = false ∧
    (attestState.link 2).rxCounter = 0 ∧ (attestState.took 2).linkState 2 = Ls.attest ∧
    (ran (.spdmKeyExchange (.link 2 (ctlSeal 0)) true) attestState).linkState 2 = Ls.attest ∧
    ((ran (.spdmKeyExchange (.link 2 (ctlSeal 0)) true) attestState).link 2).keyExchanged = true ∧
    ((ran (.spdmKeyExchange (.link 2 (ctlSeal 0)) true) attestState).link 2).peerFingerprint = 0 ∧
    (ran (.spdmFinish (.link 2 (ctlSeal 1)) true ⟨0, true⟩) (ran (.spdmKeyExchange (.link 2 (ctlSeal 0)) true)
      attestState)).linkState 2 = Ls.up ∧
    (ran (.spdmFinish (.link 2 (ctlSeal 1)) true ⟨1, true⟩) (ran (.spdmKeyExchange (.link 2 (ctlSeal 0)) true)
      attestState)).linkState 2 = Ls.fenced := by decide +kernel

theorem test_witness_ColophonsAndLms :
    bootedState.spdmOpen .doe = true ∧ bootedState.sec.booted = true ∧
    (bootedState.run [.sec fun x => { x with leaf := 2 ^ 20 }]).flag Fld.secStatusLmsRenewing = false ∧
    (ran .lmsSubtreeExhausted (bootedState.run [.sec fun x => { x with leaf := 2 ^ 20 }])).flag Fld.secStatusLmsRenewing = true ∧
    (ran (.spdmGetMeasurements .doe 0xF0 none) (bootedState.run [.sec fun x => { x with leaf := 2 ^ 20 }])).sec.colophonWait =
      [(.doe, 0)] ∧
    (bootedState.run [.fld Fld.secStatusLmsRenewing 1, .sec fun x => { x with nvmTop := 3 }]).flag Fld.secStatusLmsRenewing = true ∧
    (bootedState.run [.fld Fld.secStatusLmsRenewing 1, .sec fun x => { x with nvmTop := 3 }]).sec.nvmTop = 3 := by
  decide +kernel

/-- A powered module at the start of its boot, with images of components 1 to 4. -/
def bootState : State := st [.fld Fld.pwrStatusPg 1, .sec fun x => { x with
  firmware := [(1, { stored := [1] }), (2, { stored := [2] }), (3, { stored := [3] }), (4, { stored := [4] })] }]

theorem test_witness_SecurityBootAndDebug :
    bootState.powered = true ∧ bootState.sec.booted = false ∧ bootState.sec.held = false ∧ bootState.sec.arb = [0, 0, 0, 0, 0] ∧
    (ran (.securityDomainReady [true, false, true, true] []) bootState).sec.held = true ∧
    ((ran (.securityDomainReady [true, true, true, true] []) (bootState.run [.sec fun x => { x with nvmTop := 2 ^ 20 }])).fw 3).running = [3] ∧
    (ran (.securityDomainReady [true, true, true, true] []) (bootState.run [.sec fun x => { x with nvmTop := 2 ^ 20 }])).sec.booted = true ∧
    (ran .debugEnable (boundState.run [.reg Reg.secProt 0])).debug = true ∧
    (ran .debugDisable (ran .debugEnable (boundState.run [.reg Reg.secProt 0]))).debug = false := by decide +kernel

/-- A security descriptor waits in the ring at 0x30000, with its completion ring at 0x40000; context 0 is RESIDENT. -/
def secState (d : Bytes) : State := boundState.run (mapped 0 ++ [.fld Fld.memfStatusReady 1, .fld Fld.secOpRingBase (0x30000 / 64), .fld Fld.secOpRingEnable 1,
  .fld Fld.secOpCplBase (0x40000 / 64), .fld Fld.secOpCplEnable 1, .devRing 3 (fun x => { x with tail := 1 }),
  .store 0x30040 d, .fld (Fld.impCtxStateOf 0) 2, .ctx 0 (fun x => { x with keyPrivate := 9 }),
  .fld (Fld.secFwLimitValid 0) 0])

/-- A descriptor of a kind with its flags, context, key, address, destination and length, and tag 5. -/
def secOp (kind flags c key a dst n : Nat) : Bytes := leBytes 1 kind ++ leBytes 1 flags ++ leBytes 1 c ++ leBytes 1 key ++ leBytes 4 5 ++
  leBytes 8 a ++ leBytes 8 dst ++ leBytes 8 n

/-- An import whose package lies in host memory, or not, is in flight. -/
def importAt (flags : Nat) : State := (secState []).run [.sec fun x => { x with imports := [⟨secOp 3 flags 0 0 0 0 0, 0, [], 7⟩] },
  .ctx 0 (fun x => { x with keyContent := 7 })]

/-- The package lies in host memory. -/
def importState : State := importAt 1

theorem test_witness_SecurityOperations :
    (secState (secOp 1 0 0 0 0x10000 0 0)).nextDesc secPlace 0 = some (secOp 1 0 0 0 0x10000 0 0) ∧
    (secState []).marks = [] ∧ (secState []).port.filter = [] ∧ (secState []).mig.inflight = [] ∧
    (secState []).outside 0x30040 = false ∧ (secState []).cplSlot secPlace = 0x40040 ∧
    (secState []).outside 0x40040 = false ∧ (secState []).unreadable 0x40040 = false ∧
    (secState []).ctxEntry 0 = 0xF000 ∧ (secState []).outside 0xF000 = false ∧ (secState []).unreadable 0xF000 = false ∧
    (secState []).outside 0xF008 = false ∧ (secState []).unreadable 0xF008 = false ∧
    secFieldsOk (secOp 1 0 0 0 0x10000 0 0) = true ∧ (secState []).rootOk 0x10000 = true ∧ (secState []).ctxState 0 ≠ 0 ∧
    (secState []).ctxState 1 = 0 ∧ secFieldsOk (secOp 1 1 0 0 0 0 0) = false ∧
    (ran .ctxRoot (secState (secOp 1 0 1 0 0 0 0))).peekN 0x40040 5 = [5, 0, 0, 0, 2] ∧
    (ran .ctxRoot (secState (secOp 1 0 0 0 0x20000 0 0))).peekN 0xF000 3 = [1, 0, 2] ∧
    (secState []).assignOk (secOp 2 0 0 1 0x200000 0 0x20000) = true ∧ (secState []).assignOk (secOp 2 0 0 3 0x200000 0 0x20000) = false ∧
    (secState []).rangeMigrates 0x200000 0x20000 = false ∧ (secState []).tagAddr 0x200000 = 0x1000020 ∧
    (secState []).outside 0x1000020 = false ∧ (secState []).unreadable 0x1000021 = false ∧
    ((secState []).run [.mig fun m => { m with inflight := [migOf .copy] }]).rangeMigrates 0x200000 0x20000 = true ∧
    (ran .assign (secState (secOp 2 0 0 1 0x200000 0 0x20000))).keyTag 0x21FFFF = 1 ∧
    (secState []).ctxLive 0 = true ∧ (secState []).ctxLive 1 = false ∧
    ((secState []).pkgHead (secOp 3 0 0 0 0x1000 0 0) (.failed false)).toOption.isSome = true ∧
    ((secState []).pkgHead (secOp 3 1 0 0 0x1000 0 0) (.failed false)).toOption = none ∧
    (ran .reservedSecOpKind (secState (secOp 4 0 0 0 0 0 0))).peekN 0x40040 5 = [5, 0, 0, 0, 1] ∧
    inHost (secOp 3 1 0 0 0 0 0) = true ∧ inHost (secOp 3 0 0 0 0 0 0) = false ∧ importState.sec.imports.length = 1 ∧
    importState.importHeld ⟨secOp 3 1 0 0 0 0 0, 0, [], 7⟩ = false ∧
    chunksOf 4096 (([] : Bytes).length / 4096 + 1) (slice ([] : Bytes) 0 0) = [] := by decide +kernel

/-- Link 3 in a state and a protocol, its partner of identity 7, in a module of identity 5 in stage 4. -/
def linkSt (state proto : Nat) : State := boundState.run [.fld (Fld.hlLstatState 3) state, .fld (Fld.hlLstatProto 3) proto,
  .fld (Fld.hlLstatPeerId 3) 7, .fld Fld.hlFabricFabricId 5, .fld Fld.hlFabricStage 4, .fld Fld.hlCtrlForm 1]

/-- A hello of identity 7 that offers both protocols. -/
def helloOf : HelloMsg := ⟨1, 3, 7, 2, 0, 0, 0, 0⟩

theorem test_witness_LinkStates :
    (linkSt 5 0).linkState 3 = 5 ∧ (ran (.presenceDetected 3) (linkSt 5 0)).linkState 3 = 1 ∧
    (linkSt 1 0).linkState 3 = 1 ∧ (linkSt 1 0).fget Fld.hlFabricStage ≠ 0 ∧ helloOk helloOf = true ∧
    (linkSt 2 0).helloProto helloOf = 2 ∧ (ran (.hello ⟨3, ctlSeal 0⟩ helloOf) (linkSt 2 0)).linkState 3 = 3 ∧ ((linkSt 2 0).link 3).rxCounter = 0 ∧
    ((ran (.helloTimeout 3) (linkSt 2 0)).link 3).lateHello = true ∧
    helloOk { helloOf with link := 12 } = false ∧ (ran (.helloTimeout 3) (linkSt 2 0)).linkState 3 = 7 ∧
    ((linkSt 4 2).run [.fld Fld.hlFenceCheckThr 1, .link 3 fun x => { x with refusals := 2 }]).overThreshold 3 = some 0x10 ∧
    (linkSt 4 2).linkIsUp 3 = true ∧
    (((linkSt 4 2).run [.link 3 fun x => { x with sentOn := [0, 0, 64], waiting := [.ctrl (.nak 0)] }]).link 3).creditFor 2 = false ∧
    (linkSt 4 2).bound3 = true ∧ ((ran (.linkDisable 3) (linkSt 4 2)).link 3).shutting = true ∧
    (ran (.linkShutdownComplete 3) (ran (.linkEnable 3) (ran (.linkDisable 3) (linkSt 4 2)))).linkState 3 = 1 := by decide +kernel

/-- The header of a frame from identity 7 to this module. -/
def headTo (kind : Nat) : Head := { kind := kind, vc := if kind ≤ 2 then 0 else 1, src := 7, dst := 5, window := 1, tag := 9 }

/-- A frame with no CRC and no tag. -/
def plain (h : Head) (p : BitVec 2048) : Frame := ⟨h.bits, p, 0⟩

/-- A frame as its sender puts it on a rack-trusted link: with its CRC. -/
def crcFrame (h : Head) (p : BitVec 2048) : Frame := ⟨{ h with crc := frameCrc { h with crc := 0 } p }.bits, p, 0⟩

/-- A frame as it arrives on sealed link 3, with the tag of the counter expected. -/
def tagFrame (s : State) (h : Head) (p : BitVec 2048) : Frame :=
  ⟨h.bits, p, s.sealTag 3 (s.directionIn 3) (s.link 3).rxCounter h.bits p⟩

/-- Link 3 is UP in a mode with a session, the module READY with a route to identity 7, a window of context 0 in pool bank 0, and
requests in flight. -/
def frameState (mode : Nat) (reqs : List OutReq) (late : List (Nat × Nat)) : State := (linkSt 4 2).run [.fld (Fld.impCtxStateOf 0) 2,
  .fld (Fld.poolStateCurrent 0) 0, .fld (Fld.poolStateStatus 0) 0, .fld Fld.hlFabricStage 6, .fld (Fld.hlLstatMode 3) mode,
  .link 3 (fun x => { x with session := some 1, peerLink := 2 }), .fabric (fun f => { f with routes := [(7, some ⟨3, 1⟩)] }),
  .windows (fun _ => [{ ctx := 0, id := 1, peers := [7], direction := 3, base := Config.poolBase, size := 4096 }]),
  .outbound fun o => { o with reqs := reqs, late := late }]

/-- The state after a frame's arrival, before what it does. -/
def arrived (f : Frame) (s : State) : State := s.framed 3 f

/-- A sealed frame with the tag of the expected counter is authentic. -/
theorem test_authentic (s : State) (h : Head) (p : BitVec 2048) (hs : (headOf h.bits).seqLo = (s.link 3).rxCounter % 256)
    (hm : s.modeAtCounter 3 (s.link 3).rxCounter ≠ 1) : s.authentic 3 (tagFrame s h p) = true := by
  simp [State.authentic, frameHead, tagFrame, hs, hm]

/-- A frame with its CRC in the header keeps the header's other fields. -/
theorem test_crcFrame_head (h : Head) (p : BitVec 2048) (g : ∀ c, c < 2 ^ 32 → headOf (Head.bits { h with crc := c }) = { h with crc := c }) :
    frameHead (crcFrame h p) = { h with crc := frameCrc { h with crc := 0 } p } := g _ (by unfold frameCrc; exact BitVec.isLt _)

/-- It is authentic on a link in rack-trusted mode that expects its counter. -/
theorem test_crc_authentic (s : State) (h : Head) (p : BitVec 2048)
    (g : ∀ c, c < 2 ^ 32 → headOf (Head.bits { h with crc := c }) = { h with crc := c })
    (hs : h.seqLo = (s.link 3).rxCounter % 256) (hm : s.modeAtCounter 3 (s.link 3).rxCounter = 1) :
    s.authentic 3 (crcFrame h p) = true := by
  have e := test_crcFrame_head h p g
  simp only [State.authentic, e, hm, if_pos]
  rw [show (crcFrame h p).payload = p from rfl, hs, beq_self_eq_true, beq_self_eq_true]
  rfl

theorem test_headOf_crc (x c : Nat) (hx : x < 2 ^ 96) (hc : c < 2 ^ 32) :
    headOf (BitVec.ofNat 128 (x + c * 2 ^ 96)) = { headOf (BitVec.ofNat 128 x) with crc := c } := by
  have e : (x + c * 2 ^ 96) % 2 ^ 128 = x + c * 2 ^ 96 := Nat.mod_eq_of_lt (by omega)
  have e' : x % 2 ^ 128 = x := Nat.mod_eq_of_lt (by omega)
  simp only [headOf, BitVec.toNat_ofNat, e, e', bitsOf, bitOf, Nat.testBit_eq_decide_div_mod_eq, Nat.shiftRight_eq_div_pow,
    Head.mk.injEq, decide_eq_decide]
  omega

theorem test_witness_InboundFrames :
    (frameState 1 [] []).linkIsUp 3 = true ∧ (frameState 0 [] []).linkIsUp 3 = true ∧
    (frameState 1 [] []).authentic 3 (tagFrame (frameState 0 [] []) { headTo 1 with seqLo := 1 } 5) = false ∧
    (headOf { headTo 1 with count := 3 }.bits).kind = 1 ∧
    (arrived (plain (headTo 1) 5) (frameState 1 [] [])).frameOk 3 (plain (headTo 1) 5) = true ∧
    (arrived (plain (headTo 1) 5) (frameState 0 [] [])).frameOk 3 (plain { headTo 1 with count := 3 } 5) = true ∧
    (arrived (plain (headTo 1) 5) (frameState 1 [] [])).frameOk 3 (plain { headTo 1 with vc := 1 } 5) = false ∧
    (headTo 1).dst = (frameState 1 [] []).ownId ∧
    ((arrived (plain (headTo 1) 5) (frameState 1 [] [])).checkRequest 3 (headTo 1) 1).toOption = some Config.poolBase ∧
    Config.poolBase % 64 = 0 ∧ (frameState 1 [] []).holdingBanks Config.poolBase 64 = [] ∧
    (frameState 1 [] []).region Config.poolBase = .pool ∧
    (((frameState 1 [] []).run [.fld (Fld.poolStateCurrent 0) 1]).checkRequest 3 (headTo 1) 1).toOption = some Config.poolBase ∧
    ((frameState 1 [] []).run [.fld (Fld.poolStateCurrent 0) 1]).holdingBanks Config.poolBase 64 = [0] ∧
    (((frameState 1 [] []).after (storeLines Config.poolBase 0 (leBytes 64 5))).peek Config.poolBase) = 5 ∧
    ((frameState 1 [] []).checkRequest 3 { headTo 2 with window := 2 } 1).toOption = none ∧
    (frameState 1 [] []).poisoned Config.poolBase = false ∧ (frameState 1 [] []).marks = [] ∧ (frameState 1 [] []).port.filter = [] ∧
    (frameState 1 [] []).linkNew 3 = true ∧ ((linkSt 4 1).linkNew 3) = false ∧
    (frameState 1 [] []).checkSource 3 (headTo 1) = none ∧ (linkSt 4 2).checkSource 3 (headTo 1) = some 0x0A ∧
    (frameState 1 [⟨9, 3, 0, 0, true, 0, 1⟩] []).outbound.reqs.find? (·.tag == 9) = some ⟨9, 3, 0, 0, true, 0, 1⟩ ∧
    (frameState 1 [] [(3, 9)]).outbound.late.any (·.2 == 9) = true ∧
    (headOf (headTo 9).bits).kind = 9 ∧
    (∀ p, (frameState 0 [] []).authentic 3 (tagFrame (frameState 0 [] []) { headTo 1 with count := 3 } p) = true) := by
  refine ⟨?_, ?_, ?_, ?_, ?_, ?_, ?_, ?_, ?_, ?_, ?_, ?_, ?_, ?_, ?_, ?_, ?_, ?_, ?_, ?_, ?_, ?_, ?_, ?_, ?_, ?_, fun p => test_authentic _ _ p (by decide +kernel) (by decide +kernel)⟩ <;> decide +kernel

/-- Link 3 with two frames in its replay buffer and credit owed. -/
def creditState : State := (frameState 1 [⟨9, 3, 0, 0, true, 0, 1⟩] []).run [.link 3 fun x => { x with
  replay := [(0, .ctrl (.nak 0)), (1, .ctrl (.nak 1))], txCounter := 2, owed := [1, 0, 0], rxCounter := 1, modeAt := some (1, 0) },
  .outbound fun o => { o with invalidating := some 4 }]

/-- The header of a CREDIT frame of counter 1. -/
def creditHead : Head := { kind := 6, vc := 0, hops := 0, src := 7, dst := 5, seqLo := 1 }

/-- A CREDIT frame that returns nothing and acknowledges counter 0. -/
def creditFrameOf : Frame := crcFrame creditHead 0

theorem test_credit_bits (x c : Nat) (hx : 6 + 7 * 2 ^ 10 + 5 * 2 ^ 19 + 2 ^ 88 = x) : Head.bits { creditHead with crc := c } = BitVec.ofNat 128 (x + c * 2 ^ 96) := by
  simp only [Head.bits, creditHead, b2n, Bool.false_eq_true, if_false]
  congr 1
  omega
theorem test_credit_low (x : Nat) (hx : 6 + 7 * 2 ^ 10 + 5 * 2 ^ 19 + 2 ^ 88 = x) : headOf (BitVec.ofNat 128 x) = creditHead := by
  subst hx; decide +kernel
theorem test_credit_lt (x : Nat) (hx : 6 + 7 * 2 ^ 10 + 5 * 2 ^ 19 + 2 ^ 88 = x) : x < 2 ^ 96 := by omega
theorem test_credit_head (c : Nat) (hc : c < 2 ^ 32) : headOf (Head.bits { creditHead with crc := c }) = { creditHead with crc := c } := by
  obtain ⟨x, hx⟩ : ∃ x, 6 + 7 * 2 ^ 10 + 5 * 2 ^ 19 + 2 ^ 88 = x := ⟨_, rfl⟩
  rw [test_credit_bits x c hx, test_headOf_crc x c (test_credit_lt x hx) hc, test_credit_low x hx]
theorem test_credit_mode : (creditState.run [.link 3 fun x => { x with modeAt := none }]).modeAtCounter 3 1 = 1 := by decide +kernel
theorem test_credit_counter : ((creditState.run [.link 3 fun x => { x with modeAt := none }]).link 3).rxCounter = 1 := by decide +kernel
/-- The CREDIT frame is one, and a link in rack-trusted mode takes it: its CRC is right. -/
theorem test_credit_frame : (frameHead creditFrameOf).kind = 6 ∧
    (creditState.run [.link 3 fun x => { x with modeAt := none }]).authentic 3 creditFrameOf = true ∧
    (creditState.run [.link 3 fun x => { x with modeAt := none }]).opened 3 creditFrameOf = creditFrameOf :=
  ⟨congrArg Head.kind (test_crcFrame_head creditHead 0 test_credit_head),
   test_crc_authentic _ creditHead 0 test_credit_head (by rw [test_credit_counter]; rfl) (by rw [test_credit_counter]; exact test_credit_mode),
   by rw [State.opened, test_credit_counter]; exact if_pos test_credit_mode⟩

theorem test_witness_LinkUpkeep :
    (creditState.link 3).canSend (.ctrl (.nak 0)) = true ∧ (creditState.link 3).waiting = [] ∧
    ((creditState.run [.link 3 fun x => { x with resending := [(0, .ctrl (.nak 0))] }]).link 3).canSend (.ctrl (.nak 0)) = false ∧
    creditState.linkIsUp 3 = true ∧
    creditOk creditFrameOf = true ∧ ((creditState.after (creditIn 3 creditFrameOf)).link 3).replay = [(1, .ctrl (.nak 1))] ∧
    (creditState.link 3).owed ≠ (creditState.link 3).owedSaid ∧ (creditState.link 3).rxCounter ≠ 0 ∧
    (ran (.ctrlNak ⟨3, ctlSeal 1⟩ 1) creditState).outbox = creditState.outbox ++ [.ctrl 3 (.nak 1)] ∧ creditState.linkNew 3 = true ∧
    (creditState.took 3).modeGoal 3 = 0 ∧
    ((creditState.run [.link 3 fun x => { x with modeAt := none }]).took 3).modeGoal 3 = 1 ∧
    (ran (.modeSwitch 3) creditState).fget (Fld.hlLstatMode 3) = 0 ∧
    (ran (.hurasRequestTimeout 3 9) creditState).outbound.late = [(3, 9)] ∧
    (ran .outboundInvalidateDone creditState).fget Fld.hlOutinvDone = 1 ∧ creditState.bound3 = true := by decide +kernel

/-- The module of identity 5 coordinates, or waits for the coordinator of identity 7. -/
def formState (coord : Bool) (stage : Nat) : State := (linkSt 4 2).run [.fld Fld.hlFabricStage stage, .fld Fld.hlFabricCoordinator (b2n coord),
  .fabric fun f => { f with electing := true, best := if coord then 5 else 9 }]

/-- A TOPO of identity 7 with this module as its partner. -/
def topoOf : TopoMsg := ⟨7, [(2, 5)], []⟩

/-- The next CTRL frame on link 3, intact. -/
def on3 (n : Byte) : CtrlIn := ⟨3, ctlSeal n⟩

theorem test_witness_FabricFormation :
    (formState false 4).linkIsUp 3 = true ∧ (formState false 4).linkNew 3 = true ∧ (linkSt 4 1).linkNew 3 = false ∧
    (linkSt 1 2).linkIsUp 3 = false ∧ ((formState false 4).link 3).rxCounter = 0 ∧
    (ran (.elect (on3 0) 7 1 0) (formState false 4)).fabric.best = 7 ∧ (ran (.elect (on3 0) 7 1 0) (formState false 3)).fabric.keptElect = some (7, 1) ∧
    (ran (.coord (on3 0) 7 4) (formState false 3)).fabric.keptCoord = some (7, 3, 4) ∧
    (ran (.coord (on3 0) 7 4) (formState false 4)).fabric.coordLink = some 3 ∧
    (ran (.coord (on3 0) 7 0) (formState false 4)).fget Fld.hlFabricStage = 7 ∧
    (ran .coordinatorDeclare (formState true 4)).fabric.topos = [⟨5, [(3, 7)], []⟩] ∧
    (ran (.topo (on3 0) topoOf) (ran .coordinatorDeclare (formState true 4))).fabric.gathered 5 = true ∧
    (ran (.routeAck (on3 0) 7) (formState true 4)).fabric.acks = [7] ∧ 7 ∉ (formState true 4).fabric.acks ∧
    (ran (.coord (on3 0) 7 4) (formState false 4)).fget Fld.hlFabricCoordId = 7 ∧
    (ran (.ready (on3 0) 2) (formState false 5)).fabricReady = true ∧
    (ran .coordinatorLoss (ran (.coord (on3 0) 7 4) (formState false 4))).fget Fld.hlFabricStage = 4 ∧
    (ran (.coord (on3 0) 7 4) (formState false 4)).fabric.coordKnown = true := by decide +kernel

/-- A powered, booted module before hub ready. -/
def coldState : State := st [.sec fun x => { x with booted := true, bootCount := 7, nvmTop := 3 }]

theorem test_witness_PowerSupplyAndModuleResets :
    coldState.powered = true ∧ coldState.sec.held = false ∧ coldState.power.hubReady = false ∧ coldState.power.rails ≠ 0 ∧
    (ran .pwrEnLow coldState).flag Fld.pwrStatusPg = false ∧ (ran .pwrEnLow coldState).power.rails = 0 ∧
    (ran (.pwrEnHigh 9) (ran .pwrEnLow coldState)).power.rails = 7 ∧ (ran (.pwrEnHigh 5) (ran .pwrEnLow coldState)).power.railFail = some 5 ∧
    (ran .powerGood (ran (.pwrEnHigh 9) (ran .pwrEnLow coldState))).powered = true ∧
    (ran .powerGood (ran (.pwrEnHigh 9) (ran .pwrEnLow coldState))).sec.bootCount = 7 ∧
    (ran .powerGood (ran (.pwrEnHigh 6) (ran .pwrEnLow coldState))).powered = false ∧
    coldState.power.railsGood = 21 ∧ coldState.ctxEntry 0 + 1024 ≤ Config.fastEnd ∧ coldState.xlt.retired = [] ∧
    coldState.marks = [] ∧ (coldState.run [.fld (Fld.impCtxStateOf 3) 2]).ctxState 3 ≠ 0 ∧
    (ran .thermalTrip coldState).power.tripped = true ∧ (ran .moduleColdReset (ran .thermalTrip coldState)).powered = true := by
  decide +kernel

/-- A powered module at ratio 20 with limits and a low sample. -/
def warmState : State := coldState.run [.fld Fld.pwrStatusRatio 20, .fld Fld.pwrLimitTdpW 1000, .fld Fld.pwrLimitEmergW 800,
  .fld Fld.pwrThermThrottleC 95, .fld Fld.pwrThermHysteresisC 5, .power fun p => { p with samples := [900] }]

theorem test_witness_Throttling :
    warmState.powered = true ∧ warmState.belowLimit = true ∧ warmState.flag Fld.pwrStatusThermal = false ∧
    warmState.sampleBreaks 1851 = true ∧ warmState.sampleBreaks 1000 = false ∧
    (ran (.powerSample 1851 3) warmState).fget Fld.pwrStatusRatio = 17 ∧ (ran .ratioRaiseTick warmState).fget Fld.pwrStatusRatio = 21 ∧
    (ran (.throtNFall 4) warmState).fget Fld.pwrStatusRatio = 4 ∧
    (ran .emergencyRelease (ran .throtNRise (ran (.throtNFall 4) warmState))).flag Fld.pwrStatusEmergency = false ∧
    (ran (.thermalThrottle 95 8) warmState).flag Fld.pwrStatusThermal = true ∧
    (ran (.thermalThrottle 90 8) (ran (.thermalThrottle 95 8) warmState)).flag Fld.pwrStatusThermal = false ∧
    (ran (.thermalThrottle 91 8) (ran (.thermalThrottle 95 8) warmState)).flag Fld.pwrStatusThermal = true ∧
    (ran (.hbmHotRefresh 2 85) warmState).power.hotStacks = [2] ∧ warmState.power.lastEvent = none ∧ (ran .pwrEnLow warmState).powered = false ∧
    (warmState.run [.power fun p => { p with quietSamples := 7 }]).sampleBreaks 1001 = true ∧ (ran (.throtNFall 4) warmState).belowLimit = false := by decide +kernel

/-- Cluster 5 with a target, a current state, a status and a held enable; core 160 in NAP and marked. -/
def clusterState (target current status : Nat) (held : Bool) : State := boundState.run [.fld (Fld.pwrClusterTarget 5) target,
  .fld (Fld.pwrClusterCurrent 5) current, .fld (Fld.pwrClusterStatus 5) status, .cluster 5 (fun x => { x with pendingOn := held }),
  .fld (Fld.coreStatePower 160) 2, .fld (Fld.coreStatePower 161) 0, .core 160 (fun x => { x with mustClear := true }), .store (galleyOf 160) [9], .fld Fld.pwrCorePolNapUs 1]

theorem test_witness_ClocksClustersAndCores :
    boundState.fget (Fld.clkDomState 3) ≠ 2 ∧ (ran (.domainStart 3) boundState).fget (Fld.clkDomStarts 3) = 1 ∧
    (boundState.run [.fld (Fld.clkDomState 9) 2, .power fun p => { p with selfRefresh := true }]).mayStop 9 = true ∧
    (clusterState 0 0 0 false).coreIdle 161 = true ∧ (clusterState 0 0 0 false).fget (Fld.coreStatePower 160) = 2 ∧
    (ran (.coreWake 160) (clusterState 0 0 0 false)).peek (galleyOf 160) = 0 ∧ (clusterState 0 0 0 false).fget (Fld.coreStatePower 161) = 0 ∧
    ((clusterState 0 0 0 false).run [.fld (Fld.coreStatePower 160) 3]).inService 5 = true ∧ 160 ∉ boundState.flt.noCore ∧ clusterOf 160 = 5 ∧
    ((clusterState 0 0 0 false).run [.fld Fld.pwrResetStatusBusy 1, .fld Fld.pwrResetStatusKind 1, .fld Fld.pwrResetStatusTarget 160]).runStatus 5 0 = 2 ∧
    (clusterState 0 0 3 false).fget (Fld.pwrClusterStatus 5) = 3 ∧ (clusterState 0 2 0 false).fget (Fld.pwrClusterStatus 5) ≠ 3 ∧
    (clusterState 2 0 1 false).clusterShutting 5 = true ∧ (clusterState 0 0 0 true).clusterShutting 5 = true ∧
    (clusterState 0 0 0 false).clusterShutting 5 = false ∧ (clusterState 0 0 0 false).bound = true ∧
    (coresOf 5).all (fun n => ((clusterState 1 0 1 false).core n).queue.isEmpty) = true ∧
    (ran (.clusterTargetGated 5) (clusterState 0 2 0 false)).fget (Fld.pwrClusterStatus 5) = 1 ∧
    (ran (.clusterTargetOff 5) (clusterState 0 0 0 false)).fget (Fld.pwrClusterStatus 5) = 1 ∧
    (ran (.clusterClockGated 5) (clusterState 1 0 1 false)).fget (Fld.pwrClusterCurrent 5) = 1 := by decide +kernel

/-- A bound module at hub ready, a reset of a kind on a target in progress or none. -/
def resetState (busy kind target : Nat) : State := boundState.run [.power (fun p => { p with hubReady := true, rails := 21 }),
  .fld Fld.pwrResetStatusBusy busy, .fld Fld.pwrResetStatusKind kind, .fld Fld.pwrResetStatusTarget target,
  .store (galleyOf 40) [7], .core 40 fun x => { x with acc := [] }]

theorem test_witness_PartialResetsAndSelfTest :
    (resetState 0 0 0).bound = true ∧ (resetState 0 0 0).power.hubReady = true ∧ (resetState 0 0 0).resetTarget 1 40 = true ∧
    (resetState 0 0 0).resetTarget 4 3 = false ∧ (resetState 0 0 0).resetTarget 2 64 = false ∧ (resetState 0 0 0).resetTarget 5 11 = true ∧
    (resetState 1 1 40).flag Fld.pwrResetStatusBusy = true ∧ scopeInside 1 40 2 1 = true ∧ scopeInside 2 1 1 40 = false ∧
    scopeInside 1 40 3 1 = false ∧ (ran (.coreReset 40) (resetState 0 0 0)).peek (galleyOf 40) = 0 ∧
    (ran .resetComplete (resetState 1 1 40)).fget Fld.pwrResetStatusDone = 1 ∧
    (ran (.clusterReset 5) (resetState 1 3 1)).fget Fld.pwrResetStatusRefused = 1 ∧
    (ran (.clusterReset 17) (resetState 1 3 1)).fget Fld.pwrResetStatusAbsorbed = 1 ∧
    (resetState 0 0 0).fget Fld.hlFabricStage = 0 ∧ (resetState 0 0 0).fget (Fld.pwrClusterStatus 9) ≠ 3 ∧
    21 ≤ (resetState 0 0 0).power.rails ∧ (resetState 0 0 0).march = none ∧
    (ran .resetComplete ((resetState 1 1 40).run [.fld (Fld.pwrClusterStatus 1) 2, .fld (Fld.pwrClusterTarget 1) 1, .fld (Fld.pwrClusterCurrent 1) 0])).fget (Fld.pwrClusterStatus 1) = 1 := by decide +kernel

/-- A module with a recovery that runs. -/
def recoverState (r : Option Recovery) (awake : Bool) : State := (resetState 0 0 0).run [.flt fun f => { f with running := r, takeoverAwake := awake }]

theorem test_witness_SlotClusterAndDieFaults :
    (recoverState none false).inService 1 = true ∧ 40 ∉ (recoverState none false).flt.noCore ∧ (recoverState none false).basic = false ∧
    ((recoverState none false).run [.fld Fld.fltStatusBasic 1]).basic = true ∧
    (ran (.slotFailure 40 1) (recoverState none false)).flt.running = some (.takeover 40 1 8) ∧
    (ran (.slotFailure 40 1) (recoverState none false)).flt.noCore = [40] ∧
    (recoverState (some (.takeover 40 1 8)) false).flt.takeoverAwake = false ∧
    (ran .spareTakeover (recoverState (some (.takeover 40 1 8)) false)).peek (galleyOf 40) = 0 ∧
    (ran (.spareSelfTestComplete true) (recoverState (some (.takeover 40 1 8)) true)).fget (Fld.coreIdPhysSlot 40) = 32 ∧
    (recoverState (some (.removal 1 3)) false).flt.running = some (.removal 1 3) ∧
    (recoverState none false).within1s 0 = false ∧ (recoverState none false).within1s 1 = true ∧
    (ran (.clusterLogicFault 1) (recoverState none false)).fget Fld.pwrResetStatusKind = 2 := by decide +kernel

/-- A module with a fault ring at 0x10000, a record that waits, and a repair of line 0x4000 in a state. -/
def repairState (st : RepairState) (tries : Nat) : State := boundState.run [.fld Fld.fltRingBase (0x10000 / 64), .fld Fld.fltRingEnable 1,
  .flt fun f => { f with queue := [⟨3, 7, 1, 0xFF, false, 2, 1, 0, 0, false, 0⟩], repairs := [⟨0x4000, zeros 32, 0, [], st, tries⟩] }]

theorem test_witness_FaultRecordsEnginesAndRepair :
    (repairState .detected 0).flt.queue = [⟨3, 7, 1, 0xFF, false, 2, 1, 0, 0, false, 0⟩] ∧ (repairState .detected 0).flag Fld.fltRingEnable = true ∧
    (ran .faultRecordWrite (repairState .detected 0)).peekN 0x10040 6 = [3, 0, 0, 0, 7, 1] ∧
    (ran .faultRecordWrite (repairState .detected 0)).peekN 0x10004 4 = [1, 0, 0, 0] ∧
    (repairState .detected 0).flag (Fld.smpStatusFailed.item 1) = false ∧ (repairState .detected 0).basic = false ∧
    (ran (.samplerSelfCheckFail 1) (repairState .detected 0)).flag (Fld.smpStatusFailed.item 1) = true ∧
    0 ∉ (repairState .detected 0).flt.copyOut ∧ (ran (.stateMachineSelfCheckFail 0) (repairState .detected 0)).flt.copyOut = [0] ∧
    (repairState .detected 0).flag Fld.reqStatusSmDegraded = false ∧
    ((repairState .detected 0).flt.repairs.find? (·.state == .detected)).isSome = true ∧ (repairState .detected 0).flt.repairWait = [] ∧
    ((repairState .refetch 0).flt.repairs.find? (fun r => r.line == 0x4000 && r.state == .refetch)).isSome = true ∧
    ((ran (.repairReadback 0x4000 true) (repairState .verify 3)).flt.repairs.map (·.state)) = [.stuck] ∧
    (ran (.repairReadback 0x4000 false) (repairState .verify 1)).flt.repairs = [] := by decide +kernel

end Sys2Proof.Tests
end

section
/-! SUPPORT. The canonical form along a run: every command answers a run of primitive updates, and each of those keeps the
form (R4, R183, R190, R411). -/

namespace Sys2Proof.Machine

open Sys2Proof

/-- Updates one after another keep the canonical form. -/
theorem run_canonical (s : State) (us : List Upd) (w : s.Canonical) : (s.run us).Canonical := by
  induction us generalizing s with
  | nil => exact w
  | cons u us ih => exact ih _ (apply_canonical s u w)

/-- Whatever the command, its meaning is an action: no command faults or is refused, and no state is reached but by a run of
primitive updates. -/
theorem exec_eq_done (c : Instr) (s : State) : ∃ a, exec c s = done a s := by
  cases c <;> exact ⟨_, rfl⟩

/-- What a step can do: it takes one command from the queue, or none from an empty one, and runs primitive updates. -/
theorem step_eq_run {s t : State} (h : step s = .next t) : ∃ us, t = State.run { s with pending := s.pending.tail } us := by
  unfold step at h
  split at h
  · next hp =>
    rw [State.done_eq, Host.Outcome.next.injEq] at h
    have hs : { s with pending := s.pending.tail } = s := by cases s; cases hp; rfl
    exact ⟨tick s, by rw [hs]; exact h.symm⟩
  · next c rest hp =>
    obtain ⟨a, ha⟩ := exec_eq_done c { s with pending := rest }
    rw [ha, State.done_eq, Host.Outcome.next.injEq] at h
    exact ⟨a { s with pending := rest }, by rw [← h, hp]; rfl⟩

/-- Settles O7: a step is a run of primitive updates, and each of them keeps the canonical form. -/
theorem everyStepKeepsTheCanonicalForm : Obligations.EveryStepKeepsTheCanonicalForm := by
  unfold Obligations.EveryStepKeepsTheCanonicalForm
  intro s t w h
  obtain ⟨us, rfl⟩ := step_eq_run h
  exact run_canonical _ us w

end Sys2Proof.Machine
end

section
/-! SUPPORT. Writes of registers: which ones do nothing, what a plain write does, and what it gives each field (R5, R6, R295). -/

namespace Sys2Proof.Machine

open Sys2Proof

/-! ## A register write as an action -/

/-- A write below BAR2 answers the state after the write of a register. -/
theorem exec_registerWrite (s : State) {a : Nat} (w : Nat) (v : Word) (ha : a < Config.bar2) :
    exec (.registerWrite a w v) s = .next (s.after (regWrite a w v)) := by
  change done (if a < Config.bar2 then _ else _) s = _
  rw [if_pos ha, State.done_eq]

/-- A write without effect: not an aligned one of 4 or 8 bytes, at no register, or one that the host may not make now. -/
theorem runs_registerWrite_void (s : State) {a : Nat} (w : Nat) (v : Word) (ha : a < Config.bar2)
    (h : regWriteOf a w v = none ∨ regRow (a / 8 * 8) = none ∨ s.writeActs (a / 8 * 8) = false) :
    Runs (.registerWrite a w v) s fun t => t = s := by
  have hnil : regWrite a w v s = [] := by
    unfold regWrite
    rcases h with h | h | h
    · rw [h]
    · rw [h]; split <;> rfl
    · rw [h]; split
      · rfl
      · split <;> rfl
  exact ⟨_, exec_registerWrite s w v ha, by rw [State.after, hnil, State.run_nil]⟩

/-- While the function is not bound, no write of a register outside the CXL_ block acts (R295). -/
theorem writeActs_eq_false (s : State) {a : Nat} (hb : s.bound = false) (ha : ¬(Reg.cxlCap ≤ a ∧ a < Reg.hlCap)) :
    s.writeActs a = false := by
  unfold State.writeActs State.bound3
  rw [if_neg ha, hb]
  split <;> rfl

/-- A register whose writes carry no action takes a plain write. -/
theorem regAction_eq_plainWrite (s : State) {a : Nat} {r : RegRow} {x : RegWrite} (hring : s.ringReg a = none)
    (hlog : logPop a = none) (hcring : a < Reg.reqCring 0 ∨ Reg.reqCring 64 ≤ a) (hmem : memAction a r x = none)
    (hhub : hubAction a r x = none) : regAction a r x s = plainWrite a r x s := by
  have hk : ¬(Reg.reqCring 0 ≤ a ∧ (a - Reg.reqCring 0) / 16 < 64) := by
    simp only [Reg.reqCring] at hcring ⊢
    omega
  unfold regAction
  rw [hring, hlog]
  simp only [hmem, hhub, dif_neg hk]
  rfl

/-- A write that acts, of a register whose writes carry no action, replaces the register by its fields merged with the data. -/
theorem runs_registerWrite_plain (s : State) {a w : Nat} {v : Word} {x : RegWrite} {r : RegRow} {d : Nat} (ha : a < Config.bar2)
    (hx : regWriteOf a w v = some x) (hr : regRow (a / 8 * 8) = some (r, d)) (hacts : s.writeActs (a / 8 * 8) = true)
    (hring : s.ringReg (a / 8 * 8) = none) (hlog : logPop (a / 8 * 8) = none)
    (hcring : a / 8 * 8 < Reg.reqCring 0 ∨ Reg.reqCring 64 ≤ a / 8 * 8)
    (hmem : memAction (a / 8 * 8) r x = none) (hhub : hubAction (a / 8 * 8) r x = none) :
    Runs (.registerWrite a w v) s fun t => t = s.apply (.reg (a / 8 * 8) (s.merged (a / 8 * 8) r x)) := by
  refine ⟨_, exec_registerWrite s w v ha, ?_⟩
  have hact : regWrite a w v s = plainWrite (a / 8 * 8) r x s := by
    unfold regWrite
    rw [hx, hr]
    simp only [hacts, if_true]
    exact regAction_eq_plainWrite s hring hlog hcring hmem hhub
  rw [State.after, hact]
  rfl

/-- A register that takes a value: no other register and no byte of memory changes. -/
theorem sameRegs_apply_reg (s : State) (a : Nat) (v : Word) : SameRegs [a] s (s.apply (.reg a v)) :=
  fun _ hb => rd_reg_ne s v (by simpa using hb)

theorem sameMemory_apply_reg (s : State) (a : Nat) (v : Word) : SameMemory s (s.apply (.reg a v)) :=
  fun b => peek_congr rfl rfl b

/-! ## What a write gives a field -/

/-- The bits of a number's remainder by a power of two, below that power, are the number's. -/
theorem bitsOf_mod_two_pow (n x lo width : Nat) (h : lo + width ≤ n) : bitsOf (x % 2 ^ n) lo width = bitsOf x lo width := by
  apply Nat.eq_of_testBit_eq
  intro i
  simp only [bitsOf, Nat.testBit_mod_two_pow, Nat.testBit_shiftRight]
  by_cases hi : i < width
  · have : lo + i < n := by omega
    simp [hi, this]
  · simp [hi]

/-- A field as wide as its register holds the register's value, and taking a value it takes the whole register. -/
theorem Fld.put_whole (a : Nat) (w v : Word) : (⟨a, 0, 64⟩ : Fld).put w v.toNat = v := by
  apply BitVec.eq_of_getLsbD_eq
  intro i hi
  rw [Fld.put_getLsbD]
  simp [hi, BitVec.getLsbD]

theorem Fld.of_whole (a : Nat) (w : Word) : (⟨a, 0, 64⟩ : Fld).of w = w.toNat := by
  simp only [Fld.of, Nat.shiftRight_zero]
  exact Nat.mod_eq_of_lt w.isLt

/-- The field that a row gives a register at an address. -/
def RegField.fld (f : RegField) (a : Nat) : Fld := ⟨a, f.lo, f.hi + 1 - f.lo⟩

/-- What a write makes of an RW field: the field takes the value written where the write covers it and it may take that value. -/
theorem fieldWrite_rw (s : State) (a : Nat) (x : RegWrite) (old : Word) {f : RegField} (hacc : f.acc = .rw) :
    s.fieldWrite a x old f =
      if x.covers (f.fld a) ∧ s.mayTake a f.lo (bitsOf x.data f.lo (f.fld a).width) then
        (f.fld a).put old (bitsOf x.data f.lo (f.fld a).width)
      else old := by
  unfold State.fieldWrite
  rw [hacc]
  rfl

/-- What a write makes of a field of bits that are cleared by writing one. -/
theorem fieldWrite_w1c_perBit (s : State) (a : Nat) (x : RegWrite) (old : Word) {f : RegField} (hacc : f.acc = .w1c)
    (hbits : f.perBit = true) :
    s.fieldWrite a x old f = (f.fld a).put old ((f.fld a).of (old &&& ~~~(BitVec.ofNat 64 x.data))) := by
  unfold State.fieldWrite
  rw [hacc]
  exact if_pos (.inr hbits)

/-- A write puts a value into a field, or leaves the register as it was. -/
theorem fieldWrite_eq_put_or_self (s : State) (a : Nat) (x : RegWrite) (old : Word) (f : RegField) :
    (∃ v, s.fieldWrite a x old f = (f.fld a).put old v) ∨ s.fieldWrite a x old f = old := by
  unfold State.fieldWrite
  split <;> dsimp only
  case h_4 => exact .inr rfl
  all_goals
    split
    · exact .inl ⟨_, rfl⟩
    · exact .inr rfl

theorem of_fieldWrite_rw (s : State) (a : Nat) (x : RegWrite) (old : Word) {f : RegField} (hacc : f.acc = .rw)
    (h64 : (f.fld a).lo + (f.fld a).width ≤ 64) :
    (f.fld a).of (s.fieldWrite a x old f) =
      if x.covers (f.fld a) ∧ s.mayTake a f.lo (bitsOf x.data f.lo (f.fld a).width) then bitsOf x.data f.lo (f.fld a).width
      else (f.fld a).of old := by
  have hv : bitsOf x.data f.lo (f.fld a).width % 2 ^ (f.fld a).width = bitsOf x.data f.lo (f.fld a).width := Nat.mod_mod _ _
  rw [fieldWrite_rw s a x old hacc, apply_ite (f.fld a).of, Fld.of_put _ _ _ h64, hv]

/-- A write to one field leaves a field alone that shares no bit with it. -/
theorem of_fieldWrite_other (s : State) (a : Nat) (x : RegWrite) (old : Word) (f : RegField) {g : Fld}
    (h : g.lo + g.width ≤ (f.fld a).lo ∨ (f.fld a).lo + (f.fld a).width ≤ g.lo) :
    g.of (s.fieldWrite a x old f) = g.of old := by
  rcases fieldWrite_eq_put_or_self s a x old f with ⟨v, hv⟩ | hold
  · rw [hv, Fld.of_put_other _ _ _ _ h]
  · rw [hold]

/-- A field of a register that has taken a value. -/
theorem fget_reg_self (s : State) {a : Nat} {f : Fld} (v : Word) (h : f.addr = a) : (s.apply (.reg a v)).fget f = f.of v := by
  rw [State.fget, h, rd_reg_self]

/-! ## PWR_LIMIT (R369) -/

/-- The field emerg_w in the row of PWR_LIMIT. -/
def emergWField : RegField := ⟨47, 32, .rw, false⟩

/-- The field tdp_w in the row of PWR_LIMIT. -/
def tdpWField : RegField := ⟨15, 0, .rw, false⟩

/-- The row of PWR_LIMIT in the register index. -/
def pwrLimitRow : RegRow := ⟨0x10, 1, 0x8, 0x0000047E00000640, [emergWField, tdpWField]⟩

theorem regRow_pwrLimit : regRow Reg.pwrLimit = some (pwrLimitRow, 0) := by decide

/-- A write of PWR_LIMIT while bound is a plain write. -/
theorem runs_registerWrite_pwrLimit (s : State) {w : Nat} {v : Word} {x : RegWrite} (hb : s.bound = true)
    (hx : regWriteOf Reg.pwrLimit w v = some x) :
    Runs (.registerWrite Reg.pwrLimit w v) s fun t => t = s.apply (.reg Reg.pwrLimit (s.merged Reg.pwrLimit pwrLimitRow x)) :=
  runs_registerWrite_plain (a := Reg.pwrLimit) s (by decide) hx regRow_pwrLimit hb rfl rfl (by decide) rfl rfl

/-- A limit that a write covers takes the value written when that lies in 900 to 1,600 W. -/
theorem of_fieldWrite_limit (s : State) {x : RegWrite} (old : Word) {f : RegField} (hf : f = emergWField ∨ f = tdpWField)
    (hcov : x.covers (f.fld Reg.pwrLimit) = true) :
    (f.fld Reg.pwrLimit).of (s.fieldWrite Reg.pwrLimit x old f) =
      if 900 ≤ bitsOf x.data f.lo 16 ∧ bitsOf x.data f.lo 16 ≤ 1600 then bitsOf x.data f.lo 16
      else (f.fld Reg.pwrLimit).of old := by
  have hrange (v : Nat) : s.mayTake Reg.pwrLimit f.lo v = decide (900 ≤ v ∧ v ≤ 1600) := by rcases hf with rfl | rfl <;> rfl
  have hacc : f.acc = .rw := by rcases hf with rfl | rfl <;> rfl
  have hwidth : (f.fld Reg.pwrLimit).width = 16 := by rcases hf with rfl | rfl <;> rfl
  have h64 : (f.fld Reg.pwrLimit).lo + (f.fld Reg.pwrLimit).width ≤ 64 := by rcases hf with rfl | rfl <;> decide
  simp only [of_fieldWrite_rw s _ x old hacc h64, hcov, hrange, hwidth, decide_eq_true_eq, true_and]

/-- The writes of the two fields, emerg_w first, leave each other's bits alone. -/
theorem tdpW_of_emergW_write (s : State) (x : RegWrite) :
    Fld.pwrLimitTdpW.of (s.fieldWrite Reg.pwrLimit x (s.rd Reg.pwrLimit) emergWField) = s.fget Fld.pwrLimitTdpW :=
  of_fieldWrite_other s Reg.pwrLimit x _ emergWField (by decide)

theorem emergW_merged (s : State) (x : RegWrite) :
    Fld.pwrLimitEmergW.of (s.merged Reg.pwrLimit pwrLimitRow x) =
      Fld.pwrLimitEmergW.of (s.fieldWrite Reg.pwrLimit x (s.rd Reg.pwrLimit) emergWField) :=
  of_fieldWrite_other s Reg.pwrLimit x _ tdpWField (by decide)

/-- tdp_w after a write that covers it. -/
theorem fget_tdpW_write (s : State) {x : RegWrite} (hcov : x.covers Fld.pwrLimitTdpW = true) :
    (s.apply (.reg Reg.pwrLimit (s.merged Reg.pwrLimit pwrLimitRow x))).fget Fld.pwrLimitTdpW =
      if 900 ≤ bitsOf x.data 0 16 ∧ bitsOf x.data 0 16 ≤ 1600 then bitsOf x.data 0 16 else s.fget Fld.pwrLimitTdpW := by
  rw [← tdpW_of_emergW_write s x]
  exact (fget_reg_self s _ rfl).trans (of_fieldWrite_limit s _ (.inr rfl) hcov)

/-- emerg_w after a write that covers it. -/
theorem fget_emergW_write (s : State) {x : RegWrite} (hcov : x.covers Fld.pwrLimitEmergW = true) :
    (s.apply (.reg Reg.pwrLimit (s.merged Reg.pwrLimit pwrLimitRow x))).fget Fld.pwrLimitEmergW =
      if 900 ≤ bitsOf x.data 32 16 ∧ bitsOf x.data 32 16 ≤ 1600 then bitsOf x.data 32 16 else s.fget Fld.pwrLimitEmergW :=
  (fget_reg_self s _ rfl).trans ((emergW_merged s x).trans (of_fieldWrite_limit s _ (.inl rfl) hcov))

/-- A write that does not cover emerg_w leaves it alone. -/
theorem fget_emergW_write_uncovered (s : State) {x : RegWrite} (hcov : x.covers Fld.pwrLimitEmergW = false) :
    (s.apply (.reg Reg.pwrLimit (s.merged Reg.pwrLimit pwrLimitRow x))).fget Fld.pwrLimitEmergW = s.fget Fld.pwrLimitEmergW := by
  have hold : s.fieldWrite Reg.pwrLimit x (s.rd Reg.pwrLimit) emergWField = s.rd Reg.pwrLimit := by
    rw [fieldWrite_rw s _ x _ rfl]
    exact if_neg fun h => Bool.false_ne_true (hcov.symm.trans h.1)
  exact (fget_reg_self s _ rfl).trans ((emergW_merged s x).trans (congrArg _ hold))

/-! ## CXL_RING_ERR -/

/-- The row of CXL_RING_ERR in the register index: a bit for each ring, cleared by writing one. -/
def cxlRingErrRow : RegRow := ⟨0x20, 1, 0x8, 0x0, [⟨63, 0, .w1c, true⟩]⟩

theorem regRow_cxlRingErr : regRow Reg.cxlRingErr = some (cxlRingErrRow, 0) := by decide

/-- An 8-byte write of CXL_RING_ERR clears the bits written as one. -/
theorem merged_cxlRingErr (s : State) (v : Word) :
    s.merged Reg.cxlRingErr cxlRingErrRow ⟨0, 64, v.toNat⟩ = s.rd Reg.cxlRingErr &&& ~~~v := by
  change s.fieldWrite Reg.cxlRingErr ⟨0, 64, v.toNat⟩ (s.rd Reg.cxlRingErr) ⟨63, 0, .w1c, true⟩ = _
  rw [fieldWrite_w1c_perBit s _ _ _ rfl rfl, BitVec.ofNat_toNat, BitVec.setWidth_eq]
  exact (congrArg _ (Fld.of_whole _ _)).trans (Fld.put_whole _ _ _)

/-- Settles O19: a write without effect runs no update, and one that acts, of a register whose writes carry no action, is one
update of that register by its merged fields; PWR_LIMIT and CXL_RING_ERR are two such registers. -/
theorem registerWrites : Obligations.RegisterWrites := by
  unfold Obligations.RegisterWrites
  refine ⟨?_, ?_, ?_, ?_, ?_, ?_⟩
  · intro s a w v ha h
    exact runs_registerWrite_void s w v ha (h.imp_right .inl)
  · intro s a w v ha hb hout
    exact runs_registerWrite_void s w v ha (.inr (.inr (writeActs_eq_false s hb hout)))
  · intro s a w v x r d ha hx hr hacts hring hlog hcring hmem hhub
    obtain ⟨_, he, rfl⟩ := runs_registerWrite_plain s ha hx hr hacts hring hlog hcring hmem hhub
    exact ⟨_, he, rd_reg_self _ _ _, sameRegs_apply_reg _ _ _, rfl⟩
  · intro s v hb
    obtain ⟨_, he, rfl⟩ := runs_registerWrite_pwrLimit s (w := 8) (v := v) hb rfl
    exact ⟨_, he, fget_tdpW_write s rfl, fget_emergW_write s rfl, sameRegs_apply_reg _ _ _, sameMemory_apply_reg _ _ _⟩
  · intro s v hb
    obtain ⟨_, he, rfl⟩ := runs_registerWrite_pwrLimit s (w := 4) (v := v) hb rfl
    have htdp := fget_tdpW_write s (x := ⟨0, 32, v.toNat % 2 ^ 32⟩) rfl
    rw [bitsOf_mod_two_pow 32 v.toNat 0 16 (by decide)] at htdp
    exact ⟨_, he, htdp, fget_emergW_write_uncovered s rfl, sameRegs_apply_reg _ _ _, sameMemory_apply_reg _ _ _⟩
  · intro s v hio
    have hacts : s.writeActs Reg.cxlRingErr = true := congrArg not hio
    obtain ⟨_, he, rfl⟩ := runs_registerWrite_plain (a := Reg.cxlRingErr) (w := 8) (v := v) s (by decide) rfl regRow_cxlRingErr
      hacts rfl rfl (by decide) rfl rfl
    refine ⟨_, he, ?_, sameRegs_apply_reg _ _ _, sameMemory_apply_reg _ _ _⟩
    exact (rd_reg_self _ _ _).trans (merged_cxlRingErr s v)

end Sys2Proof.Machine
end
